-- ==== Sys2Proof/Word.lean ====
section
/-! DEFINITION. The word types of the Ocris and their plainest arithmetic (spec/00_scope.md R5, R6). -/

namespace Sys2Proof

/-- A byte of memory. -/
abbrev Byte := BitVec 8
/-- One lane of a vector register. -/
abbrev Lane := BitVec 32
/-- A scalar register, an address or a program counter. -/
abbrev Word := BitVec 64
/-- A lane mask: bit i is lane i. -/
abbrev Mask := BitVec 32

/-- All 32 lanes. -/
def fullMask : Mask := 0xFFFFFFFF

end Sys2Proof
end

