-- ==== Sys2Proof/Config.lean ====
section
/-! DEFINITION. What an implementation fixes, and the free values: constants without a body, which nothing in Lean
can evaluate, for every value the spec leaves open (spec/00_scope.md R4). -/

namespace Sys2Proof.Config

/-- The n-th free value of the run: any 64-bit value. Log 2. -/
opaque freeValue : Nat → BitVec 64

/-- Choice among the results an approximate form may return (06 R158): form, format width, operand, answer. Log 6. -/
opaque approxPick : Nat → Nat → Nat → Nat

/-- The security version the fuses carry (20 R394). Log 96. -/
opaque fuseSvn : BitVec 8

/-- What an SPDM request answers (20 R401), by the number of free values taken: the signed measurements. Log 96. -/
opaque spdmAnswer : Nat → Nat → Nat

/-- The energy attributed to a packet (21 R420): coefficients are calibrated at manufacture. Log 96. -/
opaque energy : Nat → BitVec 64

/-- The pass id the wicks of a pass carry (01 R38 names it and no rule gives its value), by packet. Log 15. -/
opaque passId : Nat → BitVec 64

/-- Whether an old value of an overwritten byte is found after a die reset (19 R393), by the number of free values taken and the byte's
place among those overwritten. Log 84. -/
opaque oldByte : Nat → Nat → Bool

/-- As of when a read finds memory that was overwritten: a constant read a sector (04 R94), a fetch a line (05 R125). By the number of
free values taken and the sector or line. Logs 102 and 103. -/
opaque oldTime : Nat → Nat → Nat

/-- Whether an access uses a cached translation that the tables no longer give (17 R352), by the number of free values taken, the page, and the
cached entry with its level and place. Log 2. -/
opaque stalePick : Nat → Nat → Nat → Bool

/-- A byte of a render target read from inside its pass (14 R297), by the number of free values taken and the byte's address. Log 105. -/
opaque targetByte : Nat → Nat → BitVec 8

/-- A byte of a world's structure that software wrote while the world was named (11 R230), by the number of free values taken and the
byte's address. Log 120. -/
opaque worldByte : Nat → Nat → BitVec 8

/-- Where the array of the records gathered for a node wick lies (13 R282), by the number of free values taken. Log 13. -/
opaque gatherBase : Nat → BitVec 57

/-- A byte of a record's place in that array after its retirement (13 R283), by the number of free values taken and the byte's address.
Log 13. -/
opaque arrayByte : Nat → Nat → BitVec 8

/-- Where the host's IOMMU puts a page of 512 KiB that the host port presents: by the PASID and the page's number (20 R396). Log 123. -/
opaque hostPage : BitVec 20 → Nat → BitVec 45

/-- The job nodes that a neighbour forwards to (20 R398). Log 124. -/
opaque forwards : BitVec 8 → BitVec 256

/-- The 256 bytes of an environment entry that nothing has allocated, of which only the fields with a stated reset value are taken away
(13 R259), by the number of free values taken and the entry. Log 135. -/
opaque envEntry : Nat → Nat → BitVec 2048

/-- Which of two fragments that issued last in the same cycle issues first, as siblings that have not issued yet (01 R25), by the number of
free values taken and the fragments. Log 139. -/
opaque fragFirst : Nat → Nat → Nat → Bool

/-- A byte read of a sector that the host or a peer refuses (20 R396, R399), by the number of free values taken and the byte's key. Log 73. -/
opaque refusedByte : Nat → Nat → BitVec 8

/-- Core cycles in a microsecond (00 R9). -/
def usCycles : Nat := 600

/-- Nodes of a fabric job a device can name (17 R349: eight bits). -/
def nodeCount : Nat := 256

end Sys2Proof.Config
end

