-- ==== Sys2Proof/Machine/Bits.lean ====
section
/-! DEFINITION. Bit fields of records and registers held as naturals, little-endian byte strings, and bit counts
(spec/00_scope.md R5, R6). -/

namespace Sys2Proof.Machine

/-- Bits [lo+len-1:lo] of w. -/
def fld (w lo len : Nat) : Nat := (w >>> lo) % 2 ^ len

/-- Bit lo of w. -/
def bitAt (w lo : Nat) : Bool := w.testBit lo

/-- The value v placed at bit lo. -/
def at_ (v lo : Nat) : Nat := v <<< lo

/-- A flag as a bit. -/
def bN (b : Bool) : Nat := if b then 1 else 0

/-- w with its len bits at lo replaced by v. -/
def setFld (w lo len v : Nat) : Nat :=
  w - (fld w lo len <<< lo) + ((v % 2 ^ len) <<< lo)

/-- The len-bit field x read as a signed integer (03 R81 SEXT). -/
def sextN (x len : Nat) : Int :=
  if len = 0 then 0 else if (x % 2 ^ len) < 2 ^ (len - 1) then ((x % 2 ^ len : Nat) : Int) else ((x % 2 ^ len : Nat) : Int) - (2 ^ len : Nat)

/-- The integer x modulo 2^len (03 R81 WRAP). -/
def wrapI (x : Int) (len : Nat) : Nat := (x % ((2 ^ len : Nat) : Int)).toNat

/-- A word extended from a signed 32-bit displacement (04 R88). -/
def sext32 (x : BitVec 32) : Word := x.signExtend 64

/-- The bytes of v, lowest first (00 R6). -/
def leBytes : Nat → Nat → List Byte
  | 0, _ => []
  | n + 1, v => BitVec.ofNat 8 v :: leBytes n (v / 256)

/-- The value of little-endian bytes (00 R6). -/
def leVal : List Byte → Nat
  | [] => 0
  | b :: bs => b.toNat + 256 * leVal bs

/-- Number of ones among the low n bits. -/
def popN : Nat → Nat → Nat
  | 0, _ => 0
  | n + 1, v => v % 2 + popN n (v / 2)

/-- Trailing zeros of an n-bit value; n for zero (06 R152). -/
def ctzN : Nat → Nat → Nat
  | 0, _ => 0
  | n + 1, v => if v % 2 = 1 then 0 else 1 + ctzN n (v / 2)

/-- Leading zeros of an n-bit value; n for zero (06 R152). -/
def clzN (n v : Nat) : Nat := if v % 2 ^ n = 0 then n else n - 1 - (v % 2 ^ n).log2

/-- Bits of an n-bit value in reverse order (06 R152). -/
def brevN : Nat → Nat → Nat
  | 0, _ => 0
  | n + 1, v => (v % 2) * 2 ^ n + brevN n (v / 2)

/-- The lanes of a mask in ascending order. -/
def lanesOf (m : Mask) : List Nat := (List.range 32).filter (fun i => m.getLsbD i)

/-- The mask of the lanes that satisfy f. -/
def maskOf (f : Nat → Bool) : Mask :=
  BitVec.ofNat 32 ((List.range 32).foldl (fun acc i => if f i then acc + 2 ^ i else acc) 0)

/-- Number of lanes of a mask. -/
def popMask (m : Mask) : Nat := popN 32 m.toNat

/-- Bits of v as one word list of width w: element j is bits [w(j+1)-1:wj]. -/
def elems (w n v : Nat) : List Nat := (List.range n).map (fun j => fld v (w * j) w)

/-- Elements of width w packed, element 0 lowest (03 R68). -/
def packElems (w : Nat) : List Nat → Nat
  | [] => 0
  | e :: es => e % 2 ^ w + 2 ^ w * packElems w es

/-- The first element of l that satisfies f, with its place. -/
def findIdx (f : α → Bool) : List α → Option Nat
  | [] => none
  | x :: xs => if f x then some 0 else (findIdx f xs).map (· + 1)

/-- l with its i-th element changed by f. -/
def modAt (l : List α) (i : Nat) (f : α → α) : List α :=
  match l, i with
  | [], _ => []
  | x :: xs, 0 => f x :: xs
  | x :: xs, i + 1 => x :: modAt xs i f

/-- l with the first element that satisfies p changed by f. -/
def modFirst (p : α → Bool) (f : α → α) : List α → List α
  | [] => []
  | x :: xs => if p x then f x :: xs else x :: modFirst p f xs

/-- Ceiling of a / b. -/
def cdiv (a b : Nat) : Nat := (a + b - 1) / b

/-- Number of runs of f until it answers none, at most n. -/
def iterate (n : Nat) (f : α → α) (x : α) : α :=
  match n with
  | 0 => x
  | n + 1 => iterate n f (f x)

/-- n addresses from a on. -/
def bytesFrom (a n : Nat) : List Nat := (List.range n).map (a + ·)

end Sys2Proof.Machine
end

