-- ==== Sys2Proof/Syntax.lean ====
section
/-! DEFINITION. The instructions of the Ocris as data: the common header, the five formats of 05 R127 to R132, and one
constructor for each row of spec/opcode_table.json. -/

namespace Sys2Proof

/-- The TY codes 0 to 14 (03 R69); code 15 is reserved and has no value here. -/
inductive Ty where
  | b32 | i32 | n32 | f32 | i16x2 | n16x2 | f16x2 | bf16x2 | i8x4 | n8x4 | i64 | n64 | f64 | e4m3x4 | e5m2x4
  deriving DecidableEq, Repr

/-- Rounding modes, codes 0 to 5 (03 R76). -/
inductive Rm where
  | rne | rtz | rup | rdn | rna | sto
  deriving DecidableEq, Repr

/-- Address spaces, codes 0 to 5 (04 R87). -/
inductive Space where
  | glob | prv | lab | rab | cb | cst
  deriving DecidableEq, Repr

/-- Access sizes of format M, codes 0 to 4 (05 R129): 1, 2, 4, 8 and 16 bytes. -/
inductive Size where
  | b1 | b2 | b4 | b8 | b16
  deriving DecidableEq, Repr

/-- SC: plain and the five scopes (04 R103). -/
inductive Scope where
  | plain | core | cluster | device | fabric | system
  deriving DecidableEq, Repr

/-- OR (05 R129). -/
inductive Order where
  | relaxed | acquire | release | acqRel
  deriving DecidableEq, Repr

/-- The header's SUB and guard (05 R126). The OPC is the constructor. -/
structure Hdr where
  sub : BitVec 4
  gn  : Bool
  gp  : BitVec 4
  deriving DecidableEq, Repr

/-- Format C (05 R131). -/
structure OpC where
  s : BitVec 6
  s2 : BitVec 6
  cq : BitVec 4
  cm : BitVec 3
  off2 : BitVec 25
  slot2 : BitVec 3
  off : BitVec 29
  slot : BitVec 3
  deriving DecidableEq, Repr

/-- Format V (05 R127); the reserved bits [34:32] are zero in every instruction. -/
structure OpV where
  d : BitVec 8
  a : BitVec 8
  b : BitVec 8
  c : BitVec 8
  ty : Ty
  rm : Rm
  sat : Bool
  absa : Bool
  negb : Bool
  nega : Bool
  ib : Bool
  imm : BitVec 32
  deriving DecidableEq, Repr

/-- Format M (05 R129). -/
structure OpM where
  d : BitVec 8
  x : BitVec 8
  s : BitVec 6
  tx : BitVec 3
  sp : Space
  sz : Size
  sc : Scope
  or_ : Order
  rp : Bool
  ext : Bool
  nt : Bool
  aux : BitVec 8
  disp : BitVec 32
  deriving DecidableEq, Repr

/-- Format X (05 R130). -/
structure OpX where
  d : BitVec 8
  a : BitVec 8
  b : BitVec 8
  c : BitVec 8
  flags : BitVec 15
  imm : BitVec 32
  deriving DecidableEq, Repr

/-- Format Y (05 R132); its reserved bits are zero in every instruction. -/
structure OpY where
  d : BitVec 8
  a : BitVec 8
  b : BitVec 8
  imm : BitVec 32
  deriving DecidableEq, Repr

/-- What a peer asks of this node's memory over a Knaos link (20 R398, R399). -/
inductive PeerReq where
  | read
  | write (value : Nat)
  /-- A write whose data carries poison (20 R402). -/
  | poisonedWrite (value : Nat)
  /-- An atomic of 17 R365 with its operation code (07 R173; 0x0E compare) and operands. -/
  | atomic (op : BitVec 8) (operand compare : Word)
  deriving DecidableEq, Repr

/-- The firmware image a boot finds: what the two signature checks say of it, and its security version (20 R401). -/
structure Firmware where
  ecdsaOk : Bool
  lmsOk : Bool
  svn : BitVec 8
  deriving DecidableEq, Repr

/-- A context's registers as the Candelabrum installs them (16 R329), by register number, and its PASID. -/
structure CtxInstall where
  ctx : BitVec 16
  part : BitVec 3
  pasid : BitVec 20
  regs : List (BitVec 12 × Word)
  deriving DecidableEq, Repr

/-- Configuration cycles of the driver (20 R394, R396), and the installing of a context (16 R329). A cycle reads or writes four bytes at an
offset from the base of the DVSEC capability; NODE, ERBASE and ERSIZE may be written whole. -/
inductive ConfigReg where
  | cycle (offset : Nat) (write : Option (BitVec 32))
  | node (value : BitVec 32)
  | erBase (value : Word)
  | erSize (value : BitVec 32)
  | atomicRequester (on : Bool)
  | context (c : CtxInstall)
  deriving DecidableEq, Repr

/-- The unit an error names (20 R403, R405): UNIT code, SRCID fields, physical address, partitions affected. -/
structure UnitId where
  unit : BitVec 8
  srcId : BitVec 32
  addr : Word
  parts : BitVec 8
  deriving DecidableEq, Repr

/-- Who consumes poisoned data (20 R402). -/
inductive Consumer where
  | wick (id : Nat)
  | channel (chan : Nat)
  | quant (cluster : Nat)
  | matrix (core : Nat)
  | lantern (ray : Nat)
  | tableStore (pkt : Nat)
  deriving DecidableEq, Repr

/-- The domain a power change acts on (21 R418): a die, or one cluster. -/
inductive Domain where
  | die (d : Nat)
  | cluster (c : Nat)
  deriving DecidableEq, Repr

/-- A power change (21 R418, R419): kind, clock in MHz, voltage in mV, issue limit. -/
structure Throttle where
  kind : BitVec 8
  mhz : BitVec 16
  mv : BitVec 16
  limit : BitVec 8
  deriving DecidableEq, Repr

/-- Every row of spec/opcode_table.json. A wick form carries its header h (05 R126) and the fields o of its
format; a Lantern microinstruction its operand fields (14 R312); an indivisible step that no word encodes (an
engine's, a packet's, the host's) carries which unit, packet or record it acts on and what the outside supplies. -/
inductive Instr where
  | nop (h : Hdr) (o : OpC)
  | bra (h : Hdr) (o : OpC)
  | brq (h : Hdr) (o : OpC)
  | brp (h : Hdr) (o : OpC)
  | brs (h : Hdr) (o : OpC)
  | call (h : Hdr) (o : OpC)
  | calli (h : Hdr) (o : OpC)
  | ret (h : Hdr) (o : OpC)
  | loop (h : Hdr) (o : OpC)
  | fork (h : Hdr) (o : OpC)
  | join (h : Hdr) (o : OpC)
  | exit (h : Hdr) (o : OpC)
  | sleep (h : Hdr) (o : OpC)
  | yield (h : Hdr) (o : OpC)
  | bkpt (h : Hdr) (o : OpC)
  | trapu (h : Hdr) (o : OpC)
  | sadd (h : Hdr) (o : OpV)
  | ssub (h : Hdr) (o : OpV)
  | smul (h : Hdr) (o : OpV)
  | sdiv (h : Hdr) (o : OpV)
  | sand (h : Hdr) (o : OpV)
  | sor (h : Hdr) (o : OpV)
  | sxor (h : Hdr) (o : OpV)
  | sshl (h : Hdr) (o : OpV)
  | sshr (h : Hdr) (o : OpV)
  | smin (h : Hdr) (o : OpV)
  | smax (h : Hdr) (o : OpV)
  | scmp (h : Hdr) (o : OpV)
  | ssel (h : Hdr) (o : OpV)
  | smov (h : Hdr) (o : OpV)
  | sbit (h : Hdr) (o : OpV)
  | sbfx (h : Hdr) (o : OpV)
  | sfop (h : Hdr) (o : OpV)
  | sfcmp (h : Hdr) (o : OpV)
  | scvt (h : Hdr) (o : OpV)
  | qop (h : Hdr) (o : OpV)
  | shi (h : Hdr) (o : OpV)
  | wickctlRelease (h : Hdr) (o : OpY)
  | wickctlKill (h : Hdr) (o : OpY)
  | wickctlPark (h : Hdr) (o : OpY)
  | wickctlUnpark (h : Hdr) (o : OpY)
  | replay (h : Hdr) (o : OpY)
  | halt (h : Hdr) (o : OpY)
  | eret (h : Hdr) (o : OpY)
  | eretNext (h : Hdr) (o : OpY)
  | eretReflect (h : Hdr) (o : OpY)
  | mfpr (h : Hdr) (o : OpY)
  | mtpr (h : Hdr) (o : OpY)
  | savev (h : Hdr) (o : OpY)
  | loadv (h : Hdr) (o : OpY)
  | savekSave (h : Hdr) (o : OpY)
  | savekLoad (h : Hdr) (o : OpY)
  | quiesceWait (h : Hdr) (o : OpY)
  | quiesceCancel (h : Hdr) (o : OpY)
  | tlbinv (h : Hdr) (o : OpY)
  | vadd (h : Hdr) (o : OpV)
  | vsub (h : Hdr) (o : OpV)
  | vmul (h : Hdr) (o : OpV)
  | vmad (h : Hdr) (o : OpV)
  | vand (h : Hdr) (o : OpV)
  | vor (h : Hdr) (o : OpV)
  | vxor (h : Hdr) (o : OpV)
  | vshl (h : Hdr) (o : OpV)
  | vshr (h : Hdr) (o : OpV)
  | vmin (h : Hdr) (o : OpV)
  | vmax (h : Hdr) (o : OpV)
  | vabsd (h : Hdr) (o : OpV)
  | vcmp (h : Hdr) (o : OpV)
  | vsel (h : Hdr) (o : OpV)
  | vmov (h : Hdr) (o : OpV)
  | vaddmin (h : Hdr) (o : OpV)
  | vaddmax (h : Hdr) (o : OpV)
  | vbit (h : Hdr) (o : OpV)
  | vbfx (h : Hdr) (o : OpV)
  | vdot (h : Hdr) (o : OpV)
  | vclamp (h : Hdr) (o : OpV)
  | fadd (h : Hdr) (o : OpV)
  | fsub (h : Hdr) (o : OpV)
  | fmul (h : Hdr) (o : OpV)
  | ffma (h : Hdr) (o : OpV)
  | fmin (h : Hdr) (o : OpV)
  | fmax (h : Hdr) (o : OpV)
  | fcmp (h : Hdr) (o : OpV)
  | fclass (h : Hdr) (o : OpV)
  | frcp (h : Hdr) (o : OpV)
  | frsq (h : Hdr) (o : OpV)
  | fsqrt (h : Hdr) (o : OpV)
  | fexp2 (h : Hdr) (o : OpV)
  | flog2 (h : Hdr) (o : OpV)
  | fsincos (h : Hdr) (o : OpV)
  | fdiv (h : Hdr) (o : OpV)
  | fdot2 (h : Hdr) (o : OpV)
  | fcvt (h : Hdr) (o : OpV)
  | icvt (h : Hdr) (o : OpV)
  | fpack (h : Hdr) (o : OpV)
  | funpack (h : Hdr) (o : OpV)
  | fscale (h : Hdr) (o : OpV)
  | lshf (h : Hdr) (o : OpV)
  | lrot (h : Hdr) (o : OpV)
  | lperm (h : Hdr) (o : OpV)
  | lbcast (h : Hdr) (o : OpV)
  | lred (h : Hdr) (o : OpV)
  | lscan (h : Hdr) (o : OpV)
  | lbal (h : Hdr) (o : OpV)
  | lpack (h : Hdr) (o : OpV)
  | lmatch (h : Hdr) (o : OpV)
  | plop (h : Hdr) (o : OpV)
  | pset (h : Hdr) (o : OpV)
  | aff (h : Hdr) (o : OpV)
  | vshape (h : Hdr) (o : OpV)
  | vcomp (h : Hdr) (o : OpV)
  | vexp (h : Hdr) (o : OpV)
  | mfs (h : Hdr) (o : OpV)
  | mts (h : Hdr) (o : OpV)
  | ld (h : Hdr) (o : OpM)
  | st (h : Hdr) (o : OpM)
  | ldaBcast (h : Hdr) (o : OpM)
  | ldaSeq (h : Hdr) (o : OpM)
  | sta (h : Hdr) (o : OpM)
  | ldc (h : Hdr) (o : OpM)
  | stc (h : Hdr) (o : OpM)
  | lds (h : Hdr) (o : OpM)
  | sts (h : Hdr) (o : OpM)
  | atom (h : Hdr) (o : OpM)
  | satom (h : Hdr) (o : OpM)
  | cas (h : Hdr) (o : OpM)
  | fence (h : Hdr) (o : OpM)
  | icinv (h : Hdr) (o : OpM)
  | cache (h : Hdr) (o : OpM)
  | txl (h : Hdr) (o : OpM)
  | txi (h : Hdr) (o : OpM)
  | waitm (h : Hdr) (o : OpM)
  | ldq (h : Hdr) (o : OpM)
  | cpy (h : Hdr) (o : OpX)
  | cpyg (h : Hdr) (o : OpX)
  | cpys (h : Hdr) (o : OpX)
  | cpym (h : Hdr) (o : OpX)
  | seal (h : Hdr) (o : OpX)
  | waitb (h : Hdr) (o : OpX)
  | binit (h : Hdr) (o : OpX)
  | barv (h : Hdr) (o : OpX)
  | bwait (h : Hdr) (o : OpX)
  | btest (h : Hdr) (o : OpX)
  | waitwp (h : Hdr) (o : OpX)
  | chrst (h : Hdr) (o : OpX)
  | qsub (h : Hdr) (o : OpX)
  | qwait (h : Hdr) (o : OpX)
  | cpyst (h : Hdr) (o : OpX)
  | mma (h : Hdr) (o : OpX)
  | mmas (h : Hdr) (o : OpX)
  | mmac (h : Hdr) (o : OpX)
  | mzero (h : Hdr) (o : OpX)
  | mzeroLat (h : Hdr) (o : OpX)
  | mdrain (h : Hdr) (o : OpX)
  | mldw (h : Hdr) (o : OpX)
  | mwait (h : Hdr) (o : OpX)
  | mstat (h : Hdr) (o : OpX)
  | ecrt (h : Hdr) (o : OpX)
  | edel (h : Hdr) (o : OpX)
  | eadd (h : Hdr) (o : OpX)
  | erem (h : Hdr) (o : OpX)
  | hres (h : Hdr) (o : OpX)
  | ecol (h : Hdr) (o : OpX)
  | eqry (h : Hdr) (o : OpX)
  | estat (h : Hdr) (o : OpX)
  | ecnt (h : Hdr) (o : OpX)
  | capt (h : Hdr) (o : OpX)
  | apply (h : Hdr) (o : OpX)
  | applyV (h : Hdr) (o : OpX)
  | kdup (h : Hdr) (o : OpX)
  | krel (h : Hdr) (o : OpX)
  | kld (h : Hdr) (o : OpX)
  | kmov (h : Hdr) (o : OpX)
  | kref (h : Hdr) (o : OpX)
  | uisend (h : Hdr) (o : OpX)
  | uimask (h : Hdr) (o : OpX)
  | uimaskClaim (h : Hdr) (o : OpX)
  | uipendTake (h : Hdr) (o : OpX)
  | uipendPeek (h : Hdr) (o : OpX)
  | uiret (h : Hdr) (o : OpX)
  | uiwait (h : Hdr) (o : OpX)
  | svc (h : Hdr) (o : OpX)
  | svcw (h : Hdr) (o : OpX)
  | emit (h : Hdr) (o : OpX)
  | nodefin (h : Hdr) (o : OpX)
  | bin (h : Hdr) (o : OpX)
  | rast (h : Hdr) (o : OpX)
  | ztest (h : Hdr) (o : OpX)
  | rtw (h : Hdr) (o : OpX)
  | tilef (h : Hdr) (o : OpX)
  | tex (h : Hdr) (o : OpX)
  | trace (h : Hdr) (o : OpX)
  | cont (h : Hdr) (o : OpX)
  | rsusp (h : Hdr) (o : OpX)
  | rres (h : Hdr) (o : OpX)
  | lntp (h : Hdr) (o : OpX)
  | mNode
  | mBoxn
  | mOrder
  | mPushc
  | mPop
  | mLeaf
  | mPrim
  | mHit
  | mCallk
  | mAccept
  | mIgnore
  | mSett (sel : BitVec 2)
  | mJmp (target : BitVec 6)
  | mJif (neg : Bool) (cond : BitVec 4) (target : BitVec 6)
  | mCnt (op : BitVec 2) (value : BitVec 8)
  | mTerm
  | mDone
  | evSleepExpiry (wick frag : Nat)
  | evRaySuspension (ray : Nat)
  | evVerdictArrival (wick : Nat)
  | evVerdictTimeout (ray : Nat)
  | evRunaway (ray : Nat)
  | evTexelFetchComplete (rec : Nat)
  | evContinuationWickStart (rec : Nat)
  | evChandelierGatherTimer (rec : Nat)
  | evNodeWickStart (graph node : Nat)
  | evGatherTimer (graph node : Nat)
  | evTilePhaseStart (pkt : Nat)
  | evTileCompletion (pkt tile : Nat)
  | evCopyCompletion (chan : Nat)
  | evCopyFaultStop (chan : Nat)
  | evCopyContinue (work : Nat)
  | evMatrixInstructionComplete (core : Nat)
  | evMmacRendezvous (band : Nat)
  | evStreamingKBlock (core : Nat)
  | evQuantCommandComplete (cluster : Nat)
  | evQuantFaultStop (cluster : Nat)
  | evApplicationPhase (pkt : Nat)
  | evCompactionMove (pkt : Nat)
  | evQueryBlockDispatch (pkt : Nat)
  | evFaultRecord (ctx : Nat)
  | evIssueCycle (port : Nat)
  | evAgeGuard (wick : Nat)
  | evPreemptionEntry (wick : Nat)
  | evPreemptionWatchdog (group : Nat)
  | evRestoreEntry (group : Nat)
  | evResumeEntry (wick : Nat)
  | evUserInterruptDelivery (ctx : Nat)
  | evDebugStop (wick : Nat)
  | evTailWrite (die queue size : Nat) (value : Word)
  | evParseRound (die : Nat)
  | evNopPacket (pkt : Nat)
  | evLaunch (pkt : Nat)
  | evWorldsync (pkt : Nat)
  | evCopy (pkt : Nat)
  | evSnapshot (pkt : Nat)
  | evSignal (pkt : Nat)
  | evUiraise (pkt : Nat)
  | evWait (pkt : Nat)
  | evWaitSatisfied (pkt : Nat)
  | evCancel (pkt : Nat)
  | evPreempt (pkt : Nat)
  | evResume (pkt : Nat)
  | evPacketStart (pkt : Nat)
  | evPlacement (part : Nat)
  | evPacketCompletion (pkt : Nat)
  | evSnapshotStart (pkt : Nat)
  | evCutMessage (node : Nat) (cut : BitVec 32)
  | evCutTimeout (pkt : Nat)
  | evDrainStageComplete (pkt : Nat) (ok : Bool)
  | evDoorbellSend (pasid : Option (BitVec 20)) (offset size : Nat) (payload : Word)
  | evPeerSend (node sender target vector : Nat) (payload : Word)
  | evServiceReply (part : Nat) (token value : Word)
  | evHostMemoryAccess (addr size : Nat) (store : Option (Nat × Bool))
  | evPeerMemoryRequest (node pa size : Nat) (req : PeerReq)
  | evQueueDescriptorWrite (die queue index : Nat) (value : Word)
  | evRecover (die : Nat)
  | evResetRung2 (die : Nat)
  | evResetRung3 (die part : Nat)
  | evResetRung4 (die : Nat)
  | evFunctionLevelReset (cxl : Bool) (image : Firmware)
  | evColdReset (image : Firmware)
  | evPilotTick (die : Nat)
  | evSpdmRequest (request : Nat)
  | evKlctlWrite (port : Nat) (value : BitVec 32)
  | evPartcfgWrite (part : Nat) (value : BitVec 32)
  | evPlimitWrite (value : BitVec 32)
  | evConfigRegisterWrite (reg : ConfigReg)
  | evLinkStateChange (port : Nat) (up : Bool) (peer : BitVec 8) (peerGen : Bool)
  | evLinkHeartbeatTimeout (node : Nat)
  | evLossNotice (node : Nat)
  | evCorrectableError (unit : UnitId) (spare : Bool)
  | evUncorrectableError (unit : UnitId) (key : Nat)
  | evPoisonConsumption (by_ : Consumer)
  | evThrottleChange (domain : Domain) (change : Throttle)
  | evCopyElementDelivery (chan : Nat)
  | evTexelFetchFaultStop (rec : Nat)
  | evTilefCompletion (core : Nat)
  | evSnapshotCopyComplete (pkt : Nat)
  | evRungCompletion (die : Nat)
  | evWickKillCommand (wick : Nat)
  | evPeerSendAnswer (wick : Nat × Nat) (accepted : Bool)
  deriving DecidableEq, Repr

end Sys2Proof
end

