-- ==== Sys2Proof/Machine/Forms.lean ====
section
/-! DEFINITION. The forms of the instructions: which fields each uses and in which class (05 R133, 02 R48), which TY,
SUB, modifier and flag values it accepts, and so which encodings are illegal (05 R128 to R136). -/

namespace Sys2Proof

open Machine

/-! ### Codes -/

def Ty.code : Ty → Nat
  | .b32 => 0 | .i32 => 1 | .n32 => 2 | .f32 => 3 | .i16x2 => 4 | .n16x2 => 5 | .f16x2 => 6 | .bf16x2 => 7
  | .i8x4 => 8 | .n8x4 => 9 | .i64 => 10 | .n64 => 11 | .f64 => 12 | .e4m3x4 => 13 | .e5m2x4 => 14

def tyOfCode : Nat → Option Ty
  | 0 => some .b32 | 1 => some .i32 | 2 => some .n32 | 3 => some .f32 | 4 => some .i16x2 | 5 => some .n16x2
  | 6 => some .f16x2 | 7 => some .bf16x2 | 8 => some .i8x4 | 9 => some .n8x4 | 10 => some .i64 | 11 => some .n64
  | 12 => some .f64 | 13 => some .e4m3x4 | 14 => some .e5m2x4 | _ => none

def Rm.code : Rm → Nat
  | .rne => 0 | .rtz => 1 | .rup => 2 | .rdn => 3 | .rna => 4 | .sto => 5

def rmOfCode : Nat → Option Rm
  | 0 => some .rne | 1 => some .rtz | 2 => some .rup | 3 => some .rdn | 4 => some .rna | 5 => some .sto | _ => none

def Space.code : Space → Nat
  | .glob => 0 | .prv => 1 | .lab => 2 | .rab => 3 | .cb => 4 | .cst => 5

def spaceOfCode : Nat → Option Space
  | 0 => some .glob | 1 => some .prv | 2 => some .lab | 3 => some .rab | 4 => some .cb | 5 => some .cst | _ => none

def Size.code : Size → Nat
  | .b1 => 0 | .b2 => 1 | .b4 => 2 | .b8 => 3 | .b16 => 4

def sizeOfCode : Nat → Option Size
  | 0 => some .b1 | 1 => some .b2 | 2 => some .b4 | 3 => some .b8 | 4 => some .b16 | _ => none

/-- Bytes of an access size (05 R129). -/
def Size.bytes : Size → Nat
  | .b1 => 1 | .b2 => 2 | .b4 => 4 | .b8 => 8 | .b16 => 16

/-- Registers an access of this size occupies (05 R129). -/
def Size.regs : Size → Nat
  | .b8 => 2 | .b16 => 4 | _ => 1

def Scope.code : Scope → Nat
  | .plain => 0 | .core => 1 | .cluster => 2 | .device => 3 | .fabric => 4 | .system => 5

def scopeOfCode : Nat → Option Scope
  | 0 => some .plain | 1 => some .core | 2 => some .cluster | 3 => some .device | 4 => some .fabric | 5 => some .system
  | _ => none

def Order.code : Order → Nat
  | .relaxed => 0 | .acquire => 1 | .release => 2 | .acqRel => 3

def orderOfCode : Nat → Order
  | 1 => .acquire | 2 => .release | 3 => .acqRel | _ => .relaxed

/-! ### Types -/

/-- Element width in bits (03 R69). -/
def Ty.ew : Ty → Nat
  | .b32 | .i32 | .n32 | .f32 => 32
  | .i16x2 | .n16x2 | .f16x2 | .bf16x2 => 16
  | .i8x4 | .n8x4 | .e4m3x4 | .e5m2x4 => 8
  | .i64 | .n64 | .f64 => 64

/-- Elements in an operand: of a 32-bit lane, or one of a pair (03 R69). -/
def Ty.count : Ty → Nat
  | .i16x2 | .n16x2 | .f16x2 | .bf16x2 => 2
  | .i8x4 | .n8x4 | .e4m3x4 | .e5m2x4 => 4
  | _ => 1

/-- Width of the whole operand: 32, or 64 for a pair. -/
def Ty.ow (t : Ty) : Nat := t.ew * t.count

def Ty.signed : Ty → Bool
  | .i32 | .i16x2 | .i8x4 | .i64 => true
  | _ => false

def Ty.is64 : Ty → Bool
  | .i64 | .n64 | .f64 => true
  | _ => false

/-- Registers a vector operand of this type takes. -/
def Ty.regs (t : Ty) : Nat := if t.is64 then 2 else 1

def Ty.isInt : Ty → Bool
  | .b32 | .i32 | .n32 | .i16x2 | .n16x2 | .i8x4 | .n8x4 | .i64 | .n64 => true
  | _ => false

/-- One-element integer types (06 R152, R155). -/
def Ty.isInt1 : Ty → Bool
  | .b32 | .i32 | .n32 | .i64 | .n64 => true
  | _ => false

/-- Wide integer types of the HI product (06 R152). -/
def Ty.isWide : Ty → Bool
  | .i32 | .n32 | .i64 | .n64 => true
  | _ => false

/-- f32, f16x2, bf16x2. -/
def Ty.isF3 : Ty → Bool
  | .f32 | .f16x2 | .bf16x2 => true
  | _ => false

def Ty.isF4 (t : Ty) : Bool := t.isF3 || t == .f64

/-- f32 and f64. -/
def Ty.isFs : Ty → Bool
  | .f32 | .f64 => true
  | _ => false

def Ty.isFloat : Ty → Bool
  | .f32 | .f16x2 | .bf16x2 | .f64 | .e4m3x4 | .e5m2x4 => true
  | _ => false

/-- b32 or a 64-bit type (06 R155 VSEL, R160). -/
def Ty.isMove : Ty → Bool
  | .b32 | .i64 | .n64 | .f64 => true
  | _ => false

/-- The packed integer types of VDOT (06 R155). -/
def Ty.isDot : Ty → Bool
  | .i16x2 | .n16x2 | .i8x4 | .n8x4 => true
  | _ => false

/-- The scalar conversion types of SCVT (06 R153). -/
def Ty.isCvt : Ty → Bool
  | .i32 | .n32 | .i64 | .n64 | .f32 | .f64 => true
  | _ => false

/-! ### Operand classes -/

/-- The class of a register field (05 R133), v with the number of registers it names; v3 is three from a multiple of four, as ECRT's D
(11 R236). -/
inductive Cls where
  | none | s | s2 | q | p | k | v3 | v (n : Nat)
  deriving DecidableEq, Repr

/-- How a form uses a register field. -/
structure Opnd where
  cls : Cls
  rd : Bool
  wr : Bool
  deriving DecidableEq, Repr

def no : Opnd := ⟨.none, false, false⟩
def sR : Opnd := ⟨.s, true, false⟩
def sW : Opnd := ⟨.s, false, true⟩
def sRW : Opnd := ⟨.s, true, true⟩
def s2R : Opnd := ⟨.s2, true, false⟩
def s2RW : Opnd := ⟨.s2, true, true⟩
def qR : Opnd := ⟨.q, true, false⟩
def qW : Opnd := ⟨.q, false, true⟩
def pR : Opnd := ⟨.p, true, false⟩
def pW : Opnd := ⟨.p, false, true⟩
def kR : Opnd := ⟨.k, true, false⟩
def kW : Opnd := ⟨.k, false, true⟩
def kRW : Opnd := ⟨.k, true, true⟩
def vR (n : Nat) : Opnd := ⟨.v n, true, false⟩
def vW (n : Nat) : Opnd := ⟨.v n, false, true⟩
def vRW (n : Nat) : Opnd := ⟨.v n, true, true⟩

/-- 02 R48 and R50: the field's upper bits are zero, a pair is even and a quad a multiple of four; v with no register takes any number. -/
def Opnd.fits (o : Opnd) (f : BitVec 8) : Bool :=
  match o.cls with
  | .none => f == 0
  | .s => f.toNat < 64
  | .s2 => f.toNat < 64 && f.toNat % 2 == 0
  | .q | .p | .k => f.toNat < 16
  | .v3 => f.toNat % 4 == 0
  | .v n => n == 0 || f.toNat % n == 0

/-- What a format V form accepts (05 R128). -/
structure VSpec where
  sub : Bool := false
  ty : Bool := false
  nega : Bool := false
  absa : Bool := false
  negb : Bool := false
  sat : Bool := false
  rm : Bool := false
  d : Opnd := no
  a : Opnd := no
  b : Opnd := no
  c : Opnd := no
  /-- IB = 1 is accepted. -/
  ib : Bool := false
  /-- IMM32 holds what the form's fields require when it is not the B operand. -/
  imm : Bool := false
  deriving DecidableEq, Repr

/-- The opcode of a form that has one (05 R134). -/
def Instr.opc : Instr → Option (BitVec 8)
  | .nop _ _ => some 0x00
  | .bra _ _ => some 0x01
  | .brq _ _ => some 0x02
  | .brp _ _ => some 0x03
  | .brs _ _ => some 0x04
  | .call _ _ => some 0x05
  | .calli _ _ => some 0x06
  | .ret _ _ => some 0x07
  | .loop _ _ => some 0x08
  | .fork _ _ => some 0x09
  | .join _ _ => some 0x0A
  | .exit _ _ => some 0x0B
  | .sleep _ _ => some 0x0C
  | .yield _ _ => some 0x0D
  | .bkpt _ _ => some 0x0E
  | .trapu _ _ => some 0x0F
  | .sadd _ _ => some 0x10
  | .ssub _ _ => some 0x11
  | .smul _ _ => some 0x12
  | .sdiv _ _ => some 0x13
  | .sand _ _ => some 0x14
  | .sor _ _ => some 0x15
  | .sxor _ _ => some 0x16
  | .sshl _ _ => some 0x17
  | .sshr _ _ => some 0x18
  | .smin _ _ => some 0x19
  | .smax _ _ => some 0x1A
  | .scmp _ _ => some 0x1B
  | .ssel _ _ => some 0x1C
  | .smov _ _ => some 0x1D
  | .sbit _ _ => some 0x1E
  | .sbfx _ _ => some 0x1F
  | .sfop _ _ => some 0x20
  | .sfcmp _ _ => some 0x21
  | .scvt _ _ => some 0x22
  | .qop _ _ => some 0x23
  | .shi _ _ => some 0x24
  | .wickctlRelease _ _ => some 0x25
  | .wickctlKill _ _ => some 0x25
  | .wickctlPark _ _ => some 0x25
  | .wickctlUnpark _ _ => some 0x25
  | .replay _ _ => some 0x26
  | .halt _ _ => some 0x27
  | .eret _ _ => some 0x28
  | .eretNext _ _ => some 0x28
  | .eretReflect _ _ => some 0x28
  | .mfpr _ _ => some 0x29
  | .mtpr _ _ => some 0x2A
  | .savev _ _ => some 0x2B
  | .loadv _ _ => some 0x2C
  | .savekSave _ _ => some 0x2D
  | .savekLoad _ _ => some 0x2D
  | .quiesceWait _ _ => some 0x2E
  | .quiesceCancel _ _ => some 0x2E
  | .tlbinv _ _ => some 0x2F
  | .vadd _ _ => some 0x30
  | .vsub _ _ => some 0x31
  | .vmul _ _ => some 0x32
  | .vmad _ _ => some 0x33
  | .vand _ _ => some 0x34
  | .vor _ _ => some 0x35
  | .vxor _ _ => some 0x36
  | .vshl _ _ => some 0x37
  | .vshr _ _ => some 0x38
  | .vmin _ _ => some 0x39
  | .vmax _ _ => some 0x3A
  | .vabsd _ _ => some 0x3B
  | .vcmp _ _ => some 0x3C
  | .vsel _ _ => some 0x3D
  | .vmov _ _ => some 0x3E
  | .vaddmin _ _ => some 0x3F
  | .vaddmax _ _ => some 0x40
  | .vbit _ _ => some 0x41
  | .vbfx _ _ => some 0x42
  | .vdot _ _ => some 0x43
  | .vclamp _ _ => some 0x44
  | .fadd _ _ => some 0x50
  | .fsub _ _ => some 0x51
  | .fmul _ _ => some 0x52
  | .ffma _ _ => some 0x53
  | .fmin _ _ => some 0x54
  | .fmax _ _ => some 0x55
  | .fcmp _ _ => some 0x56
  | .fclass _ _ => some 0x57
  | .frcp _ _ => some 0x58
  | .frsq _ _ => some 0x59
  | .fsqrt _ _ => some 0x5A
  | .fexp2 _ _ => some 0x5B
  | .flog2 _ _ => some 0x5C
  | .fsincos _ _ => some 0x5D
  | .fdiv _ _ => some 0x5E
  | .fdot2 _ _ => some 0x5F
  | .fcvt _ _ => some 0x60
  | .icvt _ _ => some 0x61
  | .fpack _ _ => some 0x62
  | .funpack _ _ => some 0x63
  | .fscale _ _ => some 0x64
  | .lshf _ _ => some 0x70
  | .lrot _ _ => some 0x71
  | .lperm _ _ => some 0x72
  | .lbcast _ _ => some 0x73
  | .lred _ _ => some 0x74
  | .lscan _ _ => some 0x75
  | .lbal _ _ => some 0x76
  | .lpack _ _ => some 0x77
  | .lmatch _ _ => some 0x78
  | .plop _ _ => some 0x79
  | .pset _ _ => some 0x7A
  | .aff _ _ => some 0x7B
  | .vshape _ _ => some 0x7C
  | .vcomp _ _ => some 0x7D
  | .vexp _ _ => some 0x7E
  | .mfs _ _ => some 0x7F
  | .mts _ _ => some 0x80
  | .ld _ _ => some 0x90
  | .st _ _ => some 0x91
  | .ldaBcast _ _ => some 0x92
  | .ldaSeq _ _ => some 0x92
  | .sta _ _ => some 0x93
  | .ldc _ _ => some 0x94
  | .stc _ _ => some 0x95
  | .lds _ _ => some 0x96
  | .sts _ _ => some 0x97
  | .atom _ _ => some 0x98
  | .satom _ _ => some 0x99
  | .cas _ _ => some 0x9A
  | .fence _ _ => some 0x9B
  | .icinv _ _ => some 0x9C
  | .cache _ _ => some 0x9D
  | .txl _ _ => some 0x9E
  | .txi _ _ => some 0x9F
  | .waitm _ _ => some 0xA0
  | .ldq _ _ => some 0xA1
  | .cpy _ _ => some 0xB0
  | .cpyg _ _ => some 0xB1
  | .cpys _ _ => some 0xB2
  | .cpym _ _ => some 0xB3
  | .seal _ _ => some 0xB4
  | .waitb _ _ => some 0xB5
  | .binit _ _ => some 0xB6
  | .barv _ _ => some 0xB7
  | .bwait _ _ => some 0xB8
  | .btest _ _ => some 0xB9
  | .waitwp _ _ => some 0xBA
  | .chrst _ _ => some 0xBB
  | .qsub _ _ => some 0xBC
  | .qwait _ _ => some 0xBD
  | .cpyst _ _ => some 0xBE
  | .mma _ _ => some 0xC0
  | .mmas _ _ => some 0xC1
  | .mmac _ _ => some 0xC2
  | .mzero _ _ => some 0xC3
  | .mzeroLat _ _ => some 0xC3
  | .mdrain _ _ => some 0xC4
  | .mldw _ _ => some 0xC5
  | .mwait _ _ => some 0xC6
  | .mstat _ _ => some 0xC7
  | .ecrt _ _ => some 0xD0
  | .edel _ _ => some 0xD1
  | .eadd _ _ => some 0xD2
  | .erem _ _ => some 0xD3
  | .hres _ _ => some 0xD4
  | .ecol _ _ => some 0xD5
  | .eqry _ _ => some 0xD6
  | .estat _ _ => some 0xD7
  | .ecnt _ _ => some 0xD8
  | .capt _ _ => some 0xE0
  | .apply _ _ => some 0xE1
  | .applyV _ _ => some 0xE1
  | .kdup _ _ => some 0xE2
  | .krel _ _ => some 0xE3
  | .kld _ _ => some 0xE4
  | .kmov _ _ => some 0xE5
  | .kref _ _ => some 0xE6
  | .uisend _ _ => some 0xE7
  | .uimask _ _ => some 0xE8
  | .uimaskClaim _ _ => some 0xE8
  | .uipendTake _ _ => some 0xE9
  | .uipendPeek _ _ => some 0xE9
  | .uiret _ _ => some 0xEA
  | .uiwait _ _ => some 0xEB
  | .svc _ _ => some 0xEC
  | .svcw _ _ => some 0xED
  | .emit _ _ => some 0xEE
  | .nodefin _ _ => some 0xEF
  | .bin _ _ => some 0xF0
  | .rast _ _ => some 0xF1
  | .ztest _ _ => some 0xF2
  | .rtw _ _ => some 0xF3
  | .tilef _ _ => some 0xF4
  | .tex _ _ => some 0xF5
  | .trace _ _ => some 0xF6
  | .cont _ _ => some 0xF7
  | .rsusp _ _ => some 0xF8
  | .rres _ _ => some 0xF9
  | .lntp _ _ => some 0xFA
  | .mNode => none
  | .mBoxn => none
  | .mOrder => none
  | .mPushc => none
  | .mPop => none
  | .mLeaf => none
  | .mPrim => none
  | .mHit => none
  | .mCallk => none
  | .mAccept => none
  | .mIgnore => none
  | .mSett _ => none
  | .mJmp _ => none
  | .mJif _ _ _ => none
  | .mCnt _ _ => none
  | .mTerm => none
  | .mDone => none
  | .evSleepExpiry _ _ => none
  | .evRaySuspension _ => none
  | .evVerdictArrival _ => none
  | .evVerdictTimeout _ => none
  | .evRunaway _ => none
  | .evTexelFetchComplete _ => none
  | .evContinuationWickStart _ => none
  | .evChandelierGatherTimer _ => none
  | .evNodeWickStart _ _ => none
  | .evGatherTimer _ _ => none
  | .evTilePhaseStart _ => none
  | .evTileCompletion _ _ => none
  | .evCopyCompletion _ => none
  | .evCopyFaultStop _ => none
  | .evCopyContinue _ => none
  | .evMatrixInstructionComplete _ => none
  | .evMmacRendezvous _ => none
  | .evStreamingKBlock _ => none
  | .evQuantCommandComplete _ => none
  | .evQuantFaultStop _ => none
  | .evApplicationPhase _ => none
  | .evCompactionMove _ => none
  | .evQueryBlockDispatch _ => none
  | .evFaultRecord _ => none
  | .evIssueCycle _ => none
  | .evAgeGuard _ => none
  | .evPreemptionEntry _ => none
  | .evPreemptionWatchdog _ => none
  | .evRestoreEntry _ => none
  | .evResumeEntry _ => none
  | .evUserInterruptDelivery _ => none
  | .evDebugStop _ => none
  | .evTailWrite _ _ _ _ => none
  | .evParseRound _ => none
  | .evNopPacket _ => none
  | .evLaunch _ => none
  | .evWorldsync _ => none
  | .evCopy _ => none
  | .evSnapshot _ => none
  | .evSignal _ => none
  | .evUiraise _ => none
  | .evWait _ => none
  | .evWaitSatisfied _ => none
  | .evCancel _ => none
  | .evPreempt _ => none
  | .evResume _ => none
  | .evPacketStart _ => none
  | .evPlacement _ => none
  | .evPacketCompletion _ => none
  | .evSnapshotStart _ => none
  | .evCutMessage _ _ => none
  | .evCutTimeout _ => none
  | .evDrainStageComplete _ _ => none
  | .evDoorbellSend _ _ _ _ => none
  | .evPeerSend _ _ _ _ _ => none
  | .evServiceReply _ _ _ => none
  | .evHostMemoryAccess _ _ _ => none
  | .evPeerMemoryRequest _ _ _ _ => none
  | .evQueueDescriptorWrite _ _ _ _ => none
  | .evRecover _ => none
  | .evResetRung2 _ => none
  | .evResetRung3 _ _ => none
  | .evResetRung4 _ => none
  | .evFunctionLevelReset _ _ => none
  | .evColdReset _ => none
  | .evPilotTick _ => none
  | .evSpdmRequest _ => none
  | .evKlctlWrite _ _ => none
  | .evPartcfgWrite _ _ => none
  | .evPlimitWrite _ => none
  | .evConfigRegisterWrite _ => none
  | .evLinkStateChange _ _ _ _ => none
  | .evLinkHeartbeatTimeout _ => none
  | .evLossNotice _ => none
  | .evCorrectableError _ _ => none
  | .evUncorrectableError _ _ => none
  | .evPoisonConsumption _ => none
  | .evThrottleChange _ _ => none
  | .evCopyElementDelivery _ => none
  | .evTexelFetchFaultStop _ => none
  | .evTilefCompletion _ => none
  | .evSnapshotCopyComplete _ => none
  | .evRungCompletion _ => none
  | .evWickKillCommand _ => none
  | .evPeerSendAnswer _ _ => none

/-- The header of a form (05 R126). -/
def Instr.hdr : Instr → Option Hdr
  | .nop h _ => some h
  | .bra h _ => some h
  | .brq h _ => some h
  | .brp h _ => some h
  | .brs h _ => some h
  | .call h _ => some h
  | .calli h _ => some h
  | .ret h _ => some h
  | .loop h _ => some h
  | .fork h _ => some h
  | .join h _ => some h
  | .exit h _ => some h
  | .sleep h _ => some h
  | .yield h _ => some h
  | .bkpt h _ => some h
  | .trapu h _ => some h
  | .sadd h _ => some h
  | .ssub h _ => some h
  | .smul h _ => some h
  | .sdiv h _ => some h
  | .sand h _ => some h
  | .sor h _ => some h
  | .sxor h _ => some h
  | .sshl h _ => some h
  | .sshr h _ => some h
  | .smin h _ => some h
  | .smax h _ => some h
  | .scmp h _ => some h
  | .ssel h _ => some h
  | .smov h _ => some h
  | .sbit h _ => some h
  | .sbfx h _ => some h
  | .sfop h _ => some h
  | .sfcmp h _ => some h
  | .scvt h _ => some h
  | .qop h _ => some h
  | .shi h _ => some h
  | .wickctlRelease h _ => some h
  | .wickctlKill h _ => some h
  | .wickctlPark h _ => some h
  | .wickctlUnpark h _ => some h
  | .replay h _ => some h
  | .halt h _ => some h
  | .eret h _ => some h
  | .eretNext h _ => some h
  | .eretReflect h _ => some h
  | .mfpr h _ => some h
  | .mtpr h _ => some h
  | .savev h _ => some h
  | .loadv h _ => some h
  | .savekSave h _ => some h
  | .savekLoad h _ => some h
  | .quiesceWait h _ => some h
  | .quiesceCancel h _ => some h
  | .tlbinv h _ => some h
  | .vadd h _ => some h
  | .vsub h _ => some h
  | .vmul h _ => some h
  | .vmad h _ => some h
  | .vand h _ => some h
  | .vor h _ => some h
  | .vxor h _ => some h
  | .vshl h _ => some h
  | .vshr h _ => some h
  | .vmin h _ => some h
  | .vmax h _ => some h
  | .vabsd h _ => some h
  | .vcmp h _ => some h
  | .vsel h _ => some h
  | .vmov h _ => some h
  | .vaddmin h _ => some h
  | .vaddmax h _ => some h
  | .vbit h _ => some h
  | .vbfx h _ => some h
  | .vdot h _ => some h
  | .vclamp h _ => some h
  | .fadd h _ => some h
  | .fsub h _ => some h
  | .fmul h _ => some h
  | .ffma h _ => some h
  | .fmin h _ => some h
  | .fmax h _ => some h
  | .fcmp h _ => some h
  | .fclass h _ => some h
  | .frcp h _ => some h
  | .frsq h _ => some h
  | .fsqrt h _ => some h
  | .fexp2 h _ => some h
  | .flog2 h _ => some h
  | .fsincos h _ => some h
  | .fdiv h _ => some h
  | .fdot2 h _ => some h
  | .fcvt h _ => some h
  | .icvt h _ => some h
  | .fpack h _ => some h
  | .funpack h _ => some h
  | .fscale h _ => some h
  | .lshf h _ => some h
  | .lrot h _ => some h
  | .lperm h _ => some h
  | .lbcast h _ => some h
  | .lred h _ => some h
  | .lscan h _ => some h
  | .lbal h _ => some h
  | .lpack h _ => some h
  | .lmatch h _ => some h
  | .plop h _ => some h
  | .pset h _ => some h
  | .aff h _ => some h
  | .vshape h _ => some h
  | .vcomp h _ => some h
  | .vexp h _ => some h
  | .mfs h _ => some h
  | .mts h _ => some h
  | .ld h _ => some h
  | .st h _ => some h
  | .ldaBcast h _ => some h
  | .ldaSeq h _ => some h
  | .sta h _ => some h
  | .ldc h _ => some h
  | .stc h _ => some h
  | .lds h _ => some h
  | .sts h _ => some h
  | .atom h _ => some h
  | .satom h _ => some h
  | .cas h _ => some h
  | .fence h _ => some h
  | .icinv h _ => some h
  | .cache h _ => some h
  | .txl h _ => some h
  | .txi h _ => some h
  | .waitm h _ => some h
  | .ldq h _ => some h
  | .cpy h _ => some h
  | .cpyg h _ => some h
  | .cpys h _ => some h
  | .cpym h _ => some h
  | .seal h _ => some h
  | .waitb h _ => some h
  | .binit h _ => some h
  | .barv h _ => some h
  | .bwait h _ => some h
  | .btest h _ => some h
  | .waitwp h _ => some h
  | .chrst h _ => some h
  | .qsub h _ => some h
  | .qwait h _ => some h
  | .cpyst h _ => some h
  | .mma h _ => some h
  | .mmas h _ => some h
  | .mmac h _ => some h
  | .mzero h _ => some h
  | .mzeroLat h _ => some h
  | .mdrain h _ => some h
  | .mldw h _ => some h
  | .mwait h _ => some h
  | .mstat h _ => some h
  | .ecrt h _ => some h
  | .edel h _ => some h
  | .eadd h _ => some h
  | .erem h _ => some h
  | .hres h _ => some h
  | .ecol h _ => some h
  | .eqry h _ => some h
  | .estat h _ => some h
  | .ecnt h _ => some h
  | .capt h _ => some h
  | .apply h _ => some h
  | .applyV h _ => some h
  | .kdup h _ => some h
  | .krel h _ => some h
  | .kld h _ => some h
  | .kmov h _ => some h
  | .kref h _ => some h
  | .uisend h _ => some h
  | .uimask h _ => some h
  | .uimaskClaim h _ => some h
  | .uipendTake h _ => some h
  | .uipendPeek h _ => some h
  | .uiret h _ => some h
  | .uiwait h _ => some h
  | .svc h _ => some h
  | .svcw h _ => some h
  | .emit h _ => some h
  | .nodefin h _ => some h
  | .bin h _ => some h
  | .rast h _ => some h
  | .ztest h _ => some h
  | .rtw h _ => some h
  | .tilef h _ => some h
  | .tex h _ => some h
  | .trace h _ => some h
  | .cont h _ => some h
  | .rsusp h _ => some h
  | .rres h _ => some h
  | .lntp h _ => some h
  | _ => none

/-- The 32-bit microinstruction's opcode field (14 R312). -/
def Instr.mop : Instr → Option Nat
  | .mNode => some 0
  | .mBoxn => some 1
  | .mOrder => some 2
  | .mPushc => some 3
  | .mPop => some 4
  | .mLeaf => some 5
  | .mPrim => some 6
  | .mHit => some 7
  | .mCallk => some 8
  | .mAccept => some 9
  | .mIgnore => some 10
  | .mSett _ => some 11
  | .mJmp _ => some 12
  | .mJif _ _ _ => some 13
  | .mCnt _ _ => some 14
  | .mTerm => some 15
  | .mDone => some 16
  | _ => none

/-- GP = 15 with GN = 1 is illegal (05 R126). -/
def Hdr.guardOk (h : Hdr) : Bool := !(h.gp == 15 && h.gn)

/-! ### Format V -/

/-- The number of special registers MFS and MTS may name (02 R61). -/
def specialOk (n : Nat) : Bool := n ≤ 0x0E || (0x10 ≤ n && n ≤ 0x1F)

/-- FCVT's rule for source and destination formats and j (06 R159). -/
def fcvtOk (dst : Ty) (imm : BitVec 32) : Bool :=
  match tyOfCode (fld imm.toNat 0 4) with
  | some src =>
    let j := fld imm.toNat 4 2
    decide (imm.toNat < 64) && dst.isFloat && src.isFloat &&
    (if src.ew = dst.ew then j = 0
     else if src.ew < dst.ew then j < src.count / dst.count
     else (src.ew = 64 && dst.ew = 32 && j = 0) || (src.ew = 32 && dst.ew < 32 && decide (j < dst.count))
       || (src.ew = 16 && dst.ew = 8 && decide (j < dst.count)))
  | none => false

/-- FCVT narrows: C is read (06 R159). -/
def fcvtNarrow (dst : Ty) (imm : BitVec 32) : Bool :=
  match tyOfCode (fld imm.toNat 0 4) with
  | some src => src.ew > dst.ew
  | none => false

/-- Registers of the source operand whose TY code stands in IMM32[3:0]. -/
def srcRegs (imm : BitVec 32) : Nat :=
  match tyOfCode (fld imm.toNat 0 4) with
  | some src => src.regs
  | none => 1

/-- ICVT's pairs (06 R159). -/
def icvtOk (dst : Ty) (imm : BitVec 32) : Bool :=
  match tyOfCode imm.toNat with
  | some src =>
    (dst.isFs && (src.isWide)) || (src.isFs && dst.isWide)
      || (dst == .f16x2 && (src == .i16x2 || src == .n16x2)) || (src == .f16x2 && (dst == .i16x2 || dst == .n16x2))
  | none => false

/-- SCVT's source and RM rule (06 R153). -/
def scvtOk (dst : Ty) (rm : Rm) (imm : BitVec 32) : Bool :=
  match tyOfCode imm.toNat with
  | some src => src.isCvt && src != dst && (src.isFs || dst.isFs || rm == .rne)
  | none => false

/-- Scalar integer form with two sources (06 R152). -/
def sInt2 (sub mods sat : Bool) (ty : Bool) : VSpec :=
  { sub := sub, ty := ty, nega := mods, absa := mods, sat := sat, d := sW, a := sR, b := sR, ib := true, imm := true }

/-- Vector integer form with two sources (06 R155). -/
def vInt2 (n : Nat) (sub mods sat : Bool) (ty : Bool) : VSpec :=
  { sub := sub, ty := ty, nega := mods, absa := mods, sat := sat, d := vW n, a := vR n, b := vR n, ib := true, imm := true }

/-- Whether IMM32 is zero when it is not the B operand (05 R128). -/
def imm0 (o : OpV) : Bool := o.ib || o.imm == 0

/-- What each format V form accepts (06 R152 to R165). -/
def vspec (i : Instr) : VSpec :=
  match i with
  | .sadd h o | .ssub h o => { sInt2 (h.sub == 0) true true o.ty.isInt with imm := imm0 o }
  | .smul h o => { sInt2 (h.sub.toNat < 2) true (h.sub == 0) (o.ty.isInt && (h.sub == 0 || o.ty.isWide)) with imm := imm0 o }
  | .sdiv h o => { sInt2 (h.sub.toNat < 2) false (h.sub == 0) o.ty.isInt with imm := imm0 o }
  | .sand h o | .sor h o | .sxor h o | .sshl h o | .sshr h o =>
    { sInt2 (h.sub == 0) false false o.ty.isInt with imm := imm0 o }
  | .smin h o | .smax h o => { sInt2 (h.sub == 0) true false o.ty.isInt with imm := imm0 o }
  | .scmp h o => { sInt2 (h.sub.toNat < 6) true false o.ty.isInt1 with d := qW, imm := imm0 o }
  | .ssel h o =>
    { sInt2 (h.sub == 0) false false (o.ty == .b32 || o.ty == .i64 || o.ty == .n64) with c := qR, imm := imm0 o }
  | .smov h o => { sub := h.sub == 0, ty := o.ty.isInt, d := sW, a := if o.ib then no else sR, ib := true, imm := imm0 o }
  | .sbit h o => { sub := h.sub.toNat < 4, ty := o.ty.isInt, d := sW, a := sR, imm := o.imm == 0 }
  | .sbfx h o =>
    { sInt2 (h.sub.toNat < 2) false false o.ty.isInt with c := if h.sub == 1 then sR else no, imm := imm0 o }
  | .sfop h o =>
    let mm := h.sub == 4 || h.sub == 5
    { sub := h.sub.toNat < 8, ty := o.ty.isFs, nega := true, negb := true, absa := true, sat := !mm, rm := !mm, d := sW, a := sR,
      b := if h.sub == 7 then no else sR, c := if h.sub == 3 then sR else no, ib := h.sub != 7, imm := imm0 o }
  | .sfcmp h o => { sub := h.sub.toNat < 8, ty := o.ty.isFs, d := qW, a := sR, b := sR, ib := true, imm := imm0 o }
  | .scvt h o =>
    { sub := h.sub == 0, ty := o.ty.isCvt, sat := true, rm := true, d := sW, a := sR, imm := scvtOk o.ty o.rm o.imm }
  | .qop h o =>
    { sub := h.sub.toNat < 10, ty := o.ty == .b32, d := qW,
      a := if h.sub.toNat < 7 then qR else if h.sub == 7 then no else pR,
      b := if h.sub.toNat < 5 then qR else no, imm := if h.sub == 7 then o.imm.toNat < 2 else o.imm == 0 }
  | .shi h o => { sub := h.sub == 0 && o.ib, ty := o.ty == .b32, d := sRW, ib := true, imm := true }
  | .vadd h o | .vsub h o => { vInt2 o.ty.regs (h.sub == 0) true true o.ty.isInt with imm := imm0 o }
  | .vmul h o =>
    { vInt2 o.ty.regs (h.sub.toNat < 2) true (h.sub == 0) (o.ty.isInt && (h.sub == 0 || o.ty.isWide)) with imm := imm0 o }
  | .vmad h o => { vInt2 o.ty.regs (h.sub == 0) true true o.ty.isInt with c := vR o.ty.regs, imm := imm0 o }
  | .vand h o | .vor h o | .vxor h o | .vshl h o | .vshr h o | .vabsd h o =>
    { vInt2 o.ty.regs (h.sub == 0) false false o.ty.isInt with imm := imm0 o }
  | .vmin h o | .vmax h o => { vInt2 o.ty.regs (h.sub == 0) true false o.ty.isInt with imm := imm0 o }
  | .vcmp h o => { vInt2 o.ty.regs (h.sub.toNat < 6) false false o.ty.isInt1 with d := pW, imm := imm0 o }
  | .vsel h o => { vInt2 o.ty.regs (h.sub == 0) false false o.ty.isMove with c := pR, imm := imm0 o }
  | .vmov h o =>
    { sub := h.sub == 0, ty := o.ty.isInt, d := vW o.ty.regs, a := if o.ib then no else vR o.ty.regs, ib := true, imm := imm0 o }
  | .vaddmin h o | .vaddmax h o =>
    { vInt2 o.ty.regs (h.sub == 0) true true o.ty.isInt with c := vR o.ty.regs, imm := imm0 o }
  | .vbit h o => { sub := h.sub.toNat < 4, ty := o.ty.isInt, d := vW o.ty.regs, a := vR o.ty.regs, imm := o.imm == 0 }
  | .vbfx h o =>
    { vInt2 o.ty.regs (h.sub.toNat < 2) false false o.ty.isInt with
      c := if h.sub == 1 then vR o.ty.regs else no, imm := imm0 o }
  | .vdot h o => { vInt2 1 (h.sub == 0) false true o.ty.isDot with c := vR 1, imm := imm0 o }
  | .vclamp h o => { vInt2 o.ty.regs (h.sub == 0) true false o.ty.isInt with c := vR o.ty.regs, imm := imm0 o }
  | .fadd h o | .fsub h o | .fmul h o =>
    { vInt2 o.ty.regs (h.sub == 0) true true o.ty.isF4 with negb := true, rm := true, imm := imm0 o }
  | .ffma h o =>
    { vInt2 o.ty.regs (h.sub == 0) true true o.ty.isF4 with negb := true, rm := true, c := vR o.ty.regs, imm := imm0 o }
  | .fmin h o | .fmax h o => { vInt2 o.ty.regs (h.sub == 0) false false o.ty.isF4 with absa := true, imm := imm0 o }
  | .fcmp h o => { vInt2 o.ty.regs (h.sub.toNat < 8) true false o.ty.isFs with d := pW, imm := imm0 o }
  | .fclass h o => { sub := h.sub == 0, ty := o.ty.isF4, d := vW o.ty.regs, a := vR o.ty.regs, imm := o.imm == 0 }
  | .frcp h o => { sub := h.sub == 0, ty := o.ty.isF3, nega := true, absa := true, sat := true, d := vW 1, a := vR 1, imm := o.imm == 0 }
  | .frsq h o => { sub := h.sub == 0, ty := o.ty.isF3, absa := true, sat := true, d := vW 1, a := vR 1, imm := o.imm == 0 }
  | .fsqrt h o =>
    { sub := h.sub == 0, ty := o.ty.isF4, absa := true, sat := true, rm := true, d := vW o.ty.regs, a := vR o.ty.regs, imm := o.imm == 0 }
  | .fexp2 h o => { sub := h.sub == 0, ty := o.ty.isF3, nega := true, sat := true, d := vW 1, a := vR 1, imm := o.imm == 0 }
  | .flog2 h o => { sub := h.sub == 0, ty := o.ty.isF3, absa := true, sat := true, d := vW 1, a := vR 1, imm := o.imm == 0 }
  | .fsincos h o => { sub := h.sub == 0, ty := o.ty.isF3, nega := true, sat := true, d := vW 2, a := vR 1, imm := o.imm == 0 }
  | .fdiv h o => { vInt2 o.ty.regs (h.sub == 0) true true o.ty.isFs with negb := true, rm := true, imm := imm0 o }
  | .fdot2 h o =>
    { vInt2 1 (h.sub == 0) false true (o.ty == .f16x2 || o.ty == .bf16x2) with
      nega := true, negb := true, rm := true, c := vR 1, imm := imm0 o }
  | .fcvt h o =>
    { sub := h.sub == 0, ty := o.ty.isFloat, sat := true, rm := true, d := vW o.ty.regs, a := vR (srcRegs o.imm),
      c := if fcvtNarrow o.ty o.imm then vR 1 else no, imm := fcvtOk o.ty o.imm }
  | .icvt h o =>
    { sub := h.sub == 0, ty := true, rm := true, d := vW o.ty.regs, a := vR (srcRegs o.imm), imm := icvtOk o.ty o.imm }
  | .fpack h o =>
    { sub := h.sub.toNat < 2, ty := o.ty == .b32, d := vW 1, a := vR 1, c := vR 1,
      imm := o.imm.toNat % 16 == 0 && decide (o.imm.toNat / 16 < (if h.sub == 0 then 2 else 4)) }
  | .funpack h o =>
    { sub := h.sub.toNat < 2, ty := o.ty == .b32, d := vW 1, a := vR 1,
      imm := o.imm.toNat % 16 == 0 && decide (o.imm.toNat / 16 < (if h.sub == 0 then 2 else 4)) }
  | .fscale h o =>
    { vInt2 o.ty.regs (h.sub == 0) false true o.ty.isF4 with nega := true, rm := true, b := vR 1, imm := imm0 o }
  | .lshf h o =>
    { vInt2 o.ty.regs (h.sub.toNat < 2) false false o.ty.isMove with b := vR 1, c := vR o.ty.regs, imm := imm0 o }
  | .lrot h o => { vInt2 o.ty.regs (h.sub.toNat < 2) false false o.ty.isMove with b := vR 1, imm := imm0 o }
  | .lperm h o | .lbcast h o => { vInt2 o.ty.regs (h.sub == 0) false false o.ty.isMove with b := vR 1, imm := imm0 o }
  | .lred h o =>
    let arith := h.sub.toNat % 8 < 3
    { sub := h.sub.toNat < 6,
      ty := if arith then o.ty.isWide || o.ty == .f32 else o.ty.isInt1,
      sat := h.sub.toNat % 8 == 0, rm := h.sub.toNat % 8 == 0 && o.ty == .f32, d := sW, a := vR o.ty.regs, imm := o.imm == 0 }
  | .lscan h o =>
    let arith := h.sub.toNat % 8 < 3
    { sub := h.sub.toNat % 8 < 6,
      ty := if arith then o.ty.isWide || o.ty == .f32 else o.ty.isInt1,
      sat := h.sub.toNat % 8 == 0, rm := h.sub.toNat % 8 == 0 && o.ty == .f32, d := vW o.ty.regs, a := vR o.ty.regs, imm := o.imm == 0 }
  | .lbal h o => { sub := h.sub.toNat < 2, ty := o.ty == .b32, d := sW, a := vR 1, imm := o.imm == 0 }
  | .lpack h o => { vInt2 o.ty.regs (h.sub == 0) false false o.ty.isMove with c := pR, imm := imm0 o }
  | .lmatch h o => { sub := h.sub == 0, ty := o.ty == .b32, d := vW 1, a := vR 1, imm := o.imm == 0 }
  | .plop h o =>
    { sub := h.sub.toNat < 7, ty := o.ty == .b32, d := pW, a := pR, b := if h.sub.toNat < 5 then pR else no, imm := o.imm == 0 }
  | .pset h o =>
    { sub := h.sub.toNat < 3, ty := o.ty == .b32, d := if h.sub == 2 then sW else pW,
      a := if h.sub == 0 then no else if h.sub == 1 then sR else pR, imm := h.sub == 0 || o.imm == 0 }
  | .aff h o => { sub := h.sub == 0, ty := o.ty == .b32, d := vW 1, a := sR, b := sR, ib := true, imm := imm0 o }
  | .vshape h o => { sub := h.sub == 0, ty := o.ty == .b32, d := sW, a := vR 1, imm := o.imm == 0 }
  | .vcomp h o | .vexp h o =>
    { sub := h.sub == 0 && (decide (o.d.toNat < 128) || decide (252 ≤ o.d.toNat)), ty := o.ty == .b32, d := vW 1, a := vR 1, imm := o.imm == 0 }
  | .mfs h o => { sub := h.sub == 0, ty := o.ty == .b32, d := sW, imm := specialOk o.imm.toNat }
  | .mts h o => { sub := h.sub == 0, ty := o.ty == .b32, a := sR, imm := specialOk o.imm.toNat }
  | _ => {}

/-- The format V fields of a form. -/
def Instr.opV : Instr → Option OpV
  | .sadd _ o => some o
  | .ssub _ o => some o
  | .smul _ o => some o
  | .sdiv _ o => some o
  | .sand _ o => some o
  | .sor _ o => some o
  | .sxor _ o => some o
  | .sshl _ o => some o
  | .sshr _ o => some o
  | .smin _ o => some o
  | .smax _ o => some o
  | .scmp _ o => some o
  | .ssel _ o => some o
  | .smov _ o => some o
  | .sbit _ o => some o
  | .sbfx _ o => some o
  | .sfop _ o => some o
  | .sfcmp _ o => some o
  | .scvt _ o => some o
  | .qop _ o => some o
  | .shi _ o => some o
  | .vadd _ o => some o
  | .vsub _ o => some o
  | .vmul _ o => some o
  | .vmad _ o => some o
  | .vand _ o => some o
  | .vor _ o => some o
  | .vxor _ o => some o
  | .vshl _ o => some o
  | .vshr _ o => some o
  | .vmin _ o => some o
  | .vmax _ o => some o
  | .vabsd _ o => some o
  | .vcmp _ o => some o
  | .vsel _ o => some o
  | .vmov _ o => some o
  | .vaddmin _ o => some o
  | .vaddmax _ o => some o
  | .vbit _ o => some o
  | .vbfx _ o => some o
  | .vdot _ o => some o
  | .vclamp _ o => some o
  | .fadd _ o => some o
  | .fsub _ o => some o
  | .fmul _ o => some o
  | .ffma _ o => some o
  | .fmin _ o => some o
  | .fmax _ o => some o
  | .fcmp _ o => some o
  | .fclass _ o => some o
  | .frcp _ o => some o
  | .frsq _ o => some o
  | .fsqrt _ o => some o
  | .fexp2 _ o => some o
  | .flog2 _ o => some o
  | .fsincos _ o => some o
  | .fdiv _ o => some o
  | .fdot2 _ o => some o
  | .fcvt _ o => some o
  | .icvt _ o => some o
  | .fpack _ o => some o
  | .funpack _ o => some o
  | .fscale _ o => some o
  | .lshf _ o => some o
  | .lrot _ o => some o
  | .lperm _ o => some o
  | .lbcast _ o => some o
  | .lred _ o => some o
  | .lscan _ o => some o
  | .lbal _ o => some o
  | .lpack _ o => some o
  | .lmatch _ o => some o
  | .plop _ o => some o
  | .pset _ o => some o
  | .aff _ o => some o
  | .vshape _ o => some o
  | .vcomp _ o => some o
  | .vexp _ o => some o
  | .mfs _ o => some o
  | .mts _ o => some o
  | _ => none

/-- A format V encoding breaks no rule of 05 R128 and 02 R48. -/
def legalV (h : Hdr) (o : OpV) (v : VSpec) : Bool :=
  h.guardOk && v.sub && v.ty && v.imm
  && (v.nega || !o.nega) && (v.absa || !o.absa) && (v.negb || !o.negb) && (v.sat || !o.sat) && (v.rm || o.rm == .rne)
  && (v.ib || !o.ib) && !(o.ib && o.negb) && !(o.ib && o.b != 0)
  && v.d.fits o.d && v.a.fits o.a && (o.ib || v.b.fits o.b) && v.c.fits o.c

/-! ### Format M -/

/-- What a format M form accepts (07 R167 to R181). -/
structure MSpec where
  sub : Bool := false
  d : Opnd := no
  /-- The X field may name a register; otherwise it is 0xFF. -/
  x : Bool := false
  /-- S and DISP are used. -/
  addr : Bool := true
  sp : List Space := []
  sz : List Size := []
  sync : Bool := false
  ext : Bool := false
  rp : Bool := false
  aux : Bool := false
  /-- tx0 to tx6 only, whatever the space. -/
  txReg : Bool := false
  /-- TX must be tx7. -/
  noTx : Bool := false
  nt : Bool := true
  deriving DecidableEq, Repr

/-- 07 R170: the accesses a load form accepts. -/
def loadSync (o : OpM) : Bool :=
  (o.sc == .plain && o.or_ == .relaxed) || (o.sc != .plain && (o.or_ == .relaxed || o.or_ == .acquire))

/-- 07 R170: the accesses a store form accepts. -/
def storeSync (o : OpM) : Bool :=
  (o.sc == .plain && o.or_ == .relaxed) || (o.sc != .plain && (o.or_ == .relaxed || o.or_ == .release))

/-- 04 R112, 07 R170: RP on an acquire load at cluster or device scope. -/
def rpOk (o : OpM) : Bool := o.or_ == .acquire && (o.sc == .cluster || o.sc == .device)

/-- AUX names a core only in the remote space (04 R92), and is zero otherwise. -/
def auxCore (o : OpM) : Bool := if o.sp == .rab then o.aux.toNat < 64 else o.aux == 0

def plainSync (o : OpM) : Bool := o.sc == .plain && o.or_ == .relaxed

def ldSizes : List Size := [.b1, .b2, .b4, .b8, .b16]

def mspec (i : Instr) : MSpec :=
  match i with
  | .ld h o => { sub := h.sub == 0, d := vW o.sz.regs, x := true, sp := [.glob, .prv, .lab, .rab, .cst], sz := ldSizes,
                 sync := loadSync o, ext := true, rp := rpOk o, aux := auxCore o }
  | .st h o => { sub := h.sub == 0, d := vR o.sz.regs, x := true, sp := [.glob, .prv, .lab, .rab], sz := ldSizes,
                 sync := storeSync o, aux := auxCore o }
  | .ldaBcast h o => { sub := h.sub == 0, d := vW o.sz.regs, sp := [.glob, .lab, .rab, .cst], sz := [.b4, .b8],
                       sync := loadSync o, rp := rpOk o, aux := auxCore o }
  | .ldaSeq h o => { sub := h.sub == 1, d := vW o.sz.regs, sp := [.glob, .lab, .rab, .cst], sz := ldSizes,
                     sync := loadSync o, ext := true, rp := rpOk o, aux := auxCore o }
  | .sta h o => { sub := h.sub == 0, d := vR o.sz.regs, sp := [.glob, .lab, .rab], sz := ldSizes, sync := storeSync o, aux := auxCore o }
  | .ldc h o => { sub := h.sub == 0, d := vW o.sz.regs, x := true, sp := [.cb], sz := [.b4, .b8, .b16], sync := plainSync o, aux := o.aux == 0 }
  | .stc h o => { sub := h.sub == 0, d := vR o.sz.regs, x := true, sp := [.cb], sz := [.b4, .b8, .b16], sync := plainSync o, aux := o.aux == 0 }
  | .lds h o => { sub := h.sub == 0, d := sW, sp := [.glob, .lab, .rab, .cst], sz := [.b1, .b2, .b4, .b8],
                  sync := loadSync o, ext := true, rp := rpOk o, aux := auxCore o }
  | .sts h o => { sub := h.sub == 0, d := sR, sp := [.glob, .lab, .rab], sz := [.b1, .b2, .b4, .b8], sync := storeSync o, aux := auxCore o }
  | .atom h o => { sub := h.sub == 0, d := vRW o.sz.regs, x := true, sp := [.glob, .prv, .lab], sz := [.b4, .b8],
                   sync := o.sc != .plain, aux := o.aux.toNat < 14 }
  | .satom h o => { sub := h.sub == 0, d := if o.aux == 0x0E then s2RW else sRW, sp := [.glob, .prv, .lab], sz := [.b4, .b8],
                    sync := o.sc != .plain, aux := o.aux.toNat < 15 }
  | .cas h o => { sub := h.sub == 0, d := vRW (2 * o.sz.regs), x := true, sp := [.glob, .prv, .lab], sz := [.b4, .b8],
                  sync := o.sc != .plain, aux := o.aux.toNat < 16 }
  | .fence h o => { sub := h.sub == 0, addr := false, sp := [.glob], sz := [.b1], sync := o.sc != .plain && o.or_ != .relaxed, aux := o.aux == 0, noTx := true, nt := false }
  | .icinv h o => { sub := h.sub.toNat < 2, d := if h.sub == 0 then sR else no, addr := h.sub == 0, sp := [.glob], sz := [.b1],
                    sync := o.sc != .plain && o.or_ == .relaxed, aux := o.aux == 0, noTx := true, nt := false }
  | .cache h o => { sub := h.sub.toNat < 3, x := true, sp := [.glob, .prv], sz := [.b1], sync := plainSync o, aux := o.aux == 0, nt := false }
  | .txl h o => { sub := h.sub == 0, sp := [.glob], sz := [.b1], sync := plainSync o, aux := o.aux == 0, txReg := true, nt := false }
  | .txi h o => { sub := h.sub.toNat < 2, addr := false, sp := [.glob], sz := [.b1], sync := plainSync o, aux := o.aux == 0,
                  txReg := h.sub == 0, noTx := h.sub != 0, nt := false }
  | .waitm h o => { sub := h.sub.toNat < 6, d := sRW, sp := [.glob, .lab, .rab, .cst], sz := [.b4, .b8],
                    sync := o.sc != .plain && (o.or_ == .relaxed || o.or_ == .acquire), rp := rpOk o, aux := auxCore o, noTx := true, nt := false }
  | .ldq h o => { sub := h.sub == 0 && decide (o.d.toNat < 4), d := ⟨.q, false, false⟩, x := true, sp := [.glob, .prv, .lab, .rab, .cst], sz := [.b1, .b2, .b4],
                  sync := loadSync o, ext := true, aux := auxCore o, noTx := true, nt := false }
  | _ => {}

/-- The format M fields of a form. -/
def Instr.opM : Instr → Option OpM
  | .ld _ o => some o
  | .st _ o => some o
  | .ldaBcast _ o => some o
  | .ldaSeq _ o => some o
  | .sta _ o => some o
  | .ldc _ o => some o
  | .stc _ o => some o
  | .lds _ o => some o
  | .sts _ o => some o
  | .atom _ o => some o
  | .satom _ o => some o
  | .cas _ o => some o
  | .fence _ o => some o
  | .icinv _ o => some o
  | .cache _ o => some o
  | .txl _ o => some o
  | .txi _ o => some o
  | .waitm _ o => some o
  | .ldq _ o => some o
  | _ => none

/-- A format M encoding breaks no rule of 05 R129, 04 R87, R92 and its form's row. -/
def legalM (h : Hdr) (o : OpM) (m : MSpec) : Bool :=
  h.guardOk && m.sub && m.sync && m.aux && m.sp.contains o.sp && m.sz.contains o.sz && m.d.fits o.d
  && (m.x || o.x == 0xFF)
  && (m.addr || (o.s == 0 && o.disp == 0))
  && (!o.ext || (m.ext && (o.sz == .b1 || o.sz == .b2)))
  && (!o.rp || m.rp) && (m.nt || !o.nt)
  && (if m.txReg then o.tx != 7 else if m.noTx then o.tx == 7 else o.tx == 7 || o.sp == .glob)

/-! ### Format X -/

/-- What a format X form accepts: classes of its fields, the FLAGS bits it defines, and its IMM32. -/
structure XSpec where
  sub : Bool := false
  d : Opnd := no
  a : Opnd := no
  b : Opnd := no
  c : Opnd := no
  flags : Nat := 0
  imm : Bool := false
  /-- Further conditions on the fields. -/
  ok : Bool := true
  deriving DecidableEq, Repr

/-- 07 R186 on KC, CALLBACK and IMM32. -/
def copyFlagsOk (o : OpX) : Bool :=
  let kc := fld o.flags.toNat 11 4
  if bitAt o.flags.toNat 10 then kc != 15 else kc == 0 && o.imm == 0

def xcopy (h : Hdr) (o : OpX) (c : Opnd) : XSpec :=
  { sub := h.sub == 0, d := sW, a := sR, b := sR, c := c, flags := 0x7FFF, imm := true, ok := copyFlagsOk o }

/-- SCL's IMM32 layout (09 R209): BSEL[7:4] and [31:24] zero, all zero without SCL. -/
def sclImm (o : OpX) : Bool :=
  if bitAt o.flags.toNat 4 then fld o.imm.toNat 4 4 == 0 && fld o.imm.toNat 24 8 == 0 else o.imm == 0

/-- STRM's CH, and STRM with ABYP (09 R209). -/
def strmOk (o : OpX) : Bool :=
  (bitAt o.flags.toNat 5 || fld o.flags.toNat 6 2 == 0) && !(bitAt o.flags.toNat 5 && bitAt o.flags.toNat 2)

/-- A live mask field with its upper half zero (14 R299). -/
def liveImm (o : OpX) : Bool := o.imm.toNat < 2 ^ 16

def xspec (i : Instr) : XSpec :=
  match i with
  | .cpy h o => xcopy h o no
  | .cpyg h o | .cpys h o | .cpym h o => xcopy h o sR
  | .seal h o => { sub := h.sub == 0, d := sW, imm := o.imm == 0 }
  | .waitb h o => { sub := h.sub.toNat < 2, a := if h.sub == 0 then sR else no, imm := h.sub == 1 || o.imm == 0 }
  | .binit h o => { sub := h.sub == 0, a := sR, flags := 0x1EC, imm := o.imm == 0 }
  | .barv h o | .bwait h o => { sub := h.sub == 0, flags := 0x1EC, imm := o.imm == 0 }
  | .btest h o => { sub := h.sub.toNat < 3, d := if h.sub == 0 then qW else sW, flags := 0x1EC, imm := o.imm == 0 }
  | .waitwp h o => { sub := h.sub.toNat < 2, a := if h.sub == 0 then sR else no, flags := 0x3, imm := h.sub == 1 || o.imm == 0 }
  | .chrst h o => { sub := h.sub == 0, flags := 0xF, imm := o.imm == 0 }
  | .qsub h o | .qwait h o => { sub := h.sub == 0, d := sW, a := sR, imm := o.imm == 0 }
  | .cpyst h o => { sub := h.sub.toNat < 3, d := sW, a := sR, imm := o.imm == 0 }
  | .mma h o =>
    { sub := h.sub.toNat < 6, d := sW, a := if bitAt o.flags.toNat 2 then no else sR, b := if bitAt o.flags.toNat 3 then no else sR,
      c := sR, flags := 0xFF, imm := sclImm o, ok := strmOk o && !(h.sub == 5 && bitAt o.flags.toNat 4) }
  | .mmas h o =>
    { sub := h.sub.toNat < 6, d := sW, a := if bitAt o.flags.toNat 2 then no else sR, b := sR, c := sR, flags := 0xF7,
      imm := sclImm o, ok := strmOk o && !(h.sub == 5 && bitAt o.flags.toNat 4) }
  | .mmac h o =>
    { sub := h.sub.toNat < 6, d := sW, a := sR, b := sR, c := sR, flags := 0x1813, imm := sclImm o,
      ok := !(h.sub == 5 && bitAt o.flags.toNat 4) }
  | .mzero h o => { sub := h.sub == 0, d := sW, flags := 0x3, imm := o.imm == 0 }
  | .mzeroLat h o => { sub := h.sub == 1, d := sW, imm := o.imm == 0 }
  | .mdrain h o =>
    let byp := bitAt o.flags.toNat 8
    { sub := h.sub.toNat < 7, d := sW, a := if byp then no else sR, c := sR, flags := 0x713, imm := sclImm o,
      ok := !(byp && bitAt o.flags.toNat 9) && !(byp && (h.sub == 0 || h.sub == 5))
        && !(h.sub == 5 && (bitAt o.flags.toNat 4 || bitAt o.flags.toNat 10)) }
  | .mldw h o => { sub := h.sub.toNat < 6, d := sW, b := sR, c := sR, imm := o.imm == 0 }
  | .mwait h o => { sub := h.sub.toNat < 2, a := if h.sub == 0 then sR else no, imm := o.imm == 0 }
  | .mstat h o => { sub := h.sub.toNat < 3, d := sW, a := if h.sub == 0 then sR else no, imm := o.imm == 0 }
  | .ecrt h o => { sub := h.sub == 0, d := ⟨.v3, false, true⟩, a := vR 1, imm := o.imm == 0 }
  | .edel h o => { sub := h.sub == 0, d := vW 1, a := vR 2, imm := o.imm == 0 }
  | .eadd h o | .erem h o => { sub := h.sub == 0, d := vW 1, a := vR 2, b := vR 1, imm := o.imm == 0 }
  | .hres h o => { sub := h.sub.toNat < 2, d := vW 2, a := vR 2, b := if h.sub == 0 then vR 1 else no, c := pW, imm := o.imm == 0 }
  | .ecol h o => { sub := h.sub.toNat < 3, d := sW, a := sR, b := if h.sub == 0 then sR else no, imm := o.imm == 0 }
  | .eqry h o => { sub := h.sub == 0, d := sW, a := sR, b := sR, imm := o.imm == 0 }
  | .estat h o => { sub := h.sub == 0, d := vW 1, a := vR 1, imm := o.imm == 0 }
  | .ecnt h o => { sub := h.sub.toNat < 4, d := sW, a := if h.sub == 3 then no else sR, imm := o.imm == 0 }
  | .capt h o =>
    { sub := h.sub.toNat < 2, d := kW, a := vR (if fld o.flags.toNat 8 3 = 0 then 0 else 1), b := sR, c := qW, flags := 0xFFF,
      imm := o.imm.toNat % 8 < 5, ok := o.d != 15 }
  | .apply h o => { sub := h.sub == 0, d := sW, a := kR, imm := o.imm == 0 }
  | .applyV h o => { sub := h.sub == 1, a := vR 2, imm := liveImm o }
  | .kdup h o => { sub := h.sub == 0, d := kW, a := kR, imm := o.imm == 0, ok := o.d != 15 }
  | .krel h o => { sub := h.sub == 0, a := kRW, imm := o.imm == 0, ok := o.a != 15 }
  | .kld h _ => { sub := h.sub.toNat < 2, d := if h.sub == 0 then sW else vW 1, imm := true }
  | .kmov h o =>
    { sub := h.sub.toNat < 3, d := if h.sub == 1 then sW else kW,
      a := if h.sub == 2 then sR else if h.sub == 0 then kRW else kR,
      imm := o.imm == 0, ok := (h.sub == 1 || o.d != 15) && !(h.sub == 0 && o.a == 15) }
  | .kref h o => { sub := h.sub == 0, d := sW, imm := o.imm == 0 }
  | .uisend h o => { sub := h.sub == 0, d := sW, a := sR, b := sR, c := sR, imm := o.imm == 0 }
  | .uimask h o => { sub := h.sub.toNat < 3, d := sW, a := sR, imm := o.imm == 0 }
  | .uimaskClaim h o => { sub := h.sub == 3, d := sW, imm := o.imm == 0 }
  | .uipendTake h o => { sub := h.sub == 0, d := sW, b := sW, imm := o.imm == 0 }
  | .uipendPeek h o => { sub := h.sub == 1, d := sW, imm := o.imm == 0 }
  | .uiret h o | .uiwait h o | .svcw h o | .nodefin h o => { sub := h.sub == 0, imm := o.imm == 0 }
  | .svc h o =>
    { sub := h.sub == 0, d := sW, b := if bitAt o.flags.toNat 0 then sR else no, flags := 3, imm := o.imm.toNat < 2 ^ 16,
      ok := o.flags.toNat % 4 != 3 }
  | .emit h o => { sub := h.sub == 0, a := vR 1, b := sR, imm := o.imm == 0 }
  | .bin h o => { sub := h.sub == 0, d := sW, a := vR 1, flags := 3, imm := o.imm == 0, ok := o.flags.toNat % 4 != 3 }
  | .rast h o => { sub := h.sub.toNat < 2, d := vW 1, a := vR 1, b := sRW, c := pW, imm := o.imm == 0 }
  | .ztest h o => { sub := h.sub.toNat < 6, d := pW, a := vR 1, b := vR 1, flags := 1, imm := o.imm == 0 }
  | .rtw h o => { sub := h.sub.toNat < 3, a := vR 1, b := vR 1, flags := 1, imm := o.imm == 0 }
  | .tilef h o => { sub := h.sub == 0, d := sW, flags := 7, imm := o.imm == 0, ok := o.flags.toNat % 4 != 0 }
  | .tex h o => { sub := h.sub == 0, a := vR 1, b := sR, imm := liveImm o }
  | .trace h o => { sub := h.sub == 0, a := vR 1, b := sR, c := kR, flags := 0x7FFF, imm := liveImm o }
  | .cont h o => { sub := h.sub == 0, a := vR 2, imm := liveImm o }
  | .rsusp h o => { sub := h.sub == 0, d := sW, a := sR, b := sR, imm := o.imm == 0 }
  | .rres h o => { sub := h.sub == 0, a := vR 2, flags := 0x7FF0, imm := liveImm o }
  | .lntp h o => { sub := h.sub == 0, a := sR, b := sR, c := sR, imm := o.imm == 0 }
  | _ => {}

/-- The format X fields of a form. -/
def Instr.opX : Instr → Option OpX
  | .cpy _ o => some o
  | .cpyg _ o => some o
  | .cpys _ o => some o
  | .cpym _ o => some o
  | .seal _ o => some o
  | .waitb _ o => some o
  | .binit _ o => some o
  | .barv _ o => some o
  | .bwait _ o => some o
  | .btest _ o => some o
  | .waitwp _ o => some o
  | .chrst _ o => some o
  | .qsub _ o => some o
  | .qwait _ o => some o
  | .cpyst _ o => some o
  | .mma _ o => some o
  | .mmas _ o => some o
  | .mmac _ o => some o
  | .mzero _ o => some o
  | .mzeroLat _ o => some o
  | .mdrain _ o => some o
  | .mldw _ o => some o
  | .mwait _ o => some o
  | .mstat _ o => some o
  | .ecrt _ o => some o
  | .edel _ o => some o
  | .eadd _ o => some o
  | .erem _ o => some o
  | .hres _ o => some o
  | .ecol _ o => some o
  | .eqry _ o => some o
  | .estat _ o => some o
  | .ecnt _ o => some o
  | .capt _ o => some o
  | .apply _ o => some o
  | .applyV _ o => some o
  | .kdup _ o => some o
  | .krel _ o => some o
  | .kld _ o => some o
  | .kmov _ o => some o
  | .kref _ o => some o
  | .uisend _ o => some o
  | .uimask _ o => some o
  | .uimaskClaim _ o => some o
  | .uipendTake _ o => some o
  | .uipendPeek _ o => some o
  | .uiret _ o => some o
  | .uiwait _ o => some o
  | .svc _ o => some o
  | .svcw _ o => some o
  | .emit _ o => some o
  | .nodefin _ o => some o
  | .bin _ o => some o
  | .rast _ o => some o
  | .ztest _ o => some o
  | .rtw _ o => some o
  | .tilef _ o => some o
  | .tex _ o => some o
  | .trace _ o => some o
  | .cont _ o => some o
  | .rsusp _ o => some o
  | .rres _ o => some o
  | .lntp _ o => some o
  | _ => none

/-- A format X encoding breaks no rule of 05 R130 and its form's row. -/
def legalX (h : Hdr) (o : OpX) (x : XSpec) : Bool :=
  h.guardOk && x.sub && x.imm && x.ok && (o.flags.toNat &&& (0x7FFF - x.flags)) == 0
  && x.d.fits o.d && x.a.fits o.a && x.b.fits o.b && x.c.fits o.c

/-! ### Format C -/

/-- Which fields a control form uses (06 R144). -/
structure CSpec where
  sub : Bool := false
  s : Opnd := no
  s2 : Opnd := no
  /-- CQ names a q register (1), a p register (2) or nothing (0). -/
  cq : Nat := 0
  /-- Number of CM codes. -/
  cm : Nat := 1
  tgt : Bool := false
  tgt2 : Bool := false
  deriving DecidableEq, Repr

def cspec (i : Instr) : CSpec :=
  match i with
  | .nop h _ | .join h _ | .exit h _ | .yield h _ | .bkpt h _ => { sub := h.sub == 0 }
  | .bra h _ => { sub := h.sub == 0, tgt := true }
  | .brq h _ => { sub := h.sub == 0, cq := 1, cm := 2, tgt := true }
  | .brp h _ => { sub := h.sub == 0, cq := 2, cm := 4, tgt := true }
  | .brs h _ => { sub := h.sub == 0, s := sR, s2 := sR, cm := 6, tgt := true }
  | .call h _ => { sub := h.sub == 0, s := sW, tgt := true }
  | .calli h _ => { sub := h.sub == 0, s := sW, s2 := sR }
  | .ret h _ => { sub := h.sub == 0, s := sR }
  | .loop h _ => { sub := h.sub == 0, s := sRW, tgt := true }
  | .fork h _ => { sub := h.sub == 0, cq := 2, tgt := true, tgt2 := true }
  | .sleep h _ | .trapu h _ => { sub := h.sub == 0, s := sR }
  | _ => {}

/-- The format C fields of a form. -/
def Instr.opC : Instr → Option OpC
  | .nop _ o => some o
  | .bra _ o => some o
  | .brq _ o => some o
  | .brp _ o => some o
  | .brs _ o => some o
  | .call _ o => some o
  | .calli _ o => some o
  | .ret _ o => some o
  | .loop _ o => some o
  | .fork _ o => some o
  | .join _ o => some o
  | .exit _ o => some o
  | .sleep _ o => some o
  | .yield _ o => some o
  | .bkpt _ o => some o
  | .trapu _ o => some o
  | _ => none

/-- A format C encoding breaks no rule of 05 R131 and 06 R144. -/
def legalC (h : Hdr) (o : OpC) (c : CSpec) : Bool :=
  h.guardOk && c.sub && (c.s.cls != .none || o.s == 0) && (c.s2.cls != .none || o.s2 == 0) && (c.cq != 0 || o.cq == 0)
  && decide (o.cm.toNat < c.cm)
  && (if c.tgt then decide (o.slot.toNat < 5) else o.slot == 0 && o.off == 0)
  && (if c.tgt2 then decide (o.slot2.toNat < 5) else o.slot2 == 0 && o.off2 == 0)

/-! ### Format Y -/

/-- Which fields a privileged form uses (16 R332 to R346). -/
structure YSpec where
  sub : Bool := false
  d : Opnd := no
  a : Opnd := no
  b : Opnd := no
  imm : Bool := false
  deriving DecidableEq, Repr

/-- The privileged registers of 16 R329. -/
def prvRegOk (n : Nat) : Bool :=
  n ≤ 0x011 || (0x040 ≤ n && n ≤ 0x048) || (0x100 ≤ n && n ≤ 0x200) || (0x210 ≤ n && n ≤ 0x255) || (0x260 ≤ n && n ≤ 0x26F)
    || (0x300 ≤ n && n ≤ 0x3FF)

def yspec (i : Instr) : YSpec :=
  match i with
  | .wickctlRelease h o => { sub := h.sub == 0, imm := o.imm == 0 }
  | .wickctlKill h o => { sub := h.sub == 1, imm := o.imm == 0 }
  | .wickctlPark h o => { sub := h.sub == 2, imm := o.imm == 0 }
  | .wickctlUnpark h o => { sub := h.sub == 3, a := sR, imm := o.imm == 0 }
  | .replay h o => { sub := h.sub == 0, d := sW, imm := o.imm.toNat < 4 }
  | .halt h o => { sub := h.sub == 0, a := sR, imm := o.imm == 0 }
  | .eret h o => { sub := h.sub == 0, imm := o.imm == 0 }
  | .eretNext h o => { sub := h.sub == 1, imm := o.imm == 0 }
  | .eretReflect h o => { sub := h.sub == 2 && decide (o.d.toNat < 60), d := sW, a := sR, imm := o.imm.toNat < 2 }
  | .mfpr h o => { sub := h.sub == 0, d := sW, imm := prvRegOk o.imm.toNat }
  | .mtpr h o => { sub := h.sub == 0, a := sR, imm := prvRegOk o.imm.toNat }
  | .savev h o => { sub := h.sub.toNat < 3, d := sW, a := vR 1, b := sR, imm := if h.sub == 2 then o.imm.toNat < 4 else o.imm == 0 }
  | .loadv h o => { sub := h.sub.toNat < 3, d := vW 1, a := sR, imm := if h.sub == 2 then o.imm.toNat < 4 else o.imm == 0 }
  | .savekSave h o => { sub := h.sub == 0, a := sR, imm := o.imm == 0 }
  | .savekLoad h o => { sub := h.sub == 1, a := sR, imm := o.imm == 0 }
  | .quiesceWait h o => { sub := h.sub == 0, d := sW, a := sR, b := sR, imm := o.imm.toNat < 4 }
  | .quiesceCancel h o => { sub := h.sub == 1, d := sW, a := sR, b := sR, imm := o.imm.toNat < 4 }
  | .tlbinv h o => { sub := h.sub.toNat < 2, a := if h.sub == 0 then sR else no, b := if h.sub == 0 then sR else no,
                     imm := 1 ≤ o.imm.toNat && o.imm.toNat ≤ 3 }
  | _ => {}

/-- The format Y fields of a form. -/
def Instr.opY : Instr → Option OpY
  | .wickctlRelease _ o => some o
  | .wickctlKill _ o => some o
  | .wickctlPark _ o => some o
  | .wickctlUnpark _ o => some o
  | .replay _ o => some o
  | .halt _ o => some o
  | .eret _ o => some o
  | .eretNext _ o => some o
  | .eretReflect _ o => some o
  | .mfpr _ o => some o
  | .mtpr _ o => some o
  | .savev _ o => some o
  | .loadv _ o => some o
  | .savekSave _ o => some o
  | .savekLoad _ o => some o
  | .quiesceWait _ o => some o
  | .quiesceCancel _ o => some o
  | .tlbinv _ o => some o
  | _ => none

/-- A format Y encoding is unguarded (16, SAVEV section) and breaks no rule of its form. -/
def legalY (h : Hdr) (o : OpY) (y : YSpec) : Bool :=
  h.gp == 15 && !h.gn && y.sub && y.imm && y.d.fits o.d && y.a.fits o.a && y.b.fits o.b

/-! ### All forms -/

/-- CNT's value is zero but for SET (14 R312): the one field of a microinstruction that can be out of form. -/
def legalMicro : Instr → Bool
  | .mCnt op v => op == 0 || v == 0
  | _ => true

/-- No illegal-instruction cause of 05 R136 steps 3 and 5. -/
def Instr.legal (i : Instr) : Bool :=
  match i.hdr with
  | none => legalMicro i
  | some h =>
    match i.opV, i.opM, i.opX, i.opC, i.opY with
    | some o, _, _, _, _ => legalV h o (vspec i)
    | _, some o, _, _, _ => legalM h o (mspec i)
    | _, _, some o, _, _ => legalX h o (xspec i)
    | _, _, _, some o, _ => legalC h o (cspec i)
    | _, _, _, _, some o => legalY h o (yspec i)
    | _, _, _, _, _ => false

/-- The issue classes of 05 R122 and R134. -/
inductive IssueClass where
  | s | v | e | solo
  deriving DecidableEq, Repr

/-- The class of an opcode (05 R134); an unassigned one counts as solo (R122). -/
def opcClass (o : Nat) : IssueClass :=
  if o ≤ 0x04 || o = 0x08 then .s
  else if o ≤ 0x0F then .solo
  else if o ≤ 0x24 then .s
  else if o ≤ 0x2F then .solo
  else if o ≤ 0x44 then .v
  else if 0x50 ≤ o && o ≤ 0x64 then .v
  else if 0x70 ≤ o && o ≤ 0x80 then .v
  else if o = 0x96 || o = 0x97 || o = 0x99 then .s
  else if 0x90 ≤ o && o ≤ 0xA1 then .v
  else if 0xB0 ≤ o && o ≤ 0xBE then .e
  else if 0xC0 ≤ o && o ≤ 0xC7 then .e
  else if 0xD0 ≤ o && o ≤ 0xD8 then .e
  else if o = 0xE1 || o = 0xEA || o = 0xEB || o = 0xEC || o = 0xED then .solo
  else if 0xE0 ≤ o && o ≤ 0xFA then .e
  else .solo

/-- The opcodes of 05 R134. -/
def opcAssigned (o : Nat) : Bool :=
  o ≤ 0x44 || (0x50 ≤ o && o ≤ 0x64) || (0x70 ≤ o && o ≤ 0x80) || (0x90 ≤ o && o ≤ 0xA1) || (0xB0 ≤ o && o ≤ 0xBE)
    || (0xC0 ≤ o && o ≤ 0xC7) || (0xD0 ≤ o && o ≤ 0xD8) || (0xE0 ≤ o && o ≤ 0xFA)

/-- The guard of a form is a scalar predicate: class S and format C (05 R126). -/
def Instr.qGuard (i : Instr) : Bool :=
  match i.opc with
  | some o => o.toNat ≤ 0x0F || opcClass o.toNat == .s
  | none => false

/-- A privileged opcode (05 R135). -/
def Instr.prv (i : Instr) : Bool :=
  match i.opc with
  | some o => 0x25 ≤ o.toNat && o.toNat ≤ 0x2F
  | none => false

/-- The register fields of a form with their use: what it reads and writes (02 R49, 17 R355, R356). -/
def Instr.opnds (i : Instr) : List (BitVec 8 × Opnd) :=
  match i.opV, i.opM, i.opX, i.opC, i.opY with
  | some o, _, _, _, _ =>
    let v := vspec i
    [(o.d, v.d), (o.a, v.a)] ++ (if o.ib then [] else [(o.b, v.b)]) ++ [(o.c, v.c)]
  | _, some o, _, _, _ =>
    let m := mspec i
    [(o.d, m.d)] ++ (if m.x && o.x != 0xFF then [(o.x, vR 1)] else []) ++ (if m.addr then [(o.s.setWidth 8, sR)] else [])
  | _, _, some o, _, _ => let x := xspec i; [(o.d, x.d), (o.a, x.a), (o.b, x.b), (o.c, x.c)]
  | _, _, _, some o, _ => let c := cspec i; [(o.s.setWidth 8, c.s), (o.s2.setWidth 8, c.s2)]
  | _, _, _, _, some o => let y := yspec i; [(o.d, y.d), (o.a, y.a), (o.b, y.b)]
  | _, _, _, _, _ => []

end Sys2Proof
end

