-- ==== Sys2Proof/WellFormed.lean ====
section
/-! DEFINITION. When an instruction is well formed: it breaks none of the rules of form of spec/05_encoding_and_assembly.md
R126 to R133 and of its own row. What the machine's state decides (registers past NG, a mode, an address) is no part of it. -/

namespace Sys2Proof

/-- The instruction breaks no rule of form. -/
abbrev Instr.wf (i : Instr) : Prop := i.legal = true

end Sys2Proof
end

