-- ==== Sys2Proof/Decode.lean ====
section
/-! DEFINITION. The decoder, from the bits of an instruction to the instruction or a named refusal, and the encoder
(spec/05_encoding_and_assembly.md R126 to R135, spec/14_rendering_and_lantern.md R312). -/

namespace Sys2Proof

open Machine

/-- Why bits are no instruction. -/
inductive DecodeError where
  /-- The opcode is not in 05 R134. -/
  | opcode
  /-- No form of this opcode has this SUB (05 R135). -/
  | sub
  /-- TY 15 (03 R69). -/
  | type
  /-- RM 6 or 7 (03 R76). -/
  | rounding
  /-- SP 6 or 7 (04 R87). -/
  | space
  /-- SZ 5 to 7 (05 R129). -/
  | size
  /-- SC 6 or 7 (04 R103). -/
  | scope
  /-- A nonzero reserved field (05 R127, R132; 14 R312). -/
  | reserved
  /-- A field the form does not accept (05 R128 to R133). -/
  | form
  deriving DecidableEq, Repr

/-! ### Fields -/

/-- The header (05 R126). -/
def hdrOf (w : BitVec 96) : Hdr := ⟨w.extractLsb' 84 4, w.getLsbD 83, w.extractLsb' 79 4⟩

/-- The major opcode (05 R126). -/
def opcOf (w : BitVec 96) : BitVec 8 := w.extractLsb' 88 8

/-- The fields of format C (05 R131). -/
def fieldsC (w : BitVec 96) : OpC :=
  ⟨w.extractLsb' 73 6, w.extractLsb' 67 6, w.extractLsb' 63 4, w.extractLsb' 60 3, w.extractLsb' 35 25,
    w.extractLsb' 32 3, w.extractLsb' 3 29, w.extractLsb' 0 3⟩

/-- The fields of format V (05 R127). -/
def fieldsV (w : BitVec 96) : Except DecodeError OpV :=
  match tyOfCode (w.extractLsb' 43 4).toNat with
  | none => .error .type
  | some ty =>
    match rmOfCode (w.extractLsb' 40 3).toNat with
    | none => .error .rounding
    | some rm =>
      if w.extractLsb' 32 3 = 0 then
        .ok ⟨w.extractLsb' 71 8, w.extractLsb' 63 8, w.extractLsb' 55 8, w.extractLsb' 47 8, ty, rm, w.getLsbD 39,
          w.getLsbD 38, w.getLsbD 37, w.getLsbD 36, w.getLsbD 35, w.extractLsb' 0 32⟩
      else .error .reserved

/-- The fields of format M (05 R129). -/
def fieldsM (w : BitVec 96) : Except DecodeError OpM :=
  match spaceOfCode (w.extractLsb' 51 3).toNat with
  | none => .error .space
  | some sp =>
    match sizeOfCode (w.extractLsb' 48 3).toNat with
    | none => .error .size
    | some sz =>
      match scopeOfCode (w.extractLsb' 45 3).toNat with
      | none => .error .scope
      | some sc =>
        .ok ⟨w.extractLsb' 71 8, w.extractLsb' 63 8, w.extractLsb' 57 6, w.extractLsb' 54 3, sp, sz, sc,
          orderOfCode (w.extractLsb' 43 2).toNat, w.getLsbD 42, w.getLsbD 41, w.getLsbD 40, w.extractLsb' 32 8,
          w.extractLsb' 0 32⟩

/-- The fields of format X (05 R130). -/
def fieldsX (w : BitVec 96) : OpX :=
  ⟨w.extractLsb' 71 8, w.extractLsb' 63 8, w.extractLsb' 55 8, w.extractLsb' 47 8, w.extractLsb' 32 15, w.extractLsb' 0 32⟩

/-- The fields of format Y (05 R132). -/
def fieldsY (w : BitVec 96) : Except DecodeError OpY :=
  if w.extractLsb' 32 23 = 0 then .ok ⟨w.extractLsb' 71 8, w.extractLsb' 63 8, w.extractLsb' 55 8, w.extractLsb' 0 32⟩
  else .error .reserved

/-! ### The opcode map (05 R134); rows of one opcode are told apart by SUB -/

/-- The format C forms. -/
def formC (opc : Nat) (h : Hdr) (o : OpC) : Option Instr :=
  match opc with
  | 0x00 => some (.nop h o)
  | 0x01 => some (.bra h o)
  | 0x02 => some (.brq h o)
  | 0x03 => some (.brp h o)
  | 0x04 => some (.brs h o)
  | 0x05 => some (.call h o)
  | 0x06 => some (.calli h o)
  | 0x07 => some (.ret h o)
  | 0x08 => some (.loop h o)
  | 0x09 => some (.fork h o)
  | 0x0A => some (.join h o)
  | 0x0B => some (.exit h o)
  | 0x0C => some (.sleep h o)
  | 0x0D => some (.yield h o)
  | 0x0E => some (.bkpt h o)
  | 0x0F => some (.trapu h o)
  | _ => none

/-- The format V forms. -/
def formV (opc : Nat) (h : Hdr) (o : OpV) : Option Instr :=
  match opc with
  | 0x10 => some (.sadd h o)
  | 0x11 => some (.ssub h o)
  | 0x12 => some (.smul h o)
  | 0x13 => some (.sdiv h o)
  | 0x14 => some (.sand h o)
  | 0x15 => some (.sor h o)
  | 0x16 => some (.sxor h o)
  | 0x17 => some (.sshl h o)
  | 0x18 => some (.sshr h o)
  | 0x19 => some (.smin h o)
  | 0x1A => some (.smax h o)
  | 0x1B => some (.scmp h o)
  | 0x1C => some (.ssel h o)
  | 0x1D => some (.smov h o)
  | 0x1E => some (.sbit h o)
  | 0x1F => some (.sbfx h o)
  | 0x20 => some (.sfop h o)
  | 0x21 => some (.sfcmp h o)
  | 0x22 => some (.scvt h o)
  | 0x23 => some (.qop h o)
  | 0x24 => some (.shi h o)
  | 0x30 => some (.vadd h o)
  | 0x31 => some (.vsub h o)
  | 0x32 => some (.vmul h o)
  | 0x33 => some (.vmad h o)
  | 0x34 => some (.vand h o)
  | 0x35 => some (.vor h o)
  | 0x36 => some (.vxor h o)
  | 0x37 => some (.vshl h o)
  | 0x38 => some (.vshr h o)
  | 0x39 => some (.vmin h o)
  | 0x3A => some (.vmax h o)
  | 0x3B => some (.vabsd h o)
  | 0x3C => some (.vcmp h o)
  | 0x3D => some (.vsel h o)
  | 0x3E => some (.vmov h o)
  | 0x3F => some (.vaddmin h o)
  | 0x40 => some (.vaddmax h o)
  | 0x41 => some (.vbit h o)
  | 0x42 => some (.vbfx h o)
  | 0x43 => some (.vdot h o)
  | 0x44 => some (.vclamp h o)
  | 0x50 => some (.fadd h o)
  | 0x51 => some (.fsub h o)
  | 0x52 => some (.fmul h o)
  | 0x53 => some (.ffma h o)
  | 0x54 => some (.fmin h o)
  | 0x55 => some (.fmax h o)
  | 0x56 => some (.fcmp h o)
  | 0x57 => some (.fclass h o)
  | 0x58 => some (.frcp h o)
  | 0x59 => some (.frsq h o)
  | 0x5A => some (.fsqrt h o)
  | 0x5B => some (.fexp2 h o)
  | 0x5C => some (.flog2 h o)
  | 0x5D => some (.fsincos h o)
  | 0x5E => some (.fdiv h o)
  | 0x5F => some (.fdot2 h o)
  | 0x60 => some (.fcvt h o)
  | 0x61 => some (.icvt h o)
  | 0x62 => some (.fpack h o)
  | 0x63 => some (.funpack h o)
  | 0x64 => some (.fscale h o)
  | 0x70 => some (.lshf h o)
  | 0x71 => some (.lrot h o)
  | 0x72 => some (.lperm h o)
  | 0x73 => some (.lbcast h o)
  | 0x74 => some (.lred h o)
  | 0x75 => some (.lscan h o)
  | 0x76 => some (.lbal h o)
  | 0x77 => some (.lpack h o)
  | 0x78 => some (.lmatch h o)
  | 0x79 => some (.plop h o)
  | 0x7A => some (.pset h o)
  | 0x7B => some (.aff h o)
  | 0x7C => some (.vshape h o)
  | 0x7D => some (.vcomp h o)
  | 0x7E => some (.vexp h o)
  | 0x7F => some (.mfs h o)
  | 0x80 => some (.mts h o)
  | _ => none

/-- The format M forms. -/
def formM (opc : Nat) (h : Hdr) (o : OpM) : Option Instr :=
  match opc with
  | 0x90 => some (.ld h o)
  | 0x91 => some (.st h o)
  | 0x92 => if h.sub = 0 then some (.ldaBcast h o) else if h.sub = 1 then some (.ldaSeq h o) else none
  | 0x93 => some (.sta h o)
  | 0x94 => some (.ldc h o)
  | 0x95 => some (.stc h o)
  | 0x96 => some (.lds h o)
  | 0x97 => some (.sts h o)
  | 0x98 => some (.atom h o)
  | 0x99 => some (.satom h o)
  | 0x9A => some (.cas h o)
  | 0x9B => some (.fence h o)
  | 0x9C => some (.icinv h o)
  | 0x9D => some (.cache h o)
  | 0x9E => some (.txl h o)
  | 0x9F => some (.txi h o)
  | 0xA0 => some (.waitm h o)
  | 0xA1 => some (.ldq h o)
  | _ => none

/-- The format X forms. -/
def formX (opc : Nat) (h : Hdr) (o : OpX) : Option Instr :=
  match opc with
  | 0xB0 => some (.cpy h o)
  | 0xB1 => some (.cpyg h o)
  | 0xB2 => some (.cpys h o)
  | 0xB3 => some (.cpym h o)
  | 0xB4 => some (.seal h o)
  | 0xB5 => some (.waitb h o)
  | 0xB6 => some (.binit h o)
  | 0xB7 => some (.barv h o)
  | 0xB8 => some (.bwait h o)
  | 0xB9 => some (.btest h o)
  | 0xBA => some (.waitwp h o)
  | 0xBB => some (.chrst h o)
  | 0xBC => some (.qsub h o)
  | 0xBD => some (.qwait h o)
  | 0xBE => some (.cpyst h o)
  | 0xC0 => some (.mma h o)
  | 0xC1 => some (.mmas h o)
  | 0xC2 => some (.mmac h o)
  | 0xC3 => if h.sub = 0 then some (.mzero h o) else if h.sub = 1 then some (.mzeroLat h o) else none
  | 0xC4 => some (.mdrain h o)
  | 0xC5 => some (.mldw h o)
  | 0xC6 => some (.mwait h o)
  | 0xC7 => some (.mstat h o)
  | 0xD0 => some (.ecrt h o)
  | 0xD1 => some (.edel h o)
  | 0xD2 => some (.eadd h o)
  | 0xD3 => some (.erem h o)
  | 0xD4 => some (.hres h o)
  | 0xD5 => some (.ecol h o)
  | 0xD6 => some (.eqry h o)
  | 0xD7 => some (.estat h o)
  | 0xD8 => some (.ecnt h o)
  | 0xE0 => some (.capt h o)
  | 0xE1 => if h.sub = 0 then some (.apply h o) else if h.sub = 1 then some (.applyV h o) else none
  | 0xE2 => some (.kdup h o)
  | 0xE3 => some (.krel h o)
  | 0xE4 => some (.kld h o)
  | 0xE5 => some (.kmov h o)
  | 0xE6 => some (.kref h o)
  | 0xE7 => some (.uisend h o)
  | 0xE8 => if h.sub.toNat < 3 then some (.uimask h o) else if h.sub = 3 then some (.uimaskClaim h o) else none
  | 0xE9 => if h.sub = 0 then some (.uipendTake h o) else if h.sub = 1 then some (.uipendPeek h o) else none
  | 0xEA => some (.uiret h o)
  | 0xEB => some (.uiwait h o)
  | 0xEC => some (.svc h o)
  | 0xED => some (.svcw h o)
  | 0xEE => some (.emit h o)
  | 0xEF => some (.nodefin h o)
  | 0xF0 => some (.bin h o)
  | 0xF1 => some (.rast h o)
  | 0xF2 => some (.ztest h o)
  | 0xF3 => some (.rtw h o)
  | 0xF4 => some (.tilef h o)
  | 0xF5 => some (.tex h o)
  | 0xF6 => some (.trace h o)
  | 0xF7 => some (.cont h o)
  | 0xF8 => some (.rsusp h o)
  | 0xF9 => some (.rres h o)
  | 0xFA => some (.lntp h o)
  | _ => none

/-- The format Y forms. -/
def formY (opc : Nat) (h : Hdr) (o : OpY) : Option Instr :=
  match opc with
  | 0x25 => if h.sub = 0 then some (.wickctlRelease h o) else if h.sub = 1 then some (.wickctlKill h o) else if h.sub = 2 then some (.wickctlPark h o) else if h.sub = 3 then some (.wickctlUnpark h o) else none
  | 0x26 => some (.replay h o)
  | 0x27 => some (.halt h o)
  | 0x28 => if h.sub = 0 then some (.eret h o) else if h.sub = 1 then some (.eretNext h o) else if h.sub = 2 then some (.eretReflect h o) else none
  | 0x29 => some (.mfpr h o)
  | 0x2A => some (.mtpr h o)
  | 0x2B => some (.savev h o)
  | 0x2C => some (.loadv h o)
  | 0x2D => if h.sub = 0 then some (.savekSave h o) else if h.sub = 1 then some (.savekLoad h o) else none
  | 0x2E => if h.sub = 0 then some (.quiesceWait h o) else if h.sub = 1 then some (.quiesceCancel h o) else none
  | 0x2F => some (.tlbinv h o)
  | _ => none

/-- The first format of an opcode that has a form with this header, and what the fields say. -/
def decodeFields (w : BitVec 96) : Except DecodeError Instr :=
  let opc := (opcOf w).toNat
  let h := hdrOf w
  let pick (i : Option Instr) : Except DecodeError Instr := match i with
    | some i => .ok i
    | none => .error .sub
  if opcAssigned opc = false then .error .opcode
  else if opc < 0x10 then pick (formC opc h (fieldsC w))
  else if 0x25 ≤ opc && opc < 0x30 then
    match fieldsY w with
    | .ok o => pick (formY opc h o)
    | .error e => .error e
  else if opc < 0x90 then
    match fieldsV w with
    | .ok o => pick (formV opc h o)
    | .error e => .error e
  else if opc < 0xB0 then
    match fieldsM w with
    | .ok o => pick (formM opc h o)
    | .error e => .error e
  else pick (formX opc h (fieldsX w))

/-- The instruction a slot's 96 bits hold (05 R136, steps 3 and 5). -/
def decode (w : BitVec 96) : Except DecodeError Instr :=
  match decodeFields w with
  | .ok i => if i.legal then .ok i else .error .form
  | .error e => .error e

/-- A Lantern microinstruction (14 R312). -/
def decodeMicro (w : BitVec 32) : Except DecodeError Instr :=
  let low := w.extractLsb' 0 27
  let plain (i : Instr) : Except DecodeError Instr := if low = 0 then .ok i else .error .reserved
  match (w.extractLsb' 27 5).toNat with
  | 0 => plain .mNode
  | 1 => plain .mBoxn
  | 2 => plain .mOrder
  | 3 => plain .mPushc
  | 4 => plain .mPop
  | 5 => plain .mLeaf
  | 6 => plain .mPrim
  | 7 => plain .mHit
  | 8 => plain .mCallk
  | 9 => plain .mAccept
  | 10 => plain .mIgnore
  | 11 => if w.extractLsb' 2 25 = 0 then .ok (.mSett (w.extractLsb' 0 2)) else .error .reserved
  | 12 => if w.extractLsb' 6 21 = 0 then .ok (.mJmp (w.extractLsb' 0 6)) else .error .reserved
  | 13 => if w.extractLsb' 13 14 = 0 && w.extractLsb' 6 2 = 0 then
      .ok (.mJif (w.getLsbD 12) (w.extractLsb' 8 4) (w.extractLsb' 0 6)) else .error .reserved
  | 14 => if w.extractLsb' 10 17 = 0 then .ok (.mCnt (w.extractLsb' 8 2) (w.extractLsb' 0 8)) else .error .reserved
  | 15 => plain .mTerm
  | 16 => plain .mDone
  | _ => .error .opcode

/-! ### The encoder -/

/-- OPC, SUB, GN and GP (05 R126). -/
def packHdr (opc : BitVec 8) (h : Hdr) : BitVec 17 := opc ++ h.sub ++ BitVec.ofBool h.gn ++ h.gp

def packC (opc : BitVec 8) (h : Hdr) (o : OpC) : BitVec 96 :=
  packHdr opc h ++ o.s ++ o.s2 ++ o.cq ++ o.cm ++ o.off2 ++ o.slot2 ++ o.off ++ o.slot

def packV (opc : BitVec 8) (h : Hdr) (o : OpV) : BitVec 96 :=
  packHdr opc h ++ o.d ++ o.a ++ o.b ++ o.c ++ BitVec.ofNat 4 o.ty.code ++ BitVec.ofNat 3 o.rm.code ++ BitVec.ofBool o.sat
    ++ BitVec.ofBool o.absa ++ BitVec.ofBool o.negb ++ BitVec.ofBool o.nega ++ BitVec.ofBool o.ib ++ 0#3 ++ o.imm

def packM (opc : BitVec 8) (h : Hdr) (o : OpM) : BitVec 96 :=
  packHdr opc h ++ o.d ++ o.x ++ o.s ++ o.tx ++ BitVec.ofNat 3 o.sp.code ++ BitVec.ofNat 3 o.sz.code ++ BitVec.ofNat 3 o.sc.code
    ++ BitVec.ofNat 2 o.or_.code ++ BitVec.ofBool o.rp ++ BitVec.ofBool o.ext ++ BitVec.ofBool o.nt ++ o.aux ++ o.disp

def packX (opc : BitVec 8) (h : Hdr) (o : OpX) : BitVec 96 :=
  packHdr opc h ++ o.d ++ o.a ++ o.b ++ o.c ++ o.flags ++ o.imm

def packY (opc : BitVec 8) (h : Hdr) (o : OpY) : BitVec 96 :=
  packHdr opc h ++ o.d ++ o.a ++ o.b ++ 0#23 ++ o.imm

/-- The 96 bits of an instruction of a wick; none for the rows no slot encodes. -/
def encode (i : Instr) : Option (BitVec 96) :=
  match i.opc, i.hdr with
  | some opc, some h =>
    match i.opV, i.opM, i.opX, i.opC, i.opY with
    | some o, _, _, _, _ => some (packV opc h o)
    | _, some o, _, _, _ => some (packM opc h o)
    | _, _, some o, _, _ => some (packX opc h o)
    | _, _, _, some o, _ => some (packC opc h o)
    | _, _, _, _, some o => some (packY opc h o)
    | _, _, _, _, _ => none
  | _, _ => none

/-- The 27 operand bits of a microinstruction (14 R312). -/
def microLow : Instr → BitVec 27
  | .mSett sel => 0#25 ++ sel
  | .mJmp t => 0#21 ++ t
  | .mJif n c t => 0#14 ++ BitVec.ofBool n ++ c ++ 0#2 ++ t
  | .mCnt o v => 0#17 ++ o ++ v
  | _ => 0

/-- The 32 bits of a Lantern microinstruction; none for every other row. -/
def encodeMicro (i : Instr) : Option (BitVec 32) := i.mop.map (fun m => BitVec.ofNat 5 m ++ microLow i)

/-- A row's bits: 32 for a microinstruction of the Lantern, 96 for an instruction of a wick. -/
def decodeTableWord (nbits w : Nat) : Option Instr :=
  if nbits ≤ 32 then (decodeMicro (BitVec.ofNat 32 w)).toOption
  else (decode (BitVec.ofNat 96 w)).toOption

end Sys2Proof
end

