-- ==== Sys2Proof/Machine/Num.lean ====
section
/-! DEFINITION. Number formats and exact arithmetic (spec/03_number_formats.md): decoding to exact values, the one
rounding of R77 under every mode of R76, the conversions of R80, E8M0 and DY8, and the results the approximate forms
of 06 R158 may return. -/

namespace Sys2Proof.Machine

/-! ### Exact values -/

/-- An exact value: NaN (signalling or quiet), infinity, zero with its sign, or a nonzero rational n / d. -/
inductive Ex where
  | nan (sig : Bool)
  | inf (neg : Bool)
  | zero (neg : Bool)
  | num (neg : Bool) (n d : Nat)
  deriving DecidableEq, Repr

/-- The floating-point formats of 03 R71: exponent bits, fraction bits, bias. -/
structure Fmt where
  eb : Nat
  fb : Nat
  bias : Nat
  /-- E4M3: no infinity, one NaN pattern (03 R72). -/
  e4m3 : Bool
  /-- FTZ acts on it (03 R79). -/
  ftz : Bool
  deriving DecidableEq, Repr

def fF64 : Fmt := ⟨11, 52, 1023, false, true⟩
def fF32 : Fmt := ⟨8, 23, 127, false, true⟩
def fF16 : Fmt := ⟨5, 10, 15, false, true⟩
def fBF16 : Fmt := ⟨8, 7, 127, false, true⟩
def fE4M3 : Fmt := ⟨4, 3, 7, true, false⟩
def fE5M2 : Fmt := ⟨5, 2, 15, false, false⟩

namespace Fmt

/-- Width in bits. -/
def width (f : Fmt) : Nat := 1 + f.eb + f.fb

/-- The exponent of the smallest normal value. -/
def emin (f : Fmt) : Int := 1 - (f.bias : Int)

/-- The canonical NaN pattern (03 R73). -/
def canonNan (f : Fmt) : Nat :=
  if f.e4m3 then 0x7F else (2 ^ f.eb - 1) * 2 ^ f.fb + 2 ^ (f.fb - 1)

/-- The pattern of an infinity; only formats that have one. -/
def infPat (f : Fmt) (neg : Bool) : Nat := (if neg then 2 ^ (f.eb + f.fb) else 0) + (2 ^ f.eb - 1) * 2 ^ f.fb

/-- The pattern of a zero. -/
def zeroPat (f : Fmt) (neg : Bool) : Nat := if neg then 2 ^ (f.eb + f.fb) else 0

/-- The pattern of the largest finite value. -/
def maxPat (f : Fmt) (neg : Bool) : Nat :=
  (if neg then 2 ^ (f.eb + f.fb) else 0) + (if f.e4m3 then 0x7E else (2 ^ f.eb - 2) * 2 ^ f.fb + (2 ^ f.fb - 1))

end Fmt

/-- m × 2^e as a rational magnitude. -/
def scaleMag (neg : Bool) (m : Nat) (e : Int) : Ex :=
  if m = 0 then .zero neg
  else match e with
    | .ofNat k => .num neg (m * 2 ^ k) 1
    | .negSucc k => .num neg m (2 ^ (k + 1))

/-- DEC_fmt of 03 R72 and R81; ftz replaces a subnormal by a zero (R79) in the formats it acts on. -/
def dec (f : Fmt) (ftz : Bool) (b : Nat) : Ex :=
  let neg := b.testBit (f.eb + f.fb)
  let e := fld b f.fb f.eb
  let m := fld b 0 f.fb
  if f.e4m3 ∧ e = 15 ∧ m = 7 then .nan false
  else if !f.e4m3 ∧ e = 2 ^ f.eb - 1 then
    (if m = 0 then .inf neg else .nan (f.fb > 2 && !(m.testBit (f.fb - 1))))
  else if e = 0 then
    (if ftz && f.ftz then .zero neg else scaleMag neg m (f.emin - (f.fb : Int)))
  else scaleMag neg (2 ^ f.fb + m) ((e : Int) - (f.bias : Int) - (f.fb : Int))

/-- An exact integer as a value. -/
def exOfInt (x : Int) : Ex :=
  if x = 0 then .zero false else .num (x < 0) x.natAbs 1

/-- An exact rational as a value; zero takes the sign given. -/
def exOfRat (zneg : Bool) (n : Int) (d : Nat) : Ex :=
  if n = 0 then .zero zneg else .num (n < 0) n.natAbs d

/-- Sign bit of a value; NaN counts as positive. -/
def Ex.isNeg : Ex → Bool
  | .nan _ => false
  | .inf n => n
  | .zero n => n
  | .num n _ _ => n

def Ex.isNan : Ex → Bool
  | .nan _ => true
  | _ => false

def Ex.isSig : Ex → Bool
  | .nan s => s
  | _ => false

def Ex.isInf : Ex → Bool
  | .inf _ => true
  | _ => false

/-- The signed numerator of a finite value over its denominator. -/
def Ex.rat : Ex → Int × Nat
  | .num neg n d => (if neg then -(n : Int) else (n : Int), d)
  | _ => (0, 1)

/-! ### Flags (02 R63) -/

def flIV : BitVec 5 := 1
def flDZ : BitVec 5 := 2
def flOF : BitVec 5 := 4
def flUF : BitVec 5 := 8
def flNX : BitVec 5 := 16

/-! ### Rounding -/

/-- floor(sqrt n), one bit at a time from bit k down. -/
def isqrtGo : Nat → Nat → Nat → Nat
  | 0, r, n => if (r + 1) * (r + 1) ≤ n then r + 1 else r
  | k + 1, r, n => isqrtGo k (if (r + 2 ^ (k + 1)) * (r + 2 ^ (k + 1)) ≤ n then r + 2 ^ (k + 1) else r) n

def isqrt (n : Nat) : Nat := isqrtGo (n.log2 / 2 + 1) 0 n

/-- A positive exact magnitude: a rational, or the square root of one (03 R76 compares both exactly). -/
inductive Mag where
  | rat (n d : Nat)
  | root (n d : Nat)
  deriving DecidableEq, Repr

/-- floor(m × 2^k), and whether it is exact. -/
def Mag.floorPow (m : Mag) (k : Int) : Nat × Bool :=
  match m with
  | .rat n d =>
    let n' := match k with | .ofNat j => n * 2 ^ j | .negSucc _ => n
    let d' := match k with | .ofNat _ => d | .negSucc j => d * 2 ^ (j + 1)
    (n' / d', n' % d' = 0)
  | .root n d =>
    let n' := match k with | .ofNat j => n * 2 ^ (2 * j) | .negSucc _ => n
    let d' := match k with | .ofNat _ => d | .negSucc j => d * 2 ^ (2 * (j + 1))
    let r := isqrt (n' / d')
    (r, r * r * d' = n')

/-- floor(log2 (n / d)) for positive n and d. -/
def log2Rat (n d : Nat) : Int :=
  let e := (n.log2 : Int) - (d.log2 : Int)
  let ok : Bool := match e with
    | .ofNat j => decide (d * 2 ^ j ≤ n)
    | .negSucc j => decide (d ≤ n * 2 ^ (j + 1))
  if ok then e else e - 1

/-- floor(log2 m). -/
def Mag.log2 : Mag → Int
  | .rat n d => log2Rat n d
  | .root n d => (log2Rat n d) / 2

/-- The rounding of a magnitude x / q that lies in [lo, lo + 1] to one of the two, by mode (03 R76). neg is the sign of
the value; draw is D. Answers whether the larger magnitude is taken. -/
def roundUp (rm : Rm) (neg : Bool) (draw : Nat) (m : Mag) (k : Int) (lo : Nat) : Bool :=
  let two := m.floorPow (k + 1)
  let half := two.1 % 2 = 1
  let tie := half && two.2
  match rm with
  | .rne => if tie then lo % 2 = 1 else half
  | .rna => half
  | .rtz => false
  | .rup => !neg
  | .rdn => neg
  | .sto =>
    let f := m.floorPow (k + 32)
    let fr := f.1 - lo * 2 ^ 32
    if neg then !(decide (fr + draw < 2 ^ 32))
    else decide (draw < fr) || (decide (draw = fr) && !f.2)

/-- A rounded result: its pattern and flags. -/
structure Rounded where
  pat : Nat
  fl  : BitVec 5
  deriving DecidableEq, Repr

/-- OVF of 03 R77. -/
def ovf (f : Fmt) (rm : Rm) (sat neg : Bool) : Nat :=
  if f.e4m3 then (if sat then f.maxPat neg else f.canonNan)
  else if sat then f.maxPat neg
  else match rm with
    | .rne | .rna | .sto => f.infPat neg
    | .rtz => f.maxPat neg
    | .rup => if neg then f.maxPat true else f.infPat false
    | .rdn => if neg then f.infPat true else f.maxPat false

/-- The pattern of M × 2^(e - fb) with M at most 2^(fb+1) and e at least emin. -/
def encMant (f : Fmt) (neg : Bool) (M : Nat) (e : Int) : Nat :=
  let s := if neg then 2 ^ (f.eb + f.fb) else 0
  let P := f.fb + 1
  if M = 2 ^ P then s + ((e + 1 + f.bias).toNat) * 2 ^ f.fb
  else if M < 2 ^ f.fb then s + M
  else s + ((e + f.bias).toNat) * 2 ^ f.fb + (M - 2 ^ f.fb)

/-- RND_fmt of a nonzero finite magnitude (03 R77). -/
def roundMag (f : Fmt) (rm : Rm) (sat ftz : Bool) (draw : Nat) (neg : Bool) (m : Mag) : Rounded :=
  let P : Int := f.fb + 1
  let l := m.log2
  let e := max l f.emin
  let k := P - 1 - e
  let lo := m.floorPow k
  let up := if lo.2 then false else roundUp rm neg draw m k lo.1
  let M := if up then lo.1 + 1 else lo.1
  let inexact := !lo.2
  -- |y| > MAXF (03 R71): compare the pattern's magnitude with the largest finite one
  let pat := encMant f neg M e
  let ended := decide ((encMant f false M e) > f.maxPat false)
  if ended then ⟨ovf f rm sat neg, flOF ||| flNX⟩
  else
    let nx := if inexact then flNX else 0
    -- tininess with the exponent unbounded below, with the same draw
    let kt := P - 1 - l
    let lot := m.floorPow kt
    let upt := if lot.2 then false else roundUp rm neg draw m kt lot.1
    let Mt := if upt then lot.1 + 1 else lot.1
    let tiny := decide (l < f.emin) && !(decide (l = f.emin - 1) && decide (Mt = 2 ^ (f.fb + 1)))
    if tiny && ftz && f.ftz then ⟨f.zeroPat neg, flUF ||| flNX⟩
    else
      let uf := if tiny && inexact then flUF else 0
      if M = 0 then ⟨f.zeroPat neg, nx ||| uf⟩ else ⟨pat, nx ||| uf⟩

/-- RND_fmt (03 R77). -/
def rnd (f : Fmt) (rm : Rm) (sat ftz : Bool) (draw : Nat) (x : Ex) : Rounded :=
  match x with
  | .nan _ => ⟨f.canonNan, 0⟩
  | .inf neg =>
    if f.e4m3 then (if sat then ⟨f.maxPat neg, 0⟩ else ⟨f.canonNan, flIV⟩) else ⟨f.infPat neg, 0⟩
  | .zero neg => ⟨f.zeroPat neg, 0⟩
  | .num neg n d => roundMag f rm sat ftz draw neg (.rat n d)

/-! ### Exact operations (03 R85) -/

def Ex.neg : Ex → Ex
  | .nan s => .nan s
  | .inf n => .inf (!n)
  | .zero n => .zero (!n)
  | .num n a b => .num (!n) a b

def Ex.abs : Ex → Ex
  | .nan s => .nan s
  | .inf _ => .inf false
  | .zero _ => .zero false
  | .num _ a b => .num false a b

/-- An operation's exact result with the flags it raises before rounding. -/
abbrev ExF := Ex × BitVec 5

/-- Signalling operands raise IV (03 R73). -/
def sigFl (xs : List Ex) : BitVec 5 := if xs.any Ex.isSig then flIV else 0

/-- Sum, with the sign IEEE 754 gives an exact zero: minus under RDN, plus otherwise (log 7). -/
def exAdd (rm : Rm) (a b : Ex) : ExF :=
  let z := decide (rm = .rdn)
  match a, b with
  | .nan s, y => (.nan false, if s || y.isSig then flIV else 0)
  | x, .nan s => (.nan false, if s || x.isSig then flIV else 0)
  | .inf n, .inf m => if n = m then (.inf n, 0) else (.nan false, flIV)
  | .inf n, _ => (.inf n, 0)
  | _, .inf n => (.inf n, 0)
  | .zero n, .zero m => (.zero (if n = m then n else z), 0)
  | .zero _, y => (y, 0)
  | x, .zero _ => (x, 0)
  | .num n a1 d1, .num m a2 d2 =>
    let x : Int := ((a1 * d2 : Nat) : Int)
    let y : Int := ((a2 * d1 : Nat) : Int)
    (exOfRat z ((if n then -x else x) + (if m then -y else y)) (d1 * d2), 0)

def exMul (a b : Ex) : ExF :=
  let sg := xor a.isNeg b.isNeg
  match a, b with
  | .nan s, y => (.nan false, if s || y.isSig then flIV else 0)
  | x, .nan s => (.nan false, if s || x.isSig then flIV else 0)
  | .inf _, .zero _ => (.nan false, flIV)
  | .zero _, .inf _ => (.nan false, flIV)
  | .inf _, _ => (.inf sg, 0)
  | _, .inf _ => (.inf sg, 0)
  | .zero _, _ => (.zero sg, 0)
  | _, .zero _ => (.zero sg, 0)
  | .num _ a1 d1, .num _ a2 d2 => (.num sg (a1 * a2) (d1 * d2), 0)

/-- a × b + c, exact. An invalid product raises IV also beside a quiet NaN addend (log 8). -/
def exFma (rm : Rm) (a b c : Ex) : ExF :=
  let p := exMul a b
  let q := exAdd rm p.1 c
  (q.1, p.2 ||| q.2 ||| sigFl [a, b, c])

def exDiv (a b : Ex) : ExF :=
  let sg := xor a.isNeg b.isNeg
  match a, b with
  | .nan s, y => (.nan false, if s || y.isSig then flIV else 0)
  | x, .nan s => (.nan false, if s || x.isSig then flIV else 0)
  | .inf _, .inf _ => (.nan false, flIV)
  | .zero _, .zero _ => (.nan false, flIV)
  | .inf _, _ => (.inf sg, 0)
  | _, .inf _ => (.zero sg, 0)
  | .zero _, _ => (.zero sg, 0)
  | _, .zero _ => (.inf sg, flDZ)
  | .num _ a1 d1, .num _ a2 d2 => (.num sg (a1 * d2) (d1 * a2), 0)

/-- Order of two values that are not NaN; zeros are equal (06 R157). -/
def exCmp (a b : Ex) : Ordering :=
  match a, b with
  | .inf n, .inf m => if n = m then .eq else if n then .lt else .gt
  | .inf n, _ => if n then .lt else .gt
  | _, .inf n => if n then .gt else .lt
  | x, y =>
    let p := x.rat; let q := y.rat
    compare (p.1 * (q.2 : Int)) (q.1 * (p.2 : Int))

/-- minimumNumber and maximumNumber of 06 R156. -/
def exMinMax (isMax : Bool) (a b : Ex) : ExF :=
  let fl := sigFl [a, b]
  match a, b with
  | .nan _, .nan _ => (.nan false, fl)
  | .nan _, y => (y, fl)
  | x, .nan _ => (x, fl)
  | .zero n, .zero m => (.zero (if isMax then n && m else n || m), fl)
  | x, y => (if decide (exCmp x y = .lt) = isMax then y else x, fl)

/-- The square root's rounding (06 R156, 03 R76). -/
def rndSqrt (f : Fmt) (rm : Rm) (sat ftz : Bool) (draw : Nat) (a : Ex) : Rounded :=
  match a with
  | .nan s => ⟨f.canonNan, if s then flIV else 0⟩
  | .zero n => ⟨f.zeroPat n, 0⟩
  | .inf n => if n then ⟨f.canonNan, flIV⟩ else ⟨f.infPat false, 0⟩
  | .num true _ _ => ⟨f.canonNan, flIV⟩
  | .num false n d => roundMag f rm sat ftz draw false (.root n d)

/-- Rounds an exact result and adds the flags it carried. -/
def rndF (f : Fmt) (rm : Rm) (sat ftz : Bool) (draw : Nat) (x : ExF) : Rounded :=
  let r := rnd f rm sat ftz draw x.1
  ⟨r.pat, r.fl ||| x.2⟩

/-! ### Integers (03 R68, R70, R80, R81) -/

/-- SAT to a w-bit signed or unsigned range. -/
def satI (sgn : Bool) (w : Nat) (x : Int) : Int :=
  let lo : Int := if sgn then -((2 ^ (w - 1) : Nat) : Int) else 0
  let hi : Int := if sgn then ((2 ^ (w - 1) : Nat) : Int) - 1 else ((2 ^ w : Nat) : Int) - 1
  min (max x lo) hi

/-- The w-bit pattern of an integer result, wrapped or saturated (03 R70). TY b32 is unsigned here, so with SAT = 1 it saturates as n32
does (DEDUCED, log entry 130: 03 R69 has its arithmetic wrap as n32 and 03 R81 names no SAT_B32). -/
def narrowI (sgn sat : Bool) (w : Nat) (x : Int) : Nat := wrapI (if sat then satI sgn w x else x) w

/-- FTOI of 03 R80: the w-bit pattern and the flags. -/
def ftoi (sgn : Bool) (w : Nat) (rm : Rm) (draw : Nat) (x : Ex) : Rounded :=
  match x with
  | .nan _ => ⟨0, flIV⟩
  | .inf neg =>
    ⟨wrapI (if neg then satI sgn w (-(2 ^ 64 : Int)) else satI sgn w (2 ^ 65 : Int)) w, flIV⟩
  | .zero _ => ⟨0, 0⟩
  | .num neg n d =>
    let m := Mag.rat n d
    let lo := m.floorPow 0
    let up := if lo.2 then false else roundUp rm neg draw m 0 lo.1
    let k : Nat := if up then lo.1 + 1 else lo.1
    let i : Int := if neg then -(k : Int) else (k : Int)
    if satI sgn w i = i then ⟨wrapI i w, if lo.2 then 0 else flNX⟩ else ⟨wrapI (satI sgn w i) w, flIV⟩

/-! ### E8M0 and DY8 (03 R74, R75) -/

/-- DEC_E8M0. -/
def decE8M0 (e : Nat) : Ex := if e = 255 then .nan false else scaleMag false 1 ((e : Int) - 127)

/-- Sixty-fourths of a DY8 value (03 R75). -/
def dy8Int (b : Nat) : Int :=
  let t (s e : Nat) : Int := if e = 7 then 0 else (if s = 1 then -1 else 1) * (2 ^ (6 - e) : Nat)
  t (fld b 7 1) (fld b 4 3) + t (fld b 3 1) (fld b 0 3)

def decDY8 (b : Nat) : Ex := exOfRat false (dy8Int b) 64

/-- The DY8 code nearest to y (07 R204): the least distance, then the smaller E1, the smaller E2, positive signs. -/
def encDY8 (yn : Int) (yd : Nat) : Nat :=
  let dist (c : Nat) : Nat := (yn * 64 - dy8Int c * (yd : Int)).natAbs
  let key (c : Nat) : Nat := fld c 4 3 * 32 + fld c 0 3 * 4 + fld c 7 1 * 2 + fld c 3 1
  (List.range 256).foldl
    (fun best c => if dist c < dist best ∨ (dist c = dist best ∧ key c < key best) then c else best) 0

/-! ### Comparisons (06 R157) -/

/-- The condition of SUB code c, and whether IV is raised. -/
def fcmp (c : Nat) (a b : Ex) : Bool × BitVec 5 :=
  let un := a.isNan || b.isNan
  let iv := if c = 2 ∨ c = 3 ∨ c = 4 ∨ c = 5 then (if un then flIV else 0) else sigFl [a, b]
  let r :=
    if un then decide (c = 1 ∨ c = 6)
    else match c with
      | 0 => exCmp a b = .eq
      | 1 => exCmp a b ≠ .eq
      | 2 => exCmp a b = .lt
      | 3 => exCmp a b ≠ .gt
      | 4 => exCmp a b = .gt
      | 5 => exCmp a b ≠ .lt
      | 6 => false
      | _ => true
  (r, iv)

/-- The class mask of FCLASS (06 R156); FTZ does not act. -/
def fclass (f : Fmt) (b : Nat) : Nat :=
  match dec f false b with
  | .nan s => if s then 2 ^ 8 else 2 ^ 9
  | .inf n => if n then 1 else 2 ^ 7
  | .zero n => if n then 2 ^ 3 else 2 ^ 4
  | .num n _ _ =>
    let sub := fld b f.fb f.eb = 0
    if n then (if sub then 2 ^ 2 else 2 ^ 1) else (if sub then 2 ^ 5 else 2 ^ 6)

/-! ### The approximate forms (06 R158)

A transcendental value is enclosed in fixed point to 2^-96; the answer is any of the format's values within the bound,
chosen by Config.approxPick (log 6). -/

def fxBits : Nat := 96
def fxOne : Int := (2 ^ fxBits : Nat)

/-- Product of two fixed-point values. -/
def fxMul (a b : Int) : Int := (a * b) / fxOne

/-- A rational in fixed point. -/
def fxRat (n : Int) (d : Nat) : Int := (n * fxOne) / (d : Int)

/-- Sum of x^k / k! from term t at index k: exp(x) for fixed-point x with |x| at most 1. -/
def fxExpGo : Nat → Nat → Int → Int → Int
  | 0, _, _, _ => 0
  | n + 1, k, x, t => t + fxExpGo n (k + 1) x (fxMul t x / ((k : Int) + 1))

/-- Sum of x^(2k+1)/(2k+1) for |x| at most 1/3: artanh x. -/
def fxAtanhGo : Nat → Nat → Int → Int → Int
  | 0, _, _, _ => 0
  | n + 1, k, x2, t => t / (k : Int) + fxAtanhGo n (k + 2) x2 (fxMul t x2)

/-- ln 2 = 2 artanh(1/3). -/
def fxLn2 : Int := let x := fxRat 1 3; 2 * fxAtanhGo 40 1 (fxMul x x) x

/-- Machin's arctan of 1/n in fixed point. -/
def fxAtanInv (n : Int) : Nat → Nat → Int → Int
  | 0, _, _ => 0
  | j + 1, k, t => t / (k : Int) - fxAtanInv n j (k + 2) (t / (n * n))

/-- π = 16 arctan(1/5) − 4 arctan(1/239). -/
def fxPi : Int := 16 * fxAtanInv 5 48 1 (fxOne / 5) - 4 * fxAtanInv 239 16 1 (fxOne / 239)

/-- sin or cos by its series: term t at index k, x2 = x². -/
def fxTrigGo : Nat → Nat → Int → Int → Int
  | 0, _, _, _ => 0
  | n + 1, k, x2, t => t - fxTrigGo n (k + 2) x2 (fxMul t x2 / (((k : Int) + 1) * ((k : Int) + 2)))

def fxSin (x : Int) : Int := fxTrigGo 30 1 (fxMul x x) x
def fxCos (x : Int) : Int := fxTrigGo 30 0 (fxMul x x) fxOne

/-- A finite or infinite pattern as a place on the line of the format's values: its magnitude bits, negated under the sign. -/
def patKey (f : Fmt) (p : Nat) : Int :=
  let s := 2 ^ (f.eb + f.fb)
  if p ≥ s then -((p % s : Nat) : Int) else (p : Int)

/-- The pattern at a place; neg is the sign of a zero. -/
def keyPat (f : Fmt) (neg : Bool) (k : Int) : Nat := (if k < 0 ∨ (k = 0 ∧ neg = true) then 2 ^ (f.eb + f.fb) else 0) + k.natAbs

/-- The place of num / den rounded in a mode, flushing and saturating nothing. -/
def keyAt (f : Fmt) (rm : Rm) (num : Int) (den : Nat) : Int :=
  if num = 0 then 0 else patKey f (roundMag f rm false false 0 (decide (num < 0)) (.rat num.natAbs den)).pat

/-- A result of this pattern that is not exact (03 R77, 06 R158): NX, and UF with a flush under FTZ where it is below the normal values. -/
def inexactPat (f : Fmt) (ftz neg : Bool) (p : Nat) : Rounded :=
  if p % 2 ^ (f.eb + f.fb) < 2 ^ f.fb then ⟨if ftz then f.zeroPat neg else p, flUF ||| flNX⟩ else ⟨p, flNX⟩

/-- A result within the bound bn / bd of the value n / d, which is not exact: any pattern of the format that lies within it, by
Config.approxPick; where none does, one of the two about the value (log 6). A value past the largest gives OVF, or a pattern within the
bound where there is one. -/
def approxNear (f : Fmt) (form op : Nat) (sat ftz : Bool) (neg : Bool) (n d bn bd : Nat) : Rounded :=
  let v : Int := if neg then -(n : Int) else (n : Int)
  let top : Int := (f.maxPat false : Nat)
  let lo := max (-top) (keyAt f .rup (v * bd - ((bn * d : Nat) : Int)) (d * bd))
  let hi := min top (keyAt f .rdn (v * bd + ((bn * d : Nat) : Int)) (d * bd))
  let pick := Config.approxPick form f.width op
  let r := roundMag f .rne sat ftz 0 neg (.rat n d)
  let count := (hi - lo + 1).toNat
  if r.fl &&& flOF ≠ 0 then
    (if pick % (count + 1) = count then r else inexactPat f ftz neg (keyPat f neg (lo + ((pick % (count + 1) : Nat) : Int))))
  else if count = 0 then inexactPat f ftz neg (keyPat f neg (keyAt f (if pick % 2 = 0 then .rdn else .rup) v d))
  else inexactPat f ftz neg (keyPat f neg (lo + ((pick % count : Nat) : Int)))

/-- One ulp of the format at the value n / d, as a rational (06 R158), times k. -/
def ulpAt (f : Fmt) (n d k : Nat) : Nat × Nat :=
  let e := max (log2Rat n d) f.emin - (f.fb : Int)
  match e with
  | .ofNat j => (k * 2 ^ j, 1)
  | .negSucc j => (k, 2 ^ (j + 1))

/-- FRCP (06 R158): within one ulp; exact where the format holds the reciprocal. -/
def frcp (f : Fmt) (sat ftz : Bool) (op : Nat) (a : Ex) : Rounded :=
  match a with
  | .nan s => ⟨f.canonNan, if s then flIV else 0⟩
  | .zero n => ⟨f.infPat n, flDZ⟩
  | .inf n => ⟨f.zeroPat n, 0⟩
  | .num neg n d =>
    let r := roundMag f .rne sat ftz 0 neg (.rat d n)
    if r.fl &&& flNX = 0 then r
    else let u := ulpAt f d n 1; approxNear f 0 op sat ftz neg d n u.1 u.2

/-- FRSQ (06 R158): within one ulp of the inverse square root, enclosed to 2^-96 relative to its exponent. -/
def frsq (f : Fmt) (sat ftz : Bool) (op : Nat) (a : Ex) : Rounded :=
  match a with
  | .nan s => ⟨f.canonNan, if s then flIV else 0⟩
  | .zero n => ⟨f.infPat n, flDZ⟩
  | .inf n => if n then ⟨f.canonNan, flIV⟩ else ⟨f.zeroPat false, 0⟩
  | .num true _ _ => ⟨f.canonNan, flIV⟩
  | .num false n d =>
    let r := roundMag f .rne sat ftz 0 false (.root d n)
    if r.fl &&& flNX = 0 then r
    else
      let k : Int := (fxBits : Int) - (Mag.root d n).log2
      let v := ((Mag.root d n).floorPow k).1
      match scaleMag false v (-k) with
      | .num _ vn vd => let u := ulpAt f vn vd 1; approxNear f 1 op sat ftz false vn vd u.1 u.2
      | _ => r

/-- FEXP2 (06 R158): within two ulp; exact at integers. -/
def fexp2 (f : Fmt) (sat ftz : Bool) (op : Nat) (a : Ex) : Rounded :=
  match a with
  | .nan s => ⟨f.canonNan, if s then flIV else 0⟩
  | .zero _ => rnd f .rne sat ftz 0 (.num false 1 1)
  | .inf n => if n then ⟨f.zeroPat false, 0⟩ else ⟨f.infPat false, 0⟩
  | .num neg n d =>
    let v : Int := if neg then -(n : Int) else (n : Int)
    let i := v / (d : Int)
    let fr := v % (d : Int)
    if i > 2000 then ⟨ovf f .rne sat false, flOF ||| flNX⟩
    else if i < -2000 then ⟨f.zeroPat false, flUF ||| flNX⟩
    else if fr = 0 then
      (match scaleMag false 1 i with
       | .num _ n' d' => roundMag f .rne sat ftz 0 false (.rat n' d')
       | _ => ⟨0, 0⟩)
    else
      let x := fxMul (fxRat fr d) fxLn2
      let e := fxExpGo 40 0 x fxOne
      match scaleMag false e.toNat (i - (fxBits : Int)) with
      | .num _ vn vd =>
        let r := roundMag f .rne sat ftz 0 false (.rat vn vd)
        if r.fl &&& flOF ≠ 0 then r
        else let u := ulpAt f vn vd 2; approxNear f 2 op sat ftz false vn vd u.1 u.2
      | _ => ⟨0, 0⟩

/-- FLOG2 (06 R158): within two ulp, or 2^-22 where the result is below 1 in magnitude, whichever is wider (log 6); exact at powers of
two. -/
def flog2 (f : Fmt) (sat ftz : Bool) (op : Nat) (a : Ex) : Rounded :=
  match a with
  | .nan s => ⟨f.canonNan, if s then flIV else 0⟩
  | .zero _ => ⟨f.infPat true, flDZ⟩
  | .inf n => if n then ⟨f.canonNan, flIV⟩ else ⟨f.infPat false, 0⟩
  | .num true _ _ => ⟨f.canonNan, flIV⟩
  | .num false n d =>
    let e := log2Rat n d
    -- m = (n/d) / 2^e in [1, 2)
    let mn : Nat := match e with | .ofNat _ => n | .negSucc j => n * 2 ^ (j + 1)
    let md : Nat := match e with | .ofNat j => d * 2 ^ j | .negSucc _ => d
    if mn = md then rnd f .rne sat ftz 0 (exOfInt e)
    else
      -- ln m = 2 artanh((m-1)/(m+1)), argument below 1/3
      let x := fxRat ((mn : Int) - (md : Int)) (mn + md)
      let lg := (2 * fxAtanhGo 50 1 (fxMul x x) x * fxOne) / fxLn2
      let v := e * fxOne + lg
      let vn := v.natAbs
      let vd := 2 ^ fxBits
      let w := ulpAt f vn vd 2
      let u := if vn < vd ∧ w.1 * 2 ^ 22 < w.2 then (1, 2 ^ 22) else w
      approxNear f 3 op sat ftz (v < 0) vn vd u.1 u.2

/-- One half of FSINCOS (06 R158): sin(πa) or cos(πa) within 2^-21 (2^-10 in 16-bit formats); exact at multiples of
one half, where a zero cosine is +0 (DESIGN CHOICE, log entry 130: no rule names its sign). -/
def fsincosPart (f : Fmt) (isCos sat ftz : Bool) (op : Nat) (a : Ex) : Rounded :=
  match a with
  | .nan s => ⟨f.canonNan, if s then flIV else 0⟩
  | .inf _ => ⟨f.canonNan, flIV⟩
  | .zero n => if isCos then rnd f .rne sat ftz 0 (.num false 1 1) else ⟨f.zeroPat n, 0⟩
  | .num neg n d =>
    let v : Int := if neg then -(n : Int) else (n : Int)
    -- quarter turns: 2a = h + r/d with 0 ≤ r < d
    let h := (2 * v) / (d : Int)
    let r := (2 * v) % (d : Int)
    if r = 0 then
      let q := h % 4
      if isCos then
        (if q = 0 then rnd f .rne sat ftz 0 (.num false 1 1) else if q = 2 then rnd f .rne sat ftz 0 (.num true 1 1)
         else ⟨f.zeroPat false, 0⟩)
      else
        (if q = 1 then rnd f .rne sat ftz 0 (.num false 1 1) else if q = 3 then rnd f .rne sat ftz 0 (.num true 1 1)
         else ⟨f.zeroPat neg, 0⟩)
    else
      let th := fxMul (fxRat r (2 * d)) fxPi
      let q := h % 4
      let s := fxSin th
      let c := fxCos th
      let val := if isCos then (if q = 0 then c else if q = 1 then -s else if q = 2 then -c else s)
        else (if q = 0 then s else if q = 1 then c else if q = 2 then -s else -c)
      approxNear f (if isCos then 5 else 4) op sat ftz (val < 0) val.natAbs (2 ^ fxBits) 1 (if f.fb = 23 then 2 ^ 21 else 2 ^ 10)

/-! ### Stochastic rounding (03 R78) -/

/-- One draw: the next state, which is also D. -/
def drawNext (st : BitVec 32) : BitVec 32 :=
  let a := st ^^^ (st <<< 13)
  let b := a ^^^ (a >>> 17)
  b ^^^ (b <<< 5)

/-- The state SRAND's seed gives generator i. -/
def seedGen (seed : BitVec 32) (i : Nat) : BitVec 32 :=
  let s := seed + 0x9E3779B9#32 * BitVec.ofNat 32 (i + 1)
  if s = 0 then 1 else s

end Sys2Proof.Machine
end

