-- ==== Sys2Proof/Machine/State.lean ====
section
/-! DEFINITION. The state of the whole device as plain data, the reasons a step stops, and the state after reset
(spec/01_execution_model.md, spec/02_registers_and_operands.md, spec/16_privileged_state_and_preemption.md and the
chapters named with each record). -/

namespace Sys2Proof.Machine

open Sys2Proof

/-- Why the machine stops. -/
inductive Fault where
  /-- Raised by every instruction of a wick when no wick issues it: the step never does this. Safe: the model stops where
  the hardware has nothing to do. -/
  | noWick
  /-- Raised by every microinstruction when no ray executes it: the step never does this. Safe, as noWick. -/
  | noRay
  deriving DecidableEq, Repr

/-- Why an instruction has no meaning. -/
inductive Refusal where
  /-- Raised by exec for an instruction without a meaning. Safe: the model stops. -/
  | notModelled (mnemonic : String)
  deriving DecidableEq, Repr

/-! ### A wick's registers -/

/-- A vector register with its shape tag (02 R52): U holds VAL, A holds BASE and STRIDE, G holds 32 lanes. -/
inductive VReg where
  | u (val : Lane)
  | a (base stride : Lane)
  | g (lanes : Vector Lane 32)
  deriving DecidableEq, Repr

/-- A translation register (04 R97). -/
structure Tx where
  vbase : BitVec 57 := 0
  valid : Bool := false
  pbase : BitVec 52 := 0
  limit : BitVec 40 := 0
  rd : Bool := false
  wr : Bool := false
  atom : Bool := false
  home : BitVec 2 := 0
  deriving DecidableEq, Repr

/-- STATE of a split-table entry (01 R26). -/
inductive FragState where
  | free | running | waiting | parent | exited
  deriving DecidableEq, Repr

/-- A service call in progress (16 R331 at 0x90, 13 R276): D, SVCID and the prediction when there is one. -/
structure SvcCall where
  d : Nat
  id : Nat
  pred : Option Word
  token : Word
  /-- The fragment that called. -/
  frag : Nat := 0
  deriving DecidableEq, Repr

/-- What a fragment's instruction has begun and waits for: a send to a peer whose answer is awaited, or has come, with the node it went
to (13 R272, 20 R410); the rays an RSUSP counts and has counted (14 R318); a BWAIT with no arrival of its own, its place in LASTARR
and the phase open at its issue (07 R199); a call under NOSPEC with its reply, when it has come (13 R276). -/
structure FragWait where
  send : Option (Option Bool) := none
  sendNode : Nat := 0
  /-- The malformed block that its UISEND met (00 R12). -/
  sendMalf : Option Word := none
  rsusp : Option (List Nat × Nat) := none
  bwait : Option (Nat × BitVec 32) := none
  svc : Option (SvcCall × Option Word) := none
  deriving DecidableEq, Repr

/-- A split-table entry (01 R26), with what the fragment holds beside it: s44-s59 (R18), the call depth CD (06 R146), the
end of its SLEEP (06 R150) and whether it waits in UIWAIT (13 R273). -/
structure Frag where
  mask : Mask := 0
  qv : BitVec 15 := 0
  parent : Nat := 0
  state : FragState := .free
  level : Nat := 0
  pc : Word := 0
  joinPc : Word := 0
  lru : Nat := 0
  own : Vector Word 16 := Vector.replicate 16 0
  cd : Nat := 0
  sleep : Option Nat := none
  uiWait : Bool := false
  /-- Its next instruction waits behind a logged one (17 R356, R357). -/
  held : Bool := false
  wait : FragWait := {}
  /-- The line it executes, with the PC it was fetched or last used for (05 R125). -/
  line : Option (Word × Nat) := none
  deriving DecidableEq, Repr

/-- A serial-list record (01 R24, 16 R329). -/
structure SerialRec where
  e : Word
  j : Word
  u : Mask
  qv : BitVec 15
  owner : Nat
  phase2 : Bool
  own : Vector Word 16
  /-- T and U together as they stood at the FORK (R24), and the owner's CD there (06 R147). -/
  all : Mask
  cd : Nat
  deriving DecidableEq, Repr

/-- A register by class and number, s44-s59 and the q registers being those of the fragment that names them; tx is a translation register. -/
inductive RegName where
  | s (n : Nat) | q (n : Nat) | p (n : Nat) | v (n : Nat) | k (n : Nat) | tx (n : Nat)
  deriving DecidableEq, Repr

/-- The value of a logged source (16 R333). -/
inductive RegVal where
  | w (x : Word)
  | v (x : VReg)
  deriving DecidableEq, Repr

/-- An operand-log entry (16 R333, 17 R355): pending names the registers marked in the scoreboard. -/
structure LogEntry where
  valid : Bool := false
  instr : BitVec 96 := 0
  pc : Word := 0
  done : Mask := 0
  active : Mask := 0
  frag : Nat := 0
  srcs : List (RegName × RegVal) := []
  pending : List RegName := []
  /-- The whole instruction is logged: a read at issue faulted (17 R355). -/
  whole : Bool := false
  /-- The bytes of the remaining lanes as (lane, global address, length): what later accesses wait for (17 R356), and of an access what a
  recheck walks (R358). -/
  foot : List (Nat × Nat × Nat) := []
  /-- The faulting addresses with their lanes (17 R358). -/
  bad : List (Nat × Nat) := []
  /-- The wick's ISEQ when the instruction issued (11 R239). -/
  iseq : BitVec 16 := 0
  /-- What its accesses ask: read, write or atomic, the scope and the operation (17 R351). -/
  acc : Nat × Nat × Nat := (0, 0, 0)
  deriving DecidableEq, Repr

/-- An entry of an operand queue (02 R60, 16 R333). -/
structure QEntry where
  lanes : Vector Lane 32 := Vector.replicate 32 0
  faulted : Bool := false
  cause : BitVec 8 := 0
  fmask : Mask := 0
  faddr : Word := 0
  /-- The LDQ, which a recheck performs again (19 R390); zero in an entry that no LDQ appended. -/
  ldq : BitVec 96 := 0
  deriving DecidableEq, Repr

/-- What a wick is, and where (01 R16 to R38, 02 R61, R64, 16 R346). -/
inductive WickKind where
  | grid | query | node | tile | closure | continuation | callback
  deriving DecidableEq, Repr

/-- Whether a wick holds its slot and may issue (16 R338, R346). -/
inductive Stage where
  | waiting | resident | descheduled | halted | exited
  deriving DecidableEq, Repr

/-- Band membership of a wick: the band and the wick's position in it (01 R37). -/
structure BandRef where
  band : Nat
  pos : Nat
  deriving DecidableEq, Repr

/-- Origin of a lane (01 R18). -/
structure Origin where
  rank : Nat
  lane : Nat
  deriving DecidableEq, Repr

/-- The sample grid a wick's tile forms name (14 R287). -/
structure TileRef where
  pkt : Nat
  tile : Nat
  deriving DecidableEq, Repr

/-- What a continuation wick was gathered from (14 R298, R301): the KIND, CPC and HANDLE of its records, and for CALLK
the ray of each lane. -/
structure ContInfo where
  kind : Nat
  cpc : Word
  handle : Word
  rays : List Nat := []
  deriving DecidableEq, Repr

structure WickInfo where
  uid : Nat
  pkt : Nat := 0
  ctx : Nat := 0
  lseq : BitVec 32 := 0
  rank : Nat := 0
  kind : WickKind := .grid
  stage : Stage := .resident
  group : Nat := 0
  /-- Cluster, core index, partition and slot (02 R64). -/
  cluster : Nat := 0
  core : Nat := 0
  part : Nat := 0
  slot : Nat := 0
  save : Nat := 0
  ng : Nat := 8
  sliced : Bool := false
  bands : List BandRef := []
  origin : List Origin := []
  cont : Option ContInfo := none
  tile : Option TileRef := none
  pbase : Word := 0
  psize : Nat := 0
  cbase : Word := 0
  clen : Nat := 0
  nodeDepth : Nat := 0
  /-- The graph and node of a node wick (13 R282). -/
  graph : Option (Nat × Nat) := none
  killed : Bool := false
  /-- The last cycle in which it issued or was not ready, and whether it is guarded (19 R387). -/
  ready : Nat := 0
  guarded : Bool := false
  /-- When it last issued. -/
  last : Nat := 0
  /-- A pre-emption is delivered and not yet entered (16 R338). -/
  preq : Bool := false
  /-- A resumption is due: the operand-log entries it marks (17 R358). -/
  resume : Option (BitVec 4) := none
  /-- The wick has released in this pre-emption, and its handler was entered with cause 0x30, 0x31 (16 R338, R340). -/
  released : Bool := false
  /-- The restore entry is due, and the first ERET after it (16 R340). -/
  restoring : Bool := false
  deriving DecidableEq, Repr

/-- The registers all fragments share (02 R47). -/
structure Regs where
  s : Vector Word 44 := Vector.replicate 44 0
  p : Vector Mask 15 := Vector.replicate 15 0
  v : Vector VReg 248 := Vector.replicate 248 (.u 0)
  k : Vector Word 16 := Vector.replicate 16 0
  tx : Vector Tx 7 := Vector.replicate 7 {}
  /-- KLINK[1..16], KFRAME[1..16] and FGEN[1..16] (06 R146, 13 R267). -/
  klink : Vector Word 16 := Vector.replicate 16 0
  kframe : Vector Bool 16 := Vector.replicate 16 false
  fgen : Vector (BitVec 16) 16 := Vector.replicate 16 1
  ftz : Bool := false
  fpstat : BitVec 5 := 0
  forkser : BitVec 32 := 0
  gens : Vector (BitVec 32) 33 := Vector.replicate 33 0
  uiSavePc : Word := 0
  uiSaveQ : BitVec 15 := 0
  deriving DecidableEq, Repr

/-- Single-lane mode and its registers (16 R324 to R330). -/
structure TrapRegs where
  sl : Bool := false
  ppend : Bool := false
  parked : Bool := false
  /-- Parked by WICKCTL.PARK, until it is unparked (16 R339). -/
  byPark : Bool := false
  /-- The cause single-lane mode was last entered with (16 R339). -/
  entered : Nat := 0
  /-- The single-lane program counter. -/
  pc : Word := 0
  tpc : Word := 0
  tnpc : Word := 0
  tcause : Word := 0
  tmask : Word := 0
  tval : Word := 0
  tval2 : Word := 0
  tfrag : Nat := 0
  /-- s60-s63 and v252-v255 (02 R47). -/
  s : Vector Word 4 := Vector.replicate 4 0
  v : Vector VReg 4 := Vector.replicate 4 (.u 0)
  deriving DecidableEq, Repr

/-- The stores of one instruction in the speculative store buffer (13 R277): keys with their bytes, in order. -/
structure SpecStore where
  cells : List Host.Cell
  deriving DecidableEq, Repr

/-- A trap as its cause gives it (16 R326): code, failing lanes, TVAL and TVAL2. -/
structure TrapInfo where
  cause : Nat
  mask : Mask := 0
  val : Word := 0
  val2 : Word := 0
  deriving DecidableEq, Repr

/-- A debug stop (21 R415, R416): KIND, INDEX, HELD, the fragment, the active mask of the instruction concerned, the address. -/
structure StopInfo where
  kind : Nat
  index : Nat
  held : Nat
  frag : Nat
  pc : Word
  mask : Mask
  addr : Word
  deriving DecidableEq, Repr

/-- Bookkeeping of a wick beside its registers. -/
structure Books where
  /-- Open batch number and LASTSEAL (04 R114). -/
  batch : BitVec 32 := 1
  lastSeal : BitVec 32 := 0
  /-- LASTARR[4][16] (07 R196); all ones is none. -/
  lastArr : Vector Word 64 := Vector.replicate 64 0xFFFFFFFFFFFFFFFF
  iseq : BitVec 16 := 0
  mflags : BitVec 4 := 0
  stall : Vector (BitVec 32) 16 := Vector.replicate 16 0
  log : Vector LogEntry 4 := Vector.replicate 4 {}
  qp : Vector (List QEntry) 4 := Vector.replicate 4 []
  svc : Option SvcCall := none
  /-- The trap a speculation holds (13 R277), a page fault having cause 0x28 to 0x2A and being reissued, and its stores. -/
  held : Option TrapInfo := none
  /-- The fragment and PC of the trap held. -/
  heldAt : Nat × Word := (0, 0)
  ssb : List SpecStore := []
  /-- Fragments an instruction-fetch fault holds, with the address that failed (17 R357). -/
  fetchFault : List (Nat × Nat) := []
  /-- Fault records written so far (17 R364). -/
  faultSeq : BitVec 32 := 0
  /-- The reply to the call under speculation, once it has come (13 R276). -/
  reply : Option Word := none
  /-- The debug controls as read at placement, restore and ERET, bytes 0x40 to 0xC7 of the block (21 R413); fragments whose
  next instruction is the first after an ERET (21 R414); a stop that is due; records written so far (21 R416). -/
  debug : Nat := 0
  fresh : List Nat := []
  stop : Option StopInfo := none
  /-- The fragment whose PC is an entry with its T bit still to be checked (05 R121). -/
  entry : Option Nat := none
  traceSeq : BitVec 32 := 0
  /-- The fragment that has issued the first instruction of a pair and not yet the second (05 R122). -/
  pair : Option Nat := none
  /-- The line single-lane mode executes, with the PC it was fetched or last used for (05 R125). -/
  slLine : Option (Word × Nat) := none
  deriving DecidableEq, Repr

/-- The access slice of a sliced wick (19 R389): its own PC, CD and q registers (in fragment 0 of frags), s0-s43, tx0-tx6,
v128-v247, and p registers as they stood at the start (log 10). While the slice issues, the wick holds these and this record
holds the execute slice's. -/
structure Access where
  live : Bool := false
  /-- Its PC is the entry, whose T bit is still to be checked (05 R121). -/
  entry : Bool := false
  /-- Its trap, cause and PC, waits for room in QP0 (19 R391). -/
  trap : Option (Nat × Word) := none
  /-- The cycle of its cluster in which it last issued. -/
  last : Nat := 0
  frags : Vector Frag 8 := Vector.replicate 8 {}
  s : Vector Word 44 := Vector.replicate 44 0
  p : Vector Mask 15 := Vector.replicate 15 0
  tx : Vector Tx 7 := Vector.replicate 7 {}
  v : Vector VReg 120 := Vector.replicate 120 (.u 0)
  deriving DecidableEq, Repr

/-- One wick (01, table after R18). -/
structure Wick where
  info : WickInfo
  /-- The lanes R17 has not cleared. -/
  live : Mask := 0
  regs : Regs := {}
  frags : Vector Frag 8 := Vector.replicate 8 {}
  serial : List SerialRec := []
  trap : TrapRegs := {}
  books : Books := {}
  access : Option Access := none
  /-- The issue belongs to the access slice (19 R389). -/
  inAccess : Bool := false
  deriving DecidableEq, Repr

/-! ### Memory -/

/-- Device DRAM, peers, the host and the typed buffers in one list of (key, byte), by rising key. The key says which space a
byte stands in: see keyLocal to keyWb. -/
abbrev Memory := List Host.Cell

/-- What an unlisted address reads as: nothing has written it (log 1). -/
def emptyByte : Byte := 0

/-- Keys rise strictly and no entry equals what an unlisted address reads as. -/
def Memory.wfFrom : Nat → Memory → Bool
  | _, [] => true
  | lo, (a, b) :: m => decide (lo ≤ a) && b != emptyByte && Memory.wfFrom (a + 1) m

/-- The canonical form of memory. -/
def Memory.wf (m : Memory) : Bool := Memory.wfFrom 0 m

/-! ### Contexts -/

/-- Who sends a user interrupt (13 R271): a context of this device, a host PASID, a peer's context, or the loss of a node,
which always passes (20 R410). -/
inductive Sender where
  | ctx (c : Nat) | host (pasid : Nat) | peer (node c : Nat) | loss
  deriving DecidableEq, Repr

/-- Who waits for the answer to a send: a fragment of a wick in UISEND, a UIRAISE packet, a peer, a doorbell, nobody. -/
inductive Waiter where
  | wick (uid frag : Nat) | packet (id : Nat) | peer (node : Nat) | doorbell | nobody
  deriving DecidableEq, Repr

/-- A user interrupt on its way to a context (13 R272). -/
structure Send where
  sender : Sender
  vec : Nat
  payload : Word
  waiter : Waiter
  deriving DecidableEq, Repr

/-- A work of the Ocris that has stopped at a page, its record written (17 R423): what it asks of which address. -/
structure OwnStop where
  work : Nat
  acc : Nat
  va : Nat
  deriving DecidableEq, Repr

/-- A context (16 R329): its registers 0x000 to 0x011 as installed, and what the Ocris counts for it. -/
structure Ctx where
  id : Nat
  part : Nat
  pasid : BitVec 20
  regs : Vector Word 18 := Vector.replicate 18 0
  /-- Fault records that wait for room in the ring (17 R362): 64 bytes each, as a number. -/
  faults : List Nat := []
  /-- The signals the driver was given, one after each record written to the ring (17 R362, log 113). -/
  signals : Nat := 0
  /-- Sends not yet merged, in the order they arrived (13 R272, 17 R423). -/
  sends : List Send := []
  /-- Trace records that wait for the ring's page (17 R423). -/
  traces : List Nat := []
  /-- Fault records written for the Ocris's own accesses in this context (17 R423). -/
  ownFaults : Nat := 0
  /-- The works of the Ocris that wait at a page of the context for a recheck (17 R423). -/
  stops : List OwnStop := []
  deriving DecidableEq, Repr

/-- An agent of a cluster: an engine of the cluster, or one of its cores with the engines there. -/
structure Unit_ where
  cluster : Nat
  core : Option Nat := none
  deriving DecidableEq, Repr

/-- What a TLBINV has put an end to of a cached translation (16 R345): the unit its scope takes in, every unit at device scope, and the range. -/
structure TlbCut where
  unit : Option Unit_
  lo : Nat
  hi : Nat
  deriving DecidableEq, Repr

/-- A cached translation (17 R352): context, the virtual page of 512 KiB it was walked for, entry and its level, address of the entry; and
where a TLBINV has put an end to its use (16 R345). -/
structure TlbEntry where
  ctx : Nat
  vpage : Nat
  lvl : Nat
  entry : Nat
  ent : Nat
  dead : List TlbCut := []
  deriving DecidableEq, Repr

/-- An ICINV that has completed (07 R177): the scope code, the unit its scope takes in below device scope, the context and range of a RANGE
form, the cycle. -/
structure ICInv where
  scope : Nat
  by_ : Unit_
  range : Option (Nat × Nat × Nat)
  time : Nat
  deriving DecidableEq, Repr

/-- A byte that was overwritten: its key, the value it had, the cycle it was overwritten in, and the unit that did it; none for an agent
outside the clusters. -/
structure OldByte where
  key : Nat
  byte : Byte
  time : Nat
  by_ : Option Unit_ := none
  deriving DecidableEq, Repr

/-! ### Bands -/

/-- A barrier of a band (07 R196). -/
structure Barrier where
  phase : BitVec 32 := 0
  comp0 : BitVec 32 := 0
  comp1 : BitVec 32 := 0
  expw : Nat := 1
  expt : Nat := 0
  arrw : Nat := 0
  arrt : Nat := 0
  isst : Nat := 0
  deriving DecidableEq, Repr

/-- A band of a launch (01 R28 to R35, R43): its members' ranks in position order, its producer's position, its window of
WIN units of 4 KiB at an offset of the AB of each core that holds a member, and its barriers. -/
structure Band where
  uid : Nat
  pkt : Nat
  index : Nat
  members : List Nat
  /-- The wicks of the members, by position, and the ranks of those that have exited (01 R43). -/
  uids : List Nat := []
  gone : List Nat := []
  prod : Nat := 0
  /-- PLACE, and how many MMACs each position has issued for the band (09 R221). -/
  place : Nat := 0
  mmacs : Vector Nat 16 := Vector.replicate 16 0
  win : Nat := 0
  off : Nat := 0
  cluster : Nat := 0
  cores : List Nat := []
  /-- The tile it is the band of (01 R39). -/
  tile : Option Nat := none
  barriers : Vector Barrier 16 := Vector.replicate 16 {}
  complete : Bool := false
  deriving DecidableEq, Repr

/-! ### Environment stores and continuations -/

/-- An entry of a core's environment store (13 R259); an entry that is not listed is free with GEN 1. -/
structure EnvEntry where
  core : Nat
  entry : Nat
  pc : Word := 0
  refcnt : Nat := 0
  gen : BitVec 16 := 1
  smask : BitVec 8 := 0
  byref : Bool := false
  ownlive : Bool := false
  used : Bool := false
  owner : Nat := 0
  depth : Nat := 0
  fgen : BitVec 16 := 0
  /-- The slots of the captured address and scalars, and the vectors with their tags. -/
  slots : List Word := []
  vecs : List VReg := []
  deriving DecidableEq, Repr

/-- A continuation record (14 R298), with its place in the context's pool, the order in which it became final, and the ray
whose result or verdict it waits for. -/
structure ContRec where
  uid : Nat
  ctx : Nat
  pkt : Nat
  slot : Nat
  cpc : Word := 0
  rank : Nat := 0
  lane : Nat := 0
  kind : Nat := 0
  lmask : BitVec 16 := 0
  tile : Option Nat := none
  handle : Word := 0
  result : Vector Lane 4 := Vector.replicate 4 0
  vals : Vector Lane 16 := Vector.replicate 16 0
  lseq : BitVec 32 := 0
  final : Option Nat := none
  ray : Option Nat := none
  /-- Cluster and core of the wick it comes from. -/
  cluster : Nat := 0
  core : Nat := 0
  deriving DecidableEq, Repr

/-! ### Copies and quantisation -/

/-- A shape record (07 R182). -/
structure Shape where
  base : Word
  ext : List Nat
  str : List Int
  pad : Word
  esz : Nat
  ndim : Nat
  space : Nat
  core : Nat
  tx : Nat
  deriving DecidableEq, Repr

/-- A copy in a channel (07 R186 to R193). -/
structure Copy where
  /-- Channel: core of the device × 4 + CH; 2048 + die for a Candelabrum's (19 R374). -/
  chan : Nat
  seq : Nat
  uid : Nat
  pkt : Nat
  rank : Nat
  ctx : Nat
  cluster : Nat
  core : Nat
  band : Nat
  batch : Nat
  src : Shape
  dst : Shape
  /-- Source and destination rows of CPYG and CPYS; none for CPY and CPYM. -/
  rows : Option (List (Nat × Nat)) := none
  /-- Cores a CPYM delivers to, and those whose delivery is dropped. -/
  targets : Option (List Nat) := none
  dropped : Nat := 0
  /-- COUNT and the DROPPED and OVERFLOW bits of CPYST. -/
  count : Nat := 0
  dropBit : Bool := false
  overflow : Bool := false
  arrive : Option Nat := none
  gather : Bool := false
  detach : Bool := false
  callback : Option (Word × BitVec 32) := none
  /-- The FLAGS of its form, and the address of its bitmask or list, or its core mask (07 R186, R187). -/
  flags : Nat := 0
  list : Nat := 0
  /-- Elements delivered. -/
  pos : Nat := 0
  /-- The elements delivered to each target of a CPYM; pos counts those all have (04 R118). -/
  ats : List Nat := []
  stopped : Bool := false
  done : Bool := false
  /-- Bytes this copy has written, with what stood there (07 R183, overlap). -/
  shadow : List Host.Cell := []
  /-- Brought to rest by QUIESCE (16 R336). -/
  rest : Bool := false
  /-- It consumed poisoned data and goes no further (20 R402). -/
  dead : Bool := false
  /-- Its recheck has succeeded (17 R360), and the address it stopped at. -/
  due : Bool := false
  stopVa : Nat := 0
  deriving DecidableEq, Repr

/-- A channel's counts (07 R187, 04 R116): copies issued, the write pointer, fault records. -/
structure Chan where
  id : Nat
  seq : Nat := 0
  wp : Nat := 0
  faults : Nat := 0
  deriving DecidableEq, Repr

/-- A quantisation command (07 R202 to R205). -/
structure Quant where
  cluster : Nat
  seq : Nat
  pkt : Nat
  rank : Nat
  uid : Nat
  ctx : Nat
  record : Nat
  /-- Its token (07 R202). -/
  token : Nat := 0
  /-- The core that issued it, and the matrix instructions the core of a CB source had accepted then (R205). -/
  core : Nat := 0
  after : Nat := 0
  block : Nat := 0
  special : Bool := false
  stopped : Bool := false
  done : Bool := false
  rest : Bool := false
  /-- It consumed poisoned data and goes no further (20 R402). -/
  dead : Bool := false
  /-- Its recheck has succeeded (17 R360), and the address it stopped at. -/
  due : Bool := false
  stopVa : Nat := 0
  deriving DecidableEq, Repr

/-! ### Matrix engines (09) -/

/-- The matrix instructions (09 R214, R222 to R224). -/
inductive MKind where
  | mma | mmas | mmac | mzero | mzeroLat | mdrain | mldw
  deriving DecidableEq, Repr

/-- A matrix instruction as issued (09 R208, R215): what it captured, and how far it is. -/
structure MInstr where
  /-- Its place in the order of its core, and the token it was issued with (09 R214). -/
  seq : Nat
  token : Nat := 0
  uid : Nat
  pkt : Nat
  rank : Nat
  ctx : Nat
  kind : MKind
  sub : Nat := 0
  tile : Nat := 0
  /-- M, N and the K-blocks. -/
  m : Nat := 0
  n : Nat := 0
  kb : Nat := 0
  a : Nat := 0
  b : Nat := 0
  abyp : Bool := false
  wlat : Bool := false
  scl : Bool := false
  strm : Bool := false
  byp : Bool := false
  rowm : Bool := false
  satd : Bool := false
  ch : Nat := 0
  /-- W of 09 R217. -/
  wcount : Nat := 0
  bsel : Nat := 0
  sa : List VReg := []
  sb : List VReg := []
  sm : Nat := 0
  sn : Nat := 0
  pitch : Nat := 0
  /-- The band of an MMAC, the member's position and which MMAC of the member it is (09 R221). -/
  band : Nat := 0
  pos : Nat := 0
  turn : Nat := 0
  /-- K-blocks accumulated; whether the tile is computed; FAILED and reported (09 R219, R220). -/
  kdone : Nat := 0
  computed : Bool := false
  failed : Bool := false
  reported : Bool := false
  record : Nat := 0
  flags : Nat := 0
  done : Bool := false
  rest : Bool := false
  /-- It consumed poisoned data and goes no further (20 R402). -/
  dead : Bool := false
  deriving DecidableEq, Repr

/-- The contents of a latch (09 R207): format, rows, columns and the elements' patterns by rows. -/
structure Latch where
  fmt : Nat
  rows : Nat
  cols : Nat
  elems : List Nat
  deriving DecidableEq, Repr

/-- The matrix state of a core beside its buffers (09 R207): the descriptors as the instructions issued so far leave them
(R216, R224), and the latches as those executed leave them. -/
structure Matrix where
  core : Nat
  seq : Nat := 0
  queue : List MInstr := []
  adesc : Option (Nat × Nat × Nat) := none
  wdesc : Option (Nat × Nat × Nat) := none
  alatch : Option Latch := none
  wlatch : Option Latch := none
  deriving DecidableEq, Repr

/-- A tile-flush command (14 R295): what remains to be written, as (address, 32-bit value). -/
structure Flush where
  core : Nat
  seq : Nat
  uid : Nat
  pkt : Nat
  rank : Nat
  ctx : Nat
  tile : Nat
  token : Word
  writes : List (Nat × Nat)
  stopped : Bool := false
  /-- Its recheck has succeeded (17 R360), and the address it stopped at. -/
  due : Bool := false
  stopVa : Nat := 0
  faults : Nat := 0
  auto : Bool := false
  /-- Brought to rest by QUIESCE (16 R336). -/
  rest : Bool := false
  deriving DecidableEq, Repr

/-! ### Texel fetches and the Lantern (14) -/

/-- A texture fetch (14 R303): its continuation record, the descriptor and the coordinates. -/
structure Texel where
  record : Nat
  ctx : Nat
  desc : Nat
  u : Lane
  v : Lane
  uid : Nat
  stopped : Bool := false
  /-- Its recheck has succeeded (17 R360), and the address it stopped at. -/
  due : Bool := false
  stopVa : Nat := 0
  faults : Nat := 0
  deriving DecidableEq, Repr

/-- A traversal program a context has installed (14 R320): slot, layout descriptor and words. -/
structure Program where
  ctx : Nat
  slot : Nat
  layout : Nat
  code : List Nat
  deriving DecidableEq, Repr

/-- A ray in a Lantern slot (14 R310), and what only the slot holds (R313, R314, R317). -/
structure Ray where
  id : Nat
  ctx : Nat
  cluster : Nat
  core : Nat
  pkt : Nat
  rank : Nat
  uid : Nat
  /-- Its continuation record, and the address of its ray-state record. -/
  cont : Nat
  addr : Word
  ox : Lane := 0
  oy : Lane := 0
  oz : Lane := 0
  dx : Lane := 0
  dy : Lane := 0
  dz : Lane := 0
  tmin : Lane := 0
  tmax : Lane := 0
  ht : Lane := 0x7F800000
  hprim : Lane := 0
  hb1 : Lane := 0
  hb2 : Lane := 0
  hnode : Word := 0
  cur : Word := 0
  root : Word := 0
  kh : Word := 0
  prog : Nat := 0
  mpc : Nat := 0
  sp : Nat := 0
  hv : Bool := false
  blim : Bool := false
  fN : Bool := false
  fH : Bool := false
  fE : Bool := false
  fA : Bool := false
  fT : Bool := false
  cnt : Nat := 0
  lidx : Nat := 0
  lcnt : Nat := 0
  copq : Bool := false
  steps : Nat := 0
  budget : Nat := 0
  ct : Lane := 0
  cprim : Lane := 0
  cb1 : Lane := 0
  cb2 : Lane := 0
  cord : BitVec 24 := 0
  cnum : Nat := 0
  stack : Vector Word 16 := Vector.replicate 16 0
  /-- The node fetched since the last resumption, with its address, and the hit children with their entry values. -/
  node : Option (Nat × Nat) := none
  boxes : Option (List (Nat × Lane)) := none
  /-- Since when it waits for a verdict, and the verdict when it has come (R317). -/
  waits : Option Nat := none
  verdict : Option Nat := none
  /-- Microinstructions since the last NODE (R314). -/
  micros : Nat := 0
  /-- A pending RSUSP covers it. -/
  suspend : Bool := false
  /-- It leaves with this STATUS and CAUSE, and the write of its record waits for a page (17 R423). -/
  leaving : Option (Nat × Nat) := none
  rest : Bool := false
  deriving DecidableEq, Repr

/-- The verdicts of a CALLK wick that has ended (14 R317): its rays by lane, and its s0. -/
structure Verdict where
  uid : Nat
  rays : List Nat
  s0 : Word
  deriving DecidableEq, Repr

/-! ### Service calls and work graphs (13) -/

/-- A service request outstanding (13 R276): its token, the wick, the core and the service. -/
structure Request where
  token : Word
  uid : Nat
  svc : Nat
  deriving DecidableEq, Repr

/-- A record of a node queue (13 R281, R282): its slot, depth and the time it arrived. -/
structure GraphRec where
  node : Nat
  slot : Nat
  depth : Nat
  arrived : Nat
  deriving DecidableEq, Repr

/-- A record a node wick holds (13 R283), with its place in the wick's array. -/
structure GraphHeld where
  uid : Nat
  lane : Nat
  node : Nat
  slot : Nat
  addr : Nat
  len : Nat
  deriving DecidableEq, Repr

/-- A work graph in progress (13 R280): its descriptor table, the records that wait, in queue order, and those held. -/
structure Graph where
  id : Nat
  pkt : Nat
  ctx : Nat
  table : Nat
  count : Nat
  waiting : List GraphRec := []
  held : List GraphHeld := []
  nextRank : Nat := 0
  /-- Root records not yet in the queue of node root: the address of the next, and how many (14 R284). -/
  root : Nat := 0
  rootAddr : Nat := 0
  rootLeft : Nat := 0
  deriving DecidableEq, Repr

/-! ### Packets and launches (19) -/

/-- A declared range (19 R376). -/
structure Range where
  base : Nat
  len : Nat
  write : Bool
  deriving DecidableEq, Repr

/-- A group-table entry as validated (01 R29): its members' ranks by position. -/
structure BandSpec where
  members : List Nat
  prod : Nat
  win : Nat
  place : Nat
  deriving DecidableEq, Repr

/-- A table a query launch visits (11 R249): its number, and when its ROWS was read the block due next plus one. -/
structure QueryTable where
  table : Nat
  next : Option Nat := none
  deriving DecidableEq, Repr

/-- A tile in progress (14 R286): its index, its band, and whether its automatic flush is issued. -/
structure TileRun where
  tile : Nat
  band : Nat
  flushed : Bool := false
  deriving DecidableEq, Repr

/-- What a launch packet holds (19 R375): the record and the pass record as read at validation, and how far it is. -/
structure Launch where
  record : Nat
  pass : Nat := 0
  handle : Word := 0
  arg : Word := 0
  specs : List BandSpec := []
  valid : Bool := false
  /-- The lowest rank no group has placed, and the ranks above it that are placed (01 R31). -/
  nextRank : Nat := 0
  placed : List Nat := []
  /-- Bands 0 to this number minus one are complete and their count is stored (01 R44). -/
  bcw : Nat := 0
  graph : Option Nat := none
  tilePhase : Bool := false
  nextTile : Nat := 0
  tiles : List TileRun := []
  query : Option (List QueryTable) := none
  deriving DecidableEq, Repr

/-- A sync packet in progress (11 R245): its phase (0 waiting, 1 application, 2 compaction), changes applied, entities created
and deleted in the phase, the table under compaction. -/
structure Sync where
  world : Nat
  phase : Nat := 0
  applied : Nat := 0
  made : List Nat := []
  dead : List Nat := []
  table : Nat := 0
  /-- The engine consumed poisoned data in it and has stopped (20 R402). -/
  stuck : Bool := false
  deriving DecidableEq, Repr

/-- A snapshot (20 R408): stage 0 validated, 1 stopping, 2 cut, 3 copy, 4 over; since when it is in its stage. -/
structure Snap where
  header : Nat
  regions : List (Nat × Nat)
  stage : Nat := 0
  since : Nat := 0
  deriving DecidableEq, Repr

/-- A drain (20 R409). -/
structure Drain where
  pkt : Nat
  part : Nat
  ctx : Nat
  header : Nat
  shadow : Nat
  cut : Nat
  size : Nat
  /-- 1 SHADOW, 2 BUDDY; since when. -/
  stage : Nat
  since : Nat := 0
  deriving DecidableEq, Repr

/-- A packet accepted and not complete (19 R372 to R384). -/
structure Packet where
  id : Nat
  die : Nat
  queue : Nat
  n : Nat
  part : Nat
  ctx : Nat
  pasid : Nat
  cap : Nat
  priv : Bool
  msix : Nat
  crbase : Nat
  crsize : Nat
  /-- The 512 bits of the packet. -/
  body : Nat
  lseq : Nat
  started : Bool := false
  /-- The core cycle in which it started. -/
  start : Nat := 0
  status : Nat := 0
  /-- Its work is over, and the completion record follows. -/
  ended : Bool := false
  cancelled : Bool := false
  ranges : List Range := []
  launch : Option Launch := none
  sync : Option Sync := none
  snap : Option Snap := none
  /-- A CANCEL's target (19 R383). -/
  target : Option Nat := none
  overflow : Bool := false
  mfail : Option Nat := none
  killed : Bool := false
  atrap : Bool := false
  halted : Bool := false
  deriving DecidableEq, Repr

/-- Where a placement group stands (16 R338, R340). -/
inductive GroupStage where
  | resident | saving (since : Nat) | descheduled (at_ : Nat)
  deriving DecidableEq, Repr

/-- A QUIESCE on a core for a pre-emption (16 R336, R337): the record's address, its flags and its size. -/
structure Capture where
  core : Nat
  /-- The wick whose QUIESCE does the work, and whether the engines are at rest (16 R337). -/
  owner : Nat := 0
  ready : Bool := false
  /-- The works a record reloaded at the restore names, by item type and type-specific word (16 R340). -/
  back : List (Nat × Nat) := []
  addr : Word
  image : Bool
  imagew : Bool
  written : Bool
  size : Nat
  deriving DecidableEq, Repr

/-- A placement group (01 R31). -/
structure Group where
  id : Nat
  pkt : Nat
  ctx : Nat
  part : Nat
  cluster : Nat
  stage : GroupStage := .resident
  /-- Its wicks, those that have exited among them. -/
  uids : List Nat := []
  boost : Bool := false
  captures : List Capture := []
  deriving DecidableEq, Repr

/-- A command queue (19 R370, R371). -/
structure Queue where
  desc : BitVec 256 := 0
  tail : Nat := 0
  head : Nat := 0
  stopped : Bool := false
  deriving DecidableEq, Repr

/-- A die's registers (19 R369). -/
structure Die where
  pilot : BitVec 64 := 0
  /-- The time of the last tick. -/
  tick : Nat := 0
  lastRung : BitVec 3 := 0
  busy : Bool := false
  rungs : BitVec 32 := 0
  uidrop : BitVec 64 := 0
  lseq : Nat := 0
  queues : Vector Queue 64 := Vector.replicate 64 {}
  deriving DecidableEq, Repr

/-- A write the Candelabrum makes on its own account that is not yet made (17 R423): a completion record, a band-completion
word, a drain status word. -/
structure Post where
  ctx : Nat
  va : Nat
  len : Nat
  value : Nat
  /-- The MSI-X vector raised once it is made. -/
  msix : Option (Nat × Nat) := none
  deriving DecidableEq, Repr

/-! ### The outside (20, 21) -/

/-- What leaves over the links (20 R398). -/
inductive LinkMsg where
  | send (node ctx target vec : Nat) (payload : Word)
  | answer (node : Nat) (accepted : Bool)
  | cut (node cut : Nat)
  | loss (node lost : Nat)
  deriving DecidableEq, Repr

/-- What the device has sent out and nobody has taken: MSI-X vectors by die, link messages, the answer to the last host read,
peer request or SPDM message (none: refused or poisoned). -/
structure Outbox where
  msix : List (Nat × Nat) := []
  links : List LinkMsg := []
  answer : Option Nat := none
  deriving DecidableEq, Repr

/-- A unit with correctable errors (20 R403): the times of those of the last 10 minutes. -/
structure ErrUnit where
  unit : UnitId
  times : List Nat
  deriving DecidableEq, Repr

/-- Clock, voltage and issue limit of a cluster (21 R418). -/
structure Power where
  mhz : BitVec 16 := 600
  mv : BitVec 16 := 0
  limit : BitVec 8 := 16
  deriving DecidableEq, Repr

/-! ### What moves -/

/-- Which agent moves (log 3): the instruction of exec belongs to a wick with its fragment, or a ray of a Lantern; other moves are those of
an engine of a cluster, or of an agent outside the clusters. -/
inductive Actor where
  | nobody
  | wick (uid frag : Nat)
  | ray (id : Nat)
  | unit (u : Unit_)
  deriving DecidableEq, Repr

/-- A turn (log 3): a partition of a core (core × 4 + partition) issues from one of its wicks, a wick issues, the affine engine of a core
issues from the access slices there, a ray runs a microinstruction, or an indivisible step happens. -/
inductive Turn where
  | port (p : Nat)
  | issue (uid : Nat)
  | access (core : Nat)
  | micro (ray : Nat)
  | event (i : Instr)
  deriving DecidableEq, Repr

/-- Configuration the device holds (20 R394 to R396). -/
structure DeviceCfg where
  /-- AtomicOp Requester Enable (20 R396). -/
  atomReq : Bool := false
  nodeId : BitVec 8 := 0
  job : Bool := false
  boot : BitVec 4 := 0
  svn : BitVec 8 := Config.fuseSvn
  plimit : BitVec 11 := 1500
  klctl : Vector (BitVec 12) 16 := Vector.replicate 16 0
  partcfg : Vector (BitVec 25) 8 := Vector.replicate 8 0
  erbase : Word := 0
  ersize : BitVec 32 := 0
  lost : BitVec 256 := 0
  deriving DecidableEq, Repr

/-- A time in which launches or WORLDSYNCs named a world without a gap: its context and address, the first cycle, and the cycle in which the
last of them was gone (11 R230). -/
structure Naming where
  ctx : Nat
  addr : Nat
  since : Nat
  until_ : Option Nat := none
  deriving DecidableEq, Repr

/-- What an access may still find of overwritten bytes (04 R94, 05 R125, 19 R393): memory as it stood at the last step, and the bytes of
device DRAM, peers and the host overwritten since the last reset, in the order in which they were. -/
structure Older where
  seen : Memory := []
  past : List OldByte := []
  /-- When launches and WORLDSYNCs named worlds (11 R230). -/
  worlds : List Naming := []
  /-- The bytes the table stores have written, each with the cycle: no write of software. -/
  stored : List (Nat × Nat) := []
  deriving DecidableEq, Repr

/-- The device. -/
structure State where
  /-- Time since the cold reset in cycles of 600 MHz; TIMER is a sixth of it (02 R61). -/
  now : Nat := 0
  /-- Cycles of each cluster's clock, in 600ths (21 R418, R419), and what they were at the last cold or function-level reset (02 R61). -/
  cycles : Vector Nat 8 := Vector.replicate 8 0
  cycBase : Vector Nat 8 := Vector.replicate 8 0
  mem : Memory := []
  /-- The invalidations of instruction caches so far. -/
  icinvs : List ICInv := []
  tlb : List TlbEntry := []
  /-- How many free values were taken (log 2). -/
  free : Nat := 0
  cur : Actor := .nobody
  agenda : List Turn := []
  nextUid : Nat := 1
  wicks : List Wick := []
  /-- Wicks as they stood at their outstanding service call (13 R277). -/
  snaps : List Wick := []
  ctxs : List Ctx := []
  cfg : DeviceCfg := {}
  bands : List Band := []
  env : List EnvEntry := []
  conts : List ContRec := []
  /-- The order in which continuation records became final (14 R300). -/
  finals : Nat := 0
  copies : List Copy := []
  chans : List Chan := []
  quants : List Quant := []
  /-- Commands each cluster's quantisation engine has accepted, and fault records it has written. -/
  quantSeq : Vector Nat 8 := Vector.replicate 8 0
  quantFaults : Vector Nat 8 := Vector.replicate 8 0
  matrices : List Matrix := []
  flushes : List Flush := []
  /-- Tile flushes each core has accepted. -/
  flushSeq : List (Nat × Nat) := []
  texels : List Texel := []
  programs : List Program := []
  rays : List Ray := []
  verdicts : List Verdict := []
  /-- Fault records written for each ray record and each texel fetch, by source. -/
  raySeq : List (Nat × Nat) := []
  requests : List Request := []
  /-- Service calls made, and the predictor's entries by core × 64 + service (13 R276). -/
  calls : Nat := 0
  predict : List (Nat × Word) := []
  graphs : List Graph := []
  packets : List Packet := []
  /-- Completed launches that DETACH copies with CALLBACK outlast (07 R192, 13 R269). -/
  late : List Packet := []
  groups : List Group := []
  /-- The context that holds each core, or held it last (09 R207). -/
  holders : List (Nat × Nat) := []
  dies : Vector Die 4 := Vector.replicate 4 {}
  posts : List Post := []
  out : Outbox := {}
  drains : List Drain := []
  /-- Cut messages that have come: the node and the cut id (20 R408). -/
  cuts : List (Nat × Nat) := []
  errs : List ErrUnit := []
  /-- Error records by source, and those that wait for room (20 R405, R406). -/
  errSeq : List (Nat × Nat) := []
  errPend : List Nat := []
  /-- Poisoned 32-byte sectors by key, with the SEQ of the error record (20 R402). -/
  poison : List (Nat × Nat) := []
  power : Vector Power 8 := Vector.replicate 8 {}
  /-- Issues of the last 16 cycles by partition of a core: core × 4 + partition, and the cycle (21 R418). -/
  issues : List (Nat × Nat) := []
  /-- THROTTLE records by domain (21 R418). -/
  domSeq : Vector (BitVec 32) 12 := Vector.replicate 12 0
  /-- Fault records each die's table store engine has written. -/
  storeSeq : List (Nat × Nat) := []
  /-- RETMASK: the cores of each cluster that are retired (20 R404). -/
  retired : Vector (BitVec 64) 8 := Vector.replicate 8 0
  older : Older := {}
  deriving DecidableEq, Repr

/-- The machine right after a cold reset. -/
def State.reset : State := {}

end Sys2Proof.Machine
end

