-- ==== Sys2Proof/Machine/Mem.lean ====
section
/-! DEFINITION. Reading and writing bytes, and the places of the spaces in the one list of cells (spec/04_memory_and_ordering.md
R87 to R95, spec/17_translation_and_faults.md R349). -/

namespace Sys2Proof.Machine

/-! ### Cells -/

/-- The byte at a key. -/
def Memory.get : Memory → Nat → Byte
  | [], _ => emptyByte
  | (a, b) :: m, k => if a = k then b else if k < a then emptyByte else Memory.get m k

/-- The byte at a key written; the value an unlisted address reads as removes the entry. -/
def Memory.set : Memory → Nat → Byte → Memory
  | [], k, v => if v = emptyByte then [] else [(k, v)]
  | (a, b) :: m, k, v =>
    if a = k then (if v = emptyByte then m else (k, v) :: m)
    else if k < a then (if v = emptyByte then (a, b) :: m else (k, v) :: (a, b) :: m)
    else (a, b) :: Memory.set m k v

/-- n bytes from a key, lowest first. -/
def Memory.bytes (m : Memory) (k : Nat) : Nat → List Byte
  | 0 => []
  | n + 1 => m.get k :: m.bytes (k + 1) n

/-- The little-endian value of n bytes from a key (00 R6). -/
def Memory.read (m : Memory) (k n : Nat) : Nat := leVal (m.bytes k n)

/-- Bytes written from a key on. -/
def Memory.put (m : Memory) (k : Nat) : List Byte → Memory
  | [] => m
  | b :: bs => (m.set k b).put (k + 1) bs

/-- The low n bytes of v written little-endian (00 R6). -/
def Memory.write (m : Memory) (k n v : Nat) : Memory := m.put k (leBytes n v)

/-- n bytes from a key made zero. -/
def Memory.clear (m : Memory) (k n : Nat) : Memory := m.put k (List.replicate n 0)

/-- n bytes from a key back to what an unlisted address reads as, which is zero. -/
def Memory.wipe (m : Memory) (k n : Nat) : Memory := m.filter (fun (a, _) => decide (a < k) || decide (k + n ≤ a))

/-- The listed bytes among n from a key. -/
def Memory.slice (m : Memory) (k n : Nat) : List Host.Cell := m.filter (fun (a, _) => decide (k ≤ a) && decide (a < k + n))

/-- n bytes from a key of another memory put at a key of this one. -/
def Memory.carry (src : Memory) (k goesTo n : Nat) (m : Memory) : Memory :=
  ((src.slice k n).map (fun (a, b) => (goesTo + (a - k), b))).foldl (fun m (c : Host.Cell) => m.set c.1 c.2) (m.wipe goesTo n)

/-- The bytes that an older memory reads otherwise than a newer one, with their older values; both in canonical form. The number bounds
how many entries are looked at. -/
def Memory.changed : Nat → Memory → Memory → List Host.Cell
  | 0, _, _ => []
  | _ + 1, [], new => new.map (fun (k, _) => (k, emptyByte))
  | _ + 1, old, [] => old
  | n + 1, (a, x) :: old, (b, y) :: new =>
    if a = b then
      if x = y then Memory.changed n old new else (a, x) :: Memory.changed n old new
    else if a < b then (a, x) :: Memory.changed n old ((b, y) :: new)
    else (b, emptyByte) :: Memory.changed n ((a, x) :: old) new

/-- Overwritten bytes put back where a free choice takes the old value, a choice for each; n is the count of free values taken. -/
def Memory.putBack (n : Nat) : Nat → List Host.Cell → Memory → Memory
  | _, [], m => m
  | j, (k, b) :: l, m => Memory.putBack n (j + 1) l (if Config.oldByte n j then m.set k b else m)

/-- Memory as it stood, each byte as of the cycle its key is read as of, given the bytes overwritten since, in order. -/
def Memory.asOf (m : Memory) (past : List OldByte) (time : Nat → Nat) : Memory :=
  past.foldr (fun x m => if time x.key ≤ x.time then m.set x.key x.byte else m) m

/-! ### Keys -/

/-- Device DRAM by physical address. -/
def keyLocal (pa : Nat) : Nat := pa % 2 ^ 64
/-- A peer's device memory, by the physical address that names its node (17 R349). -/
def keyPeer (pa : Nat) : Nat := 2 ^ 64 + pa % 2 ^ 64
/-- Host memory, one space for both port modes (17 R349). -/
def keyHost (pa : Nat) : Nat := 2 * 2 ^ 64 + pa % 2 ^ 64
/-- A byte of the AB of a core of the device (04 R95). -/
def keyAb (core off : Nat) : Nat := 3 * 2 ^ 64 + core * 2 ^ 20 + off % 2 ^ 20
/-- A byte of the CB of a core of the device. -/
def keyCb (core off : Nat) : Nat := 4 * 2 ^ 64 + core * 2 ^ 18 + off % 2 ^ 18
/-- A byte of the WB of a core of the device. -/
def keyWb (core off : Nat) : Nat := 5 * 2 ^ 64 + core * 2 ^ 23 + off % 2 ^ 23

/-- A byte of the control region's command windows (19 R368). -/
def keyCtl (off : Nat) : Nat := 6 * 2 ^ 64 + off

/-- A physical address of a leaf with this HOME (17 R349), as a context with this PASID reaches it: the host port presents the address with
the PASID, and the host's IOMMU translates it (20 R396). -/
def keyOf (pasid : BitVec 20) (home : BitVec 2) (pa : Nat) : Nat :=
  match home.toNat with
  | 0 => keyLocal pa
  | 1 => keyPeer pa
  | _ => keyHost ((Config.hostPage pasid (pa / 2 ^ 19)).toNat * 2 ^ 19 + pa % 2 ^ 19)

/-- The core of the device from its physical cluster and its index in the cluster (00 R1). -/
def coreKey (cluster core : Nat) : Nat := cluster * 64 + core

end Sys2Proof.Machine
end

