-- ==== Sys2Proof/Machine/Xlate.lean ====
section
/-! DEFINITION. Address translation: the page tables, the walk and its checks, cached translations and translation registers
(spec/17_translation_and_faults.md R347 to R354, R361, R365; spec/04_memory_and_ordering.md R89, R98). -/

namespace Sys2Proof.Machine

/-! ### Contexts and free values -/

def State.findCtx (s : State) (c : Nat) : Option Ctx := s.ctxs.find? (fun x => x.id == c)

def State.modCtx (s : State) (c : Nat) (f : Ctx → Ctx) : State :=
  { s with ctxs := modFirst (fun x => x.id == c) f s.ctxs }

/-- A context register by its number (16 R329); zero for a context that is not installed. -/
def State.ctxReg (s : State) (c n : Nat) : Nat :=
  match s.findCtx c with
  | some x => (x.regs[n]?.getD 0).toNat
  | none => 0

/-- The unit of the agent that moves, when it belongs to a cluster. -/
def State.unit (s : State) : Option Unit_ :=
  match s.cur with
  | .wick uid _ => (s.wicks.find? (fun w => w.info.uid == uid)).map (fun w => ⟨w.info.cluster, some w.info.core⟩)
  | .ray id => (s.rays.find? (fun r => r.id == id)).map (fun r => ⟨r.cluster, some r.core⟩)
  | .unit u => some u
  | .nobody => none

/-- An engine of a unit moves. -/
def State.by_ (s : State) (u : Unit_) : State := { s with cur := .unit u }

/-- A scope takes in a unit: that cluster's agents, or those of one core of it. -/
def Unit_.has (scope u : Unit_) : Bool := scope.cluster == u.cluster && (scope.core.isNone || scope.core == u.core)

/-- The next free value (log 2). -/
def State.fresh (s : State) : Nat × State := ((Config.freeValue s.free).toNat, { s with free := s.free + 1 })

/-- The partition of a context. -/
def State.partOf (s : State) (c : Nat) : Nat :=
  match s.findCtx c with
  | some x => x.part
  | none => 0

/-- The PASID of a context. -/
def State.pasidOf (s : State) (c : Nat) : BitVec 20 :=
  match s.findCtx c with
  | some x => x.pasid
  | none => 0

/-! ### Links (20 R394, R397, R398) -/

/-- A port's control: EN, GEN, STATE, PEER. -/
def State.port (s : State) (n : Nat) : BitVec 12 := s.cfg.klctl[n]?.getD 0
def portEn (k : BitVec 12) : Bool := k.getLsbD 0
def portGen (k : BitVec 12) : Bool := k.getLsbD 1
def portState (k : BitVec 12) : Nat := (k.extractLsb' 2 2).toNat
def portPeer (k : BitVec 12) : BitVec 8 := k.extractLsb' 4 8

/-- The nodes at the far ends of ports in STATE 2. -/
def State.neighbours (s : State) : List (BitVec 8) := ((s.cfg.klctl.toList.filter (fun k => portState k == 2)).map portPeer).eraseDups

/-- A node reached over links in STATE 2, directly or through what a neighbour forwards to. -/
def State.reaches (s : State) (n : Nat) : Bool := s.neighbours.any (fun p => p.toNat == n || (Config.forwards p).getLsbD n)

/-- The first physical byte of a partition's device DRAM, and the byte after its last (20 R400). -/
def State.dram (s : State) (part : Nat) : Nat × Nat :=
  let r : BitVec 25 := s.cfg.partcfg[part]?.getD 0
  let lo := (r.extractLsb' 8 8).toNat * 2 ^ 30
  (lo, lo + (r.extractLsb' 16 9).toNat * 2 ^ 30)

/-! ### Tables -/

/-- Bits of the index of a level and where it starts in the address (17 R347). -/
def levelShift : Nat → Nat
  | 3 => 44 | 2 => 31 | 1 => 25 | _ => 19

/-- Bits of the index of a level (17 R347). -/
def levelBits (l : Nat) : Nat := if l ≥ 2 then 13 else 6

/-- The index of a level in an address. -/
def levelIndex (va l : Nat) : Nat := fld va (levelShift l) (levelBits l)

/-- The size of the page a leaf at this level maps (17 R351). -/
def leafSize (l : Nat) : Nat := 2 ^ levelShift l

/-- Bytes of a table of this level (17 R347). -/
def tableSize (l : Nat) : Nat := 8 * 2 ^ levelBits l

/-- 17 R350. -/
def entryMalformed (e l : Nat) : Bool :=
  if e.testBit 63 then
    fld e 15 4 != 0 || fld e 52 11 != 0 || fld e 6 2 == 3 || fld e 10 2 == 3 || l == 3
      || (fld e 19 33 * 2 ^ 19) % leafSize l != 0
  else
    fld e 1 8 != 0 || fld e 52 11 != 0 || l == 0 || (l != 0 && (fld e 9 43 * 2 ^ 9) % tableSize (l - 1) != 0)

/-- Where a walk ends: level, the entry as read, and the entry's own physical address. -/
structure Walk where
  lvl : Nat
  entry : Nat
  ent : Nat
  deriving DecidableEq, Repr

/-- A translation that fails: reason (17 R363), level, entry as read, cause (16 R326). -/
structure PFault where
  reason : Nat
  lvl : Nat
  entry : Nat
  cause : Nat
  deriving DecidableEq, Repr

/-- The walk of 17 R351 from a table at a level; fuel is one more than the level. A table that does not lie in the partition's device
DRAM is malformed (log 112). -/
def walkFrom (m : Memory) (dram : Nat × Nat) (va table : Nat) : Nat → Except PFault Walk
  | 0 => .error ⟨1, 0, 0, 0x28⟩
  | l + 1 =>
    let ent := table + 8 * levelIndex va l
    if !(decide (dram.1 ≤ ent) && decide (ent + 8 ≤ dram.2)) then .error ⟨1, l, 0, 0x28⟩
    else
      let e := m.read (keyLocal ent) 8
      if e.testBit 0 = false then .error ⟨0, l, e, 0x28⟩
      else if entryMalformed e l then .error ⟨1, l, e, 0x28⟩
      else if e.testBit 63 then .ok ⟨l, e, ent⟩
      else walkFrom m dram va (fld e 9 43 * 2 ^ 9) l

/-- The walk of a global address from PTROOT (17 R351), the tables in this device DRAM. -/
def walk (m : Memory) (dram : Nat × Nat) (root va : Nat) : Except PFault Walk := walkFrom m dram va root 4

/-- What an access asks of a page: 0 read, 1 write, 2 atomic, 3 fetch; its scope code; its operation code (07 R173). -/
structure AccKind where
  kind : Nat
  scope : Nat := 0
  aop : Nat := 0
  deriving DecidableEq, Repr

/-- The operations a host path carries: add, exchange and compare (17 R365). -/
def hostAtomic (aop : Nat) : Bool := aop == 0x00 || aop == 0x08 || aop == 0x0E

/-- 17 R365, R366: the reason an atomic fails, if it does; the Ocris performs none by another path without the record of the failure. -/
def atomCheck (req : Bool) (k : AccKind) (e : Nat) : Option Nat :=
  let cls := fld e 6 2
  if cls == 2 || (cls == 1 && k.scope == 5) then some 8
  else if cls == 0 && fld e 8 2 ≥ 2 && !(hostAtomic k.aop && req) then some 9
  else none

/-- The checks of 17 R351 on a leaf, the first failure deciding; sl is single-lane mode, where the user bit is ignored. -/
def leafCheck (req sl : Bool) (k : AccKind) (w : Walk) : Option PFault :=
  let e := w.entry
  if !sl && !e.testBit 4 then some ⟨5, w.lvl, e, 0x28⟩
  else if (k.kind == 0 || k.kind == 2) && !e.testBit 1 then some ⟨2, w.lvl, e, 0x28⟩
  else if k.kind == 3 && !e.testBit 3 then some ⟨4, w.lvl, e, 0x28⟩
  else if (k.kind == 1 || k.kind == 2) && !e.testBit 2 then some ⟨3, w.lvl, e, 0x28⟩
  else if e.testBit 14 then some ⟨6, w.lvl, e, 0x28⟩
  else if k.kind == 2 then (atomCheck req k e).map (fun r => ⟨r, w.lvl, e, 0x2A⟩)
  else none

/-- What the device finds wrong with the home of a leaf: a local page outside the partition's memory is malformed (20 R400), and a
page of a node that is lost, or that no link in STATE 2 reaches, is not present (20 R397, R410). -/
def State.homeFault (s : State) (c : Nat) (w : Walk) : Option PFault :=
  let base := fld w.entry 19 33 * 2 ^ 19
  match fld w.entry 8 2 with
  | 0 =>
    let (lo, hi) := s.dram (s.partOf c)
    if lo ≤ base ∧ base + leafSize w.lvl ≤ hi then none else some ⟨1, w.lvl, w.entry, 0x28⟩
  | 1 => if s.cfg.lost.getLsbD (fld w.entry 44 8) || !s.reaches (fld w.entry 44 8) then some ⟨0, w.lvl, w.entry, 0x28⟩ else none
  | _ => none

/-- What stops the use of a leaf: its home, then its access bits. -/
def State.leafFault (s : State) (c : Nat) (sl : Bool) (k : AccKind) (w : Walk) : Option PFault :=
  (s.homeFault c w).orElse (fun _ => leafCheck s.cfg.atomReq sl k w)

/-- The physical address a leaf gives (17 R351). -/
def leafPa (w : Walk) (va : Nat) : Nat := fld w.entry 19 33 * 2 ^ 19 / leafSize w.lvl * leafSize w.lvl + va % leafSize w.lvl

/-- The key of the byte a leaf gives. -/
def leafKey (pasid : BitVec 20) (w : Walk) (va : Nat) : Nat := keyOf pasid (BitVec.ofNat 2 (fld w.entry 8 2)) (leafPa w va)

/-- An entry without its A and D bits. -/
def entryStable (e : Nat) : Nat := setFld e 12 2 0

/-- The walk of a context's tables (17 R351), which lie in its partition's device DRAM (17 R347, 20 R400). -/
def State.walkOf (s : State) (c va : Nat) : Except PFault Walk := walk s.mem (s.dram (s.partOf c)) (s.ctxReg c 0x11) va

/-- The address lies in the page that the cached leaf maps, or would map (17 R351). -/
def TlbEntry.maps (t : TlbEntry) (va : Nat) : Bool := t.vpage * 2 ^ 19 / leafSize t.lvl == va / leafSize t.lvl

/-- A TLBINV of this range and scope took the 512 KiB page of an address from a unit (16 R345). -/
def TlbCut.cuts (d : TlbCut) (u : Option Unit_) (va : Nat) : Bool :=
  let page := va / 2 ^ 19 * 2 ^ 19
  decide (max d.lo page < min d.hi (page + 2 ^ 19)) && (match d.unit, u with
    | none, _ => true
    | some x, some u => x.has u
    | some _, none => false)

/-- A cached translation that no TLBINV took from the unit that moves, for this address. -/
def State.serves (s : State) (t : TlbEntry) (va : Nat) : Bool := t.dead.all (fun d => !d.cuts s.unit va)

/-- The cached translations that may serve this address for the unit that moves (17 R352). -/
def tlbFor (s : State) (c va : Nat) : List TlbEntry :=
  s.tlb.filter (fun t => t.maps va && (t.ctx == c || (t.entry.testBit 5 && s.partOf t.ctx == s.partOf c)) && s.serves t va)

/-- The free choice of one cached translation for a page: it depends on what the entry maps, and not on what else is cached, so the accesses
of one step to one page choose alike (04 R102). -/
def State.picks (s : State) (t : TlbEntry) (va : Nat) : Bool :=
  Config.stalePick s.free (va / 2 ^ 19) (entryStable t.entry + at_ (t.ent * 4 + t.lvl) 64)

/-- The entry a translation uses, whole: the tables' own, or, unpredictably, a cached one that differs (17 R352). -/
def pickWalk (s : State) (c va : Nat) : Except PFault Walk :=
  let new := s.walkOf c va
  let differs (t : TlbEntry) : Bool := match new with
    | .ok w => t.lvl != w.lvl || t.entry != w.entry || t.ent != w.ent
    | .error _ => true
  match (tlbFor s c va).find? (fun t => differs t && s.picks t va) with
  | some t => .ok ⟨t.lvl, t.entry, t.ent⟩
  | none => new

/-- The bits a use of a leaf sets: A, and D on a write or an atomic (17 R351). -/
def leafBits (k : AccKind) : Nat := if k.kind == 1 || k.kind == 2 then 0x3000 else 0x1000

/-- The translation is cached beside the others of the page, in place of the same one that no TLBINV has touched. -/
def cacheWalk (s : State) (c va : Nat) (w : Walk) : State :=
  let same (t : TlbEntry) : Bool :=
    t.ctx == c && t.maps va && t.lvl == w.lvl && t.ent == w.ent && entryStable t.entry == entryStable w.entry && t.dead.isEmpty
  { s with tlb := if s.tlb.any same then modFirst same (fun t => { t with entry := w.entry }) s.tlb
                  else s.tlb ++ [⟨c, va / 2 ^ 19, w.lvl, w.entry, w.ent, []⟩] }

/-- The entry a walk read is still the one in memory, as far as a use needs: valid, with the same address. -/
def State.entryThere (s : State) (w : Walk) : Bool :=
  (s.mem.read (keyLocal w.ent) 8).testBit 0 && fld (s.mem.read (keyLocal w.ent) 8) 19 33 == fld w.entry 19 33

/-- Bits of the entry set by an OR in memory, and the translation cached with them. -/
def markUsed (s : State) (c va : Nat) (w : Walk) (bits : Nat) : State :=
  cacheWalk { s with mem := s.mem.write (keyLocal w.ent) 8 (s.mem.read (keyLocal w.ent) 8 ||| bits) } c va { w with entry := w.entry ||| bits }

/-- Sets A and D as the use asks, by an OR on the entry; an entry that has changed under a cached use is walked again (17 R351). The answer
is the leaf used. -/
def useWalk (s : State) (c : Nat) (sl : Bool) (k : AccKind) (va : Nat) (w : Walk) : Except PFault Walk × State :=
  match s.leafFault c sl k w with
  | some f => (.error f, s)
  | none =>
    if w.entry &&& leafBits k = leafBits k then (.ok w, cacheWalk s c va w)
    else if s.entryThere w then (.ok w, markUsed s c va w (leafBits k))
    else
      match s.walkOf c va with
      | .error f => (.error f, s)
      | .ok w2 =>
        match s.leafFault c sl k w2 with
        | some f => (.error f, s)
        | none => (.ok w2, markUsed s c va w2 (leafBits k))

/-- The leaf an access of one address of a context uses (17 R351, R352). -/
def xlateWalk (s : State) (c : Nat) (sl : Bool) (k : AccKind) (va : Nat) : Except PFault Walk × State :=
  match pickWalk s c va with
  | .error f => (.error f, s)
  | .ok w => useWalk s c sl k va w

/-- The translation of one address of a context (17 R351). -/
def xlate (s : State) (c : Nat) (sl : Bool) (k : AccKind) (va : Nat) : Except PFault Nat × State :=
  match xlateWalk s c sl k va with
  | (.error f, s') => (.error f, s')
  | (.ok w, s') => (.ok (leafKey (s.pasidOf c) w va), s')

/-- Whether an access would now translate and pass its checks; changes nothing (17 R358). -/
def wouldXlate (s : State) (c : Nat) (sl : Bool) (k : AccKind) (va : Nat) : Option PFault :=
  match s.walkOf c va with
  | .error f => some f
  | .ok w => s.leafFault c sl k w

/-! ### Ranges -/

/-- A range of bytes cut at the 512 KiB page boundaries: (address, length), fuel pages at most. -/
def pageCuts : Nat → Nat → Nat → List (Nat × Nat)
  | 0, _, _ => []
  | fuel + 1, va, len =>
    if len = 0 then []
    else
      let n := min len (2 ^ 19 - va % 2 ^ 19)
      (va, n) :: pageCuts fuel (va + n) (len - n)

/-- The pieces of a range, each in one page. -/
def pages (va len : Nat) : List (Nat × Nat) := pageCuts (len / 2 ^ 19 + 2) va len

/-- A translated range: keys with lengths, or the first address that fails. -/
def xlatePieces (s : State) (c : Nat) (sl : Bool) (k : AccKind) : List (Nat × Nat) → Except (Nat × PFault) (List (Nat × Nat)) × State
  | [] => (.ok [], s)
  | (va, n) :: rest =>
    match xlate s c sl k va with
    | (.error f, s') => (.error (va, f), s')
    | (.ok key, s') =>
      match xlatePieces s' c sl k rest with
      | (.error e, s2) => (.error e, s2)
      | (.ok l, s2) => (.ok ((key, n) :: l), s2)

/-- The bytes at translated pieces. -/
def readPieces (m : Memory) : List (Nat × Nat) → List Byte
  | [] => []
  | (k, n) :: l => m.bytes k n ++ readPieces m l

/-- Bytes written to translated pieces. -/
def writePieces (m : Memory) : List (Nat × Nat) → List Byte → Memory
  | [], _ => m
  | (k, n) :: l, bs => writePieces (m.put k (bs.take n)) l (bs.drop n)

/-- Cells of a store: pieces with the low bytes of a value. -/
def cellsOf : List (Nat × Nat) → List Byte → List Host.Cell
  | [], _ => []
  | (k, n) :: l, bs => ((List.range n).zip bs).map (fun (j, b) => (k + j, b)) ++ cellsOf l (bs.drop n)

/-- What is kept of overwritten bytes after a store. Once a world has been named, a store of the value that stands there joins them as well:
it too is a write of the byte (11 R230). -/
def State.noted (s : State) (cs : List Host.Cell) : Older :=
  if s.older.worlds.isEmpty then s.older
  else { s.older with
    past := s.older.past ++ (cs.filter (fun (k, b) => s.mem.get k == b && decide (k < keyAb 0 0))).map (fun (k, b) => ⟨k, b, s.now, s.unit⟩) }

/-- Bytes stored. -/
def State.storeCells (s : State) (cs : List Host.Cell) : State :=
  { s with mem := cs.foldl (fun m (k, b) => m.set k b) s.mem, older := s.noted cs }

/-- The low bytes of a value stored at translated pieces. -/
def State.storePieces (s : State) (ps : List (Nat × Nat)) (bs : List Byte) : State := s.storeCells (cellsOf ps bs)

/-- A read by the Ocris on its own account in a context's global space, the user bit ignored (17 R423). -/
def State.ctxRead (s : State) (c va len : Nat) : Except (Nat × PFault) Nat × State :=
  match xlatePieces s c true ⟨0, 0, 0⟩ (pages va len) with
  | (.error e, s') => (.error e, s'.fresh.2)
  | (.ok l, s') => (.ok (leVal (readPieces s'.mem l)), s'.fresh.2)

/-- A write by the Ocris on its own account in a context's global space (17 R423). -/
def State.ctxWrite (s : State) (c va len v : Nat) : Except (Nat × PFault) State :=
  match xlatePieces s c true ⟨1, 0, 0⟩ (pages va len) with
  | (.error e, _) => .error e
  | (.ok l, s') => .ok (s'.storePieces l (leBytes len v))

/-! ### Translation registers -/

/-- The key a translation register gives a byte, when it covers it and its permissions allow the access (04 R98). -/
def txKey (pasid : BitVec 20) (t : Tx) (k : AccKind) (va : Nat) : Option Nat :=
  let ok := match k.kind with
    | 0 => t.rd
    | 1 => t.wr
    | 2 => t.rd && t.wr && t.atom
    | _ => false
  if t.valid && ok && decide (t.vbase.toNat ≤ va) && decide (va - t.vbase.toNat < t.limit.toNat) then
    some (keyOf pasid t.home (t.pbase.toNat + (va - t.vbase.toNat)))
  else none

/-- A range through a translation register: the bytes it covers by the register, the others by the tables (04 R98). -/
def xlateTx (s : State) (c : Nat) (sl : Bool) (k : AccKind) (t : Tx) : List (Nat × Nat) → Except (Nat × PFault) (List (Nat × Nat)) × State
  | [] => (.ok [], s)
  | (va, n) :: rest =>
    let inside := (List.range n).filterMap (fun j => txKey (s.pasidOf c) t k (va + j))
    let go (l0 : List (Nat × Nat)) (s0 : State) : Except (Nat × PFault) (List (Nat × Nat)) × State :=
      match xlateTx s0 c sl k t rest with
      | (.error e, s2) => (.error e, s2)
      | (.ok l, s2) => (.ok (l0 ++ l), s2)
    if inside.length = n then go (inside.map (fun key => (key, 1))) s
    else if inside.isEmpty then
      match xlate s c sl k va with
      | (.error f, s') => (.error (va, f), s')
      | (.ok key, s') => go [(key, n)] s'
    else
      let step (acc : Except (Nat × PFault) (List (Nat × Nat)) × State) (j : Nat) : Except (Nat × PFault) (List (Nat × Nat)) × State :=
        match acc with
        | (.error e, s0) => (.error e, s0)
        | (.ok l, s0) =>
          match txKey (s.pasidOf c) t k (va + j) with
          | some key => (.ok (l ++ [(key, 1)]), s0)
          | none =>
            match xlate s0 c sl k (va + j) with
            | (.error f, s') => (.error (va + j, f), s')
            | (.ok key, s') => (.ok (l ++ [(key, 1)]), s')
      match (List.range n).foldl step (.ok [], s) with
      | (.error e, s') => (.error e, s')
      | (.ok l0, s') => go l0 s'

end Sys2Proof.Machine
end

