-- ==== Sys2Proof/Machine/Ops.lean ====
section
/-! DEFINITION. The named operations over a wick: its registers (spec/02_registers_and_operands.md), the faults it records
(spec/17_translation_and_faults.md R355 to R364), taking a trap and entering single-lane mode
(spec/16_privileged_state_and_preemption.md R324 to R328), and the transfer of control (spec/05_encoding_and_assembly.md R120, R121). -/

namespace Sys2Proof.Machine

/-! ### Finding wicks and bands -/

def State.findWick (s : State) (uid : Nat) : Option Wick := s.wicks.find? (fun w => w.info.uid == uid)

/-- The wick of this uid replaced. -/
def State.putWick (s : State) (w : Wick) : State :=
  { s with wicks := modFirst (fun x => x.info.uid == w.info.uid) (fun _ => w) s.wicks }

def State.modWick (s : State) (uid : Nat) (f : Wick → Wick) : State :=
  { s with wicks := modFirst (fun x => x.info.uid == uid) f s.wicks }

def State.findBand (s : State) (b : Nat) : Option Band := s.bands.find? (fun x => x.uid == b)

def State.modBand (s : State) (b : Nat) (f : Band → Band) : State :=
  { s with bands := modFirst (fun x => x.uid == b) f s.bands }

/-- WICKID (02 R64). -/
def WickInfo.wickId (i : WickInfo) : Nat := i.slot % 16 + i.part % 4 * 2 ^ 4 + i.core % 64 * 2 ^ 6 + i.cluster % 8 * 2 ^ 12

/-- LOC (01 R37). -/
def WickInfo.loc (i : WickInfo) : Nat := i.core % 64 + i.cluster % 8 * 2 ^ 6 + i.part % 4 * 2 ^ 9

/-- The core of the device a wick runs on. -/
def WickInfo.coreId (i : WickInfo) : Nat := coreKey i.cluster i.core

/-- TIMER (02 R61): 100 MHz against 600 MHz. -/
def State.timer (s : State) : Nat := s.now / 6

/-- Core cycles of a cluster: its own clock's, which the power manager may lower (00 R9, 21 R419, log 117). -/
def State.clock (s : State) (cluster : Nat) : Nat := s.cycles[cluster]?.getD 0 / 600

/-! ### Registers -/

def Wick.frag (w : Wick) (f : Nat) : Frag := w.frags[f]?.getD {}

def Wick.modFrag (w : Wick) (f : Nat) (g : Frag → Frag) : Wick := { w with frags := w.frags.setIfInBounds f (g (w.frag f)) }

/-- s[n] as fragment f has it (02 R47). -/
def Wick.rdS (w : Wick) (f n : Nat) : Word :=
  if n < 44 then w.regs.s[n]?.getD 0
  else if n < 60 then (w.frag f).own[n - 44]?.getD 0
  else w.trap.s[n - 60]?.getD 0

/-- s[n] written (02 R47). -/
def Wick.wrS (w : Wick) (f n : Nat) (x : Word) : Wick :=
  if n < 44 then { w with regs := { w.regs with s := w.regs.s.setIfInBounds n x } }
  else if n < 60 then w.modFrag f (fun g => { g with own := g.own.setIfInBounds (n - 44) x })
  else { w with trap := { w.trap with s := w.trap.s.setIfInBounds (n - 60) x } }

/-- q[n]; q15 reads true (02 R47). -/
def Wick.rdQ (w : Wick) (f n : Nat) : Bool := n == 15 || (w.frag f).qv.getLsbD n

/-- q[n] written; a write to q15 has no effect (02 R49). -/
def Wick.wrQ (w : Wick) (f n : Nat) (x : Bool) : Wick :=
  if n < 15 then
    w.modFrag f (fun g => { g with qv := if x then g.qv ||| BitVec.ofNat 15 (2 ^ n) else g.qv &&& ~~~ BitVec.ofNat 15 (2 ^ n) })
  else w

/-- p[n]; p15 reads all ones (02 R47). -/
def Wick.rdP (w : Wick) (n : Nat) : Mask := if n < 15 then w.regs.p[n]?.getD 0 else fullMask

/-- The active lanes of p[n] written; a write to p15 has no effect (02 R49, 01 R25). -/
def Wick.wrP (w : Wick) (n : Nat) (act x : Mask) : Wick :=
  if n < 15 then { w with regs := { w.regs with p := w.regs.p.setIfInBounds n ((w.rdP n &&& ~~~ act) ||| (x &&& act)) } }
  else w

def Wick.rdK (w : Wick) (n : Nat) : Word := w.regs.k[n]?.getD 0

def Wick.wrK (w : Wick) (n : Nat) (x : Word) : Wick := { w with regs := { w.regs with k := w.regs.k.setIfInBounds n x } }

/-- The value of lane i (02 R52). -/
def VReg.lane (r : VReg) (i : Nat) : Lane :=
  match r with
  | .u v => v
  | .a b st => b + BitVec.ofNat 32 i * st
  | .g l => l[i]?.getD 0

/-- The general register with these lanes. -/
def VReg.ofLanes (f : Nat → Lane) : VReg := .g (Vector.ofFn (fun i : Fin 32 => f i.val))

/-- The shape code (02 R52). -/
def VReg.tag : VReg → Nat
  | .u _ => 0 | .a _ _ => 1 | .g _ => 2

def VReg.isU : VReg → Bool
  | .u _ => true
  | _ => false

def VReg.isG : VReg → Bool
  | .g _ => true
  | _ => false

/-- v[n]: a port reads the head of its queue (02 R60). -/
def Wick.rdV (w : Wick) (n : Nat) : VReg :=
  if n < 248 then w.regs.v[n]?.getD (.u 0)
  else if n < 252 then
    match (w.books.qp[n - 248]?.getD []).head? with
    | some e => .g e.lanes
    | none => .u 0
  else w.trap.v[n - 252]?.getD (.u 0)

/-- v[n] replaced whole, whatever it held. -/
def Wick.putV (w : Wick) (n : Nat) (r : VReg) : Wick :=
  if n < 248 then { w with regs := { w.regs with v := w.regs.v.setIfInBounds n r } }
  else if n < 252 then w
  else { w with trap := { w.trap with v := w.trap.v.setIfInBounds (n - 252) r } }

/-- What a register holds after a write of r by these active lanes under this live mask (02 R54): a whole write of U or A
takes the result's compact form, any other write merges the active lanes. A whole write of G leaves the lanes outside the live mask as they
were: R54 says no more of them than that they are never used again (log 106). -/
def VReg.merge (live act : Mask) (old r : VReg) : VReg :=
  if act = 0 then old
  else if act = live && !r.isG then r
  else VReg.ofLanes (fun i => if act.getLsbD i then r.lane i else old.lane i)

/-- v[n] written under an active mask (02 R54). -/
def Wick.wrV (w : Wick) (live act : Mask) (n : Nat) (r : VReg) : Wick := w.putV n (VReg.merge live act (w.rdV n) r)

/-- A register of the affine unit (02 R47). -/
def narrow (n : Nat) : Bool := 128 ≤ n && n < 248

/-- 02 R55: a write of r to v[n] is a shape fault. -/
def shapeBad (live act : Mask) (n : Nat) (r : VReg) : Bool := narrow n && act != 0 && (r.isG || act != live)

/-! ### The context of an issue -/

/-- What an instruction issues under: the wick's fragment, its PC, single-lane mode, the lane mask, the active mask and the
live mask (01 R13, 02 R54, 16 R325). -/
structure Cx where
  uid : Nat
  f : Nat
  pc : Word
  sl : Bool
  mask : Mask
  act : Mask
  live : Mask
  deriving DecidableEq, Repr

/-- The outcome of a meaning, before the PC moves. -/
inductive Eff where
  /-- Done: the PC moves to the sequential successor. -/
  | next (s : State)
  /-- Done: the PC moves to this address. -/
  | jump (s : State) (pc : Word)
  /-- Done: the meaning has set the PCs itself. -/
  | stay (s : State)
  | trap (t : TrapInfo)
  /-- Nothing happens: the instruction waits, and the wait counts under this stall counter (21 R417). -/
  | wait (why : Nat)
  /-- Lanes have faulted (17 R355): done lanes have written back in s, and the faulting ones are (lane, address, failure). -/
  | fault (s : State) (done : Mask) (bad : List (Nat × Nat × PFault)) (kind : AccKind) (foot : List (Nat × Nat × Nat)) (whole : Bool)
  /-- The fetch of the line at this address fails (17 R357). -/
  | fetchFault (s : State) (va : Nat) (p : PFault)

/-- The sequential successor (05 R120). -/
def pcNext (pc : Word) : Word := if pc.toNat % 64 = 48 then pc + 16 else pc + 12

/-- A PC that comes from a register (05 R120). -/
def pcForm (pc : Word) : Bool :=
  let j := pc.toNat % 64
  (j == 0 || j == 12 || j == 24 || j == 36 || j == 48) && decide (pc.toNat < 2 ^ 57)

/-- The slot of a PC. -/
def pcSlot (pc : Word) : Nat := pc.toNat % 64 / 12

/-- The address of the line of a PC. -/
def pcLine (pc : Word) : Nat := pc.toNat / 64 * 64

/-! ### Fetching a line -/

/-- An invalidation puts an end to the use of an older byte of a line of this context by a core (05 R125, 07 R177): it came after the write,
covers the line in that core's cache, and its scope takes in the writer. Log 102. -/
def ICInv.ends (v : ICInv) (core c addr : Nat) (x : OldByte) : Bool :=
  decide (x.time ≤ v.time)
    && (match v.range with
      | none => true
      | some (c', lo, hi) => c' == c && decide (lo < addr + 64) && decide (addr < hi))
    && (decide (3 ≤ v.scope) || v.by_.has ⟨core / 64, some (core % 64)⟩)
    && (match x.by_ with
      | some u => decide (3 ≤ v.scope) || v.by_.has u
      | none => decide (5 ≤ v.scope))

/-- The first cycle as of which a core may fetch the line of 64 bytes at a key: the cycle after the last write that an invalidation ends. -/
def lineSince (s : State) (core c addr key : Nat) : Nat :=
  ((s.older.past.filter (fun x => decide (key ≤ x.key) && decide (x.key < key + 64) && s.icinvs.any (fun v => v.ends core c addr x))).map
    (fun x => x.time + 1)).foldl max 0

/-- The 64 bytes at a key as a core fetches them: as they stand, or, unpredictably, whole as they stood since the last write that an
invalidation ends (05 R125). -/
def lineAt (s : State) (core c addr key : Nat) : Nat :=
  let lo := lineSince s core c addr key
  let t := lo + Config.oldTime s.free key % (s.now + 2 - lo)
  (s.mem.asOf (s.older.past.filter (fun x => decide (key ≤ x.key) && decide (x.key < key + 64))) (fun _ => t)).read key 64

/-- The line at an address as a core fetches it. -/
def fetchLine (s : State) (core c : Nat) (sl : Bool) (addr : Nat) : Except PFault Nat × State :=
  match xlate s c sl ⟨3, 0, 0⟩ addr with
  | (.error f, s') => (.error f, s')
  | (.ok key, s') => (.ok (lineAt s' core c addr key), s')

/-- The line a fragment, or single-lane mode, executes: it holds the line it fetched through the sequential slots of it (05 R125). -/
def Wick.heldLine (w : Wick) (f : Nat) (pc : Word) : Option Nat :=
  match (if w.trap.sl then w.books.slLine else (w.frag f).line) with
  | some (last, l) => if last = pc ∨ (last.toNat / 64 = pc.toNat / 64 ∧ last + 12 = pc) then some l else none
  | none => none

/-- The line is held, last used for this PC. -/
def Wick.holdLine (w : Wick) (f : Nat) (pc : Word) (l : Nat) : Wick :=
  if w.trap.sl then { w with books := { w.books with slLine := some (pc, l) } } else w.modFrag f (fun g => { g with line := some (pc, l) })

/-- The line word (05 R119). -/
def lineWord (line : Nat) : Nat := fld line 480 32

/-- The 96 bits of a slot (05 R119). -/
def lineSlot (line j : Nat) : BitVec 96 := BitVec.ofNat 96 (fld line (96 * j) 96)

/-- The T bit of a slot (05 R119). -/
def lineT (line j : Nat) : Bool := (lineWord line).testBit j

/-- Whether the slot at a PC is a legal target (05 R121): the line cannot be fetched, T is clear, or T is set. -/
inductive Target where
  | noLine (p : PFault)
  | bad
  | ok
  deriving DecidableEq, Repr

/-- The check of 05 R120 and R121 on a target: the T bit is read from the line word as it is fetched for the target, with no check of the
line's parity, which the issue at the target makes (log 114). -/
def checkTarget (s : State) (core c : Nat) (sl : Bool) (pc : Word) : Target × State :=
  if !pcForm pc then (.bad, s)
  else
    match fetchLine s core c sl (pcLine pc) with
    | (.error p, s') => (.noLine p, s')
    | (.ok line, s') => (if lineT line (pcSlot pc) then .ok else .bad, s')

/-- The line that the check of a taken transfer's target fetched is the one its slots are issued from (05 R125): the wick holds it. -/
def State.holdTarget (s : State) (uid f : Nat) (pc : Word) : State :=
  match s.findWick uid with
  | none => s
  | some w =>
    match fetchLine s w.info.coreId w.info.ctx w.trap.sl (pcLine pc) with
    | (.ok l, _) => s.putWick (w.holdLine f pc l)
    | (.error _, _) => s

/-- A taken transfer to a target that must carry T, every other effect being in s (05 R121). -/
def transfer (s : State) (w : Wick) (cx : Cx) (target : Word) : Eff :=
  match checkTarget s w.info.coreId w.info.ctx cx.sl target with
  | (.ok, s') => .jump s' target
  | (.bad, _) => .trap { cause := 0x03, val := target }
  | (.noLine p, s') => .fetchFault s' (pcLine target) p

/-! ### Fault records (17 R362, R363) -/

/-- The fields of a record but for PHASE and TIME, which its writing fixes. -/
def faultRec (cause reason src lvl acc scope home : Nat) (logv : Option Nat) (lmask : Mask) (va pc srcid seq ctx part wickid ptev : Nat) : Nat :=
  cause % 256 + at_ reason 8 + at_ src 12 + at_ lvl 16 + at_ acc 18 + at_ scope 21 + at_ home 24
    + (match logv with
       | some e => at_ 1 27 + at_ e 28
       | none => 0)
    + at_ lmask.toNat 32 + at_ (va % 2 ^ 64) 64 + at_ (pc % 2 ^ 64) 128 + at_ (srcid % 2 ^ 64) 192 + at_ (seq % 2 ^ 32) 256
    + at_ (ctx % 2 ^ 16) 288 + at_ (part % 8) 304 + at_ (wickid % 2 ^ 64) 320 + at_ (ptev % 2 ^ 64) 384

/-- HOME of the leaf a failure reached, one that is not present among them (the record of the worked example of chapter 18). -/
def PFault.home (p : PFault) : Nat := if p.cause != 0x29 && (p.entry.testBit 63 || p.lvl == 0) then fld p.entry 8 2 else 0

/-- One waiting record written to the context's ring, when the ring's page translates and it has room, and the driver signalled (17 R362). -/
def flushOne (s : State) (c : Nat) : Option State :=
  match s.findCtx c with
  | none => none
  | some x =>
    match x.faults with
    | [] => none
    | r :: rest =>
      let base := s.ctxReg c 0x04
      let size := s.ctxReg c 0x05
      match s.ctxRead c base 8 with
      | (.error _, _) => none
      | (.ok ctl, s1) =>
        let widx := fld ctl 0 32
        let ridx := fld ctl 32 32
        if size = 0 || (widx + 2 ^ 32 - ridx) % 2 ^ 32 ≥ size then none
        else
          let phase := if widx / size % 2 = 0 then 1 else 0
          match s1.ctxWrite c (base + 64 + 64 * (widx % size)) 64 (r + at_ phase 26 + at_ (s.timer % 2 ^ 64) 448) with
          | .error _ => none
          | .ok s2 =>
            match s2.ctxWrite c base 4 ((widx + 1) % 2 ^ 32) with
            | .error _ => none
            | .ok s3 => some (s3.modCtx c (fun y => { y with faults := rest, signals := y.signals + 1 }))

/-- The ring has no room for n records more, beside those that wait for its page (17 R362): their source waits. A ring that is not installed
or cannot be read holds up nobody: its records wait for it. -/
def State.ringFull (s : State) (c n : Nat) : Bool :=
  match s.findCtx c with
  | none => false
  | some x =>
    let size := s.ctxReg c 0x05
    match (s.ctxRead c (s.ctxReg c 0x04) 8).1 with
    | .error _ => false
    | .ok ctl => size != 0 && decide (size < (fld ctl 0 32 + 2 ^ 32 - fld ctl 32 32) % 2 ^ 32 + x.faults.length + n)

/-- Waiting records written while there is room; fuel bounds their number. -/
def flushFaults (s : State) (c : Nat) : Nat → State
  | 0 => s
  | n + 1 => match flushOne s c with
    | some s' => flushFaults s' c n
    | none => s

/-- Records posted in order: each waits for room in the ring. -/
def postFaults (s : State) (c : Nat) (rs : List Nat) : State :=
  let s' := s.modCtx c (fun x => { x with faults := x.faults ++ rs })
  flushFaults s' c (match s'.findCtx c with
    | some x => x.faults.length
    | none => 0)

/-- SRCID of a wick (17 R363). -/
def WickInfo.srcId (i : WickInfo) : Nat := i.lseq.toNat + at_ (i.rank % 2 ^ 24) 32

/-- A halt record (16 R346, 17 R363): PTEV holds the value. -/
def haltRec (w : Wick) (cause : Nat) (value : Nat) : Nat :=
  faultRec cause 0 8 0 0 0 0 none 0 0 w.trap.tpc.toNat w.info.srcId (w.books.faultSeq.toNat + 1) w.info.ctx 0 w.info.wickId value

/-- The wick stops with a halt record and keeps its slot (16 R346, R328). -/
def haltWick (s : State) (w : Wick) (cause value : Nat) : State :=
  let part := match s.findCtx w.info.ctx with
    | some x => x.part
    | none => 0
  let r := haltRec w cause value + at_ (part % 8) 304
  let w' := { w with info := { w.info with stage := .halted }, books := { w.books with faultSeq := w.books.faultSeq + 1 } }
  postFaults (s.putWick w') w.info.ctx [r]

/-! ### Taking a trap (16 R324) -/

/-- The entry into single-lane mode: what is saved, and where the PC goes. The PCs of the fragments stay as they are. -/
def Wick.enterSl (w : Wick) (f : Nat) (tpc tnpc : Word) (t : TrapInfo) (wsave entry : Word) : Wick :=
  { w with books := { w.books with slLine := none, pair := none }, trap := { w.trap with
      sl := true, parked := false, byPark := false, entered := t.cause, pc := entry, tpc := tpc, tnpc := tnpc, tcause := BitVec.ofNat 64 t.cause,
      tmask := t.mask.setWidth 64, tval := t.val, tval2 := t.val2, tfrag := f,
      s := #v[wsave, BitVec.ofNat 64 t.cause, t.val, tpc] } }

/-- WSAVE (16 R331). -/
def State.wsave (s : State) (i : WickInfo) : Word := BitVec.ofNat 64 (s.ctxReg i.ctx 0x07 + 65536 * i.save)

/-- The entry of a cause: PVEC for pre-emption, RVEC for restore, TVEC for every other (16 R324). -/
def State.vector (s : State) (c cause : Nat) : Word :=
  BitVec.ofNat 64 (s.ctxReg c (if cause = 0x30 then 0x02 else if cause = 0x31 then 0x03 else 0x01))

/-- TAKING A TRAP, a pre-emption, a restore or a resumption by fragment f (16 R324): the wick enters single-lane mode; in
single-lane mode already, or when the entry fails 05 R121, it is a double trap and the wick halts (16 R328). -/
def takeTrap (s : State) (w : Wick) (f : Nat) (pc : Word) (t : TrapInfo) : State :=
  if w.trap.sl then haltWick s w 0x3F t.cause
  else
    let tnpc := if t.cause = 0x30 || t.cause = 0x31 || t.cause = 0x32 then pc else pcNext pc
    let entry := s.vector w.info.ctx t.cause
    let w' := w.enterSl f pc tnpc t (s.wsave w.info) entry
    match checkTarget s w.info.coreId w.info.ctx true entry with
    | (.ok, s') => (s'.putWick w').holdTarget w.info.uid f entry
    | (.bad, s') => haltWick s' w' 0x3F t.cause
    | (.noLine p, s') => haltWick s' w' 0x3F p.cause

/-! ### The access slice's image (16 R332, 04 R97, 19 R391) -/

def laneBytes (x : Lane) : List Byte := leBytes 4 x.toNat

/-- A register as SAVEV.REG writes it: the tag, then VAL, or BASE and STRIDE, or the lanes. -/
def VReg.saved : VReg → List Byte
  | .u v => 0 :: laneBytes v
  | .a b st => 1 :: (laneBytes b ++ laneBytes st)
  | .g l => 2 :: l.toList.flatMap laneBytes

/-- A translation register in the layout of 04 R97. -/
def Tx.image (t : Tx) : Nat :=
  t.vbase.toNat + at_ (bN t.valid) 63 + at_ t.pbase.toNat 64 + at_ t.limit.toNat 128 + at_ (bN t.rd) 168 + at_ (bN t.wr) 169 + at_ (bN t.atom) 170
    + at_ t.home.toNat 171

/-- The bytes of an access slice, in the order of R391, its translation registers in the 24-byte layout of 04 R97. -/
def accessImage (a : Access) : List Byte :=
  let g : Frag := a.frags[0]?.getD {}
  leBytes 8 g.pc.toNat ++ leBytes 8 g.qv.toNat ++ leBytes 8 g.cd ++ a.s.toList.flatMap (fun x => leBytes 8 x.toNat)
    ++ a.tx.toList.flatMap (fun t => leBytes 24 t.image) ++ a.v.toList.flatMap VReg.saved

/-- The address of the image. -/
def accessSave (s : State) (i : WickInfo) : Nat := (s.wsave i).toNat + 0x7800

/-- The image written when a sliced wick enters its pre-emption; the failure when its page does not translate. -/
def saveAccess (s : State) (w : Wick) : Except (Nat × PFault) State :=
  match w.access with
  | none => .ok s
  | some a => let bs := accessImage a; s.ctxWrite w.info.ctx (accessSave s w.info) bs.length (leVal bs)

/-! ### What a fragment waits for -/

def Wick.modWait (w : Wick) (f : Nat) (g : FragWait → FragWait) : Wick := w.modFrag f (fun x => { x with wait := g x.wait })

/-- The first call under NOSPEC that waits at its SVC (13 R277). -/
def Wick.svcWait (w : Wick) : Option (SvcCall × Option Word) := w.frags.toList.findSome? (fun g => g.wait.svc)

/-- The call the save area shows (16 R331): that under speculation, else the first that waits. -/
def Wick.svcShown (w : Wick) : Option SvcCall := w.books.svc.orElse (fun _ => w.svcWait.map Prod.fst)

/-! ### The return (16 R341) -/

/-- The PC of fragment f, or that of single-lane mode. -/
def Wick.setPc (w : Wick) (cx : Cx) (pc : Word) : Wick :=
  if cx.sl then { w with trap := { w.trap with pc := pc } } else w.modFrag cx.f (fun g => { g with pc := pc })

/-- A pre-emption or a debug stop ends every SLEEP and UIWAIT of the wick (06 R150, 13 R273, 21 R415). -/
def Wick.endWaits (w : Wick) : Wick := { w with frags := w.frags.map (fun (g : Frag) => { g with sleep := none, uiWait := false }) }

/-- What a fragment does anew after single-lane mode: its next instruction is tried again and its line fetched again. A BWAIT that
waited for an open phase with LASTARR none waits, issued again, for the phase open then (DEDUCED, log entry 133). -/
def Frag.anew (g : Frag) : Frag := { g with held := false, line := none, wait := { g.wait with bwait := none } }

/-- Leaving single-lane mode: fragment TFRAG goes on at pc, every other at its own (16 R341). -/
def Wick.leaveSl (w : Wick) (pc : Word) : Wick :=
  let w1 := { w with frags := w.frags.map Frag.anew }
  { w1.modFrag w.trap.tfrag (fun g => { g with pc := pc }) with trap := { w.trap with sl := false } }

/-- ERET and ERET.NEXT: the pre-emption that waits is taken at once, otherwise the wick resumes (16 R341). The pending marks a
handler-retired log entry held are cleared (17 R359). While the save area's page fails, the pre-emption waits at the boundary (17 R423). -/
def returnFromTrap (s : State) (w : Wick) (pc : Word) : State :=
  let w := { w with books := { w.books with log := w.books.log.map (fun (e : LogEntry) => if e.valid then e else { e with pending := [] }) } }
  let w' := w.leaveSl pc
  if w.trap.ppend then
    let w2 := { w'.endWaits with trap := { w'.trap with ppend := false } }
    match saveAccess s w2 with
    | .ok s1 => takeTrap s1 w2 w.trap.tfrag pc { cause := 0x30 }
    | .error _ => s.putWick { w2 with info := { w2.info with preq := true } }
  else s.putWick w'

end Sys2Proof.Machine
end

