-- ==== Sys2Proof/Machine/Own.lean ====
section
/-! DEFINITION. What the Ocris does on its own account: records of engine stops, writes that wait for their page
(spec/17_translation_and_faults.md R362, R423), trace records (spec/21_debug_trace_power.md R412 to R416), and the packets and
engine commands in progress (spec/01_execution_model.md R43 to R45). -/

namespace Sys2Proof.Machine

/-- A record of an engine's stop (17 R362, R363). The writes of the table store engine (SRC 7) and of the Chandelier and the Candelabrum (SRC
9) are accesses at device scope (04 R103); the others are plain. -/
def engineRec (s : State) (src ctx acc va pc srcid seq : Nat) (p : PFault) : Nat :=
  let part := match s.findCtx ctx with
    | some x => x.part
    | none => 0
  faultRec p.cause p.reason src p.lvl acc (if acc == 1 && (src == 7 || src == 9) then 3 else 0) p.home none 0 va pc srcid seq ctx part 0 p.entry

/-- A record of an own access that stops at a page (17 R423), SRC 9 (log 11). -/
def ownFault (s : State) (c srcid acc va : Nat) (p : PFault) : State :=
  match s.findCtx c with
  | none => s
  | some x =>
    let s' := s.modCtx c (fun y => { y with ownFaults := y.ownFaults + 1 })
    postFaults s' c [engineRec s' 9 c acc va 0 srcid (x.ownFaults + 1) p]

/-- A work waits at a page for a recheck (17 R423). -/
def State.isStopped (s : State) (c work : Nat) : Bool :=
  match s.findCtx c with
  | some x => x.stops.any (fun t => t.work == work)
  | none => false

/-- A work is tried, unless it waits for a recheck (17 R423). -/
def State.unlessStopped (s : State) (c work : Nat) (go : State → State) : State := if s.isStopped c work then s else go s

/-- A work stops at a page: its record is written, and not again before a recheck succeeds (17 R360, R423). -/
def onStop (s : State) (c work acc va : Nat) (rec_ : State → State) : State :=
  if (s.findCtx c).isNone || s.isStopped c work then s
  else rec_ (s.modCtx c (fun y => { y with stops := ⟨work, acc, va⟩ :: y.stops }))

/-- The works that stop on their own account: 0 the waiting writes, 1 the interrupt block, 2 the service ring, 3 the graph
queues, 4 the trace ring, then those of a packet. -/
def packetWork (pkt k : Nat) : Nat := 8 * pkt + k

def ownStop (s : State) (c work acc va : Nat) (p : PFault) : State := onStop s c work acc va (fun s => ownFault s c work acc va p)

/-- The stops of a context whose recheck succeeds end: a covered address that would now translate and pass its checks (17 R423). -/
def freeStops (s : State) (c : Nat) (covers : Nat → Nat → Bool) : State :=
  let stays (t : OwnStop) : Bool := !covers t.va 1 || (wouldXlate s c true ⟨t.acc, 0, 0⟩ t.va).isSome
  s.modCtx c (fun x => { x with stops := x.stops.filter stays })

/-- A record of the table store engine of a die (17 R363, R423). -/
def storeFault (s : State) (c die acc va : Nat) (p : PFault) : State :=
  let n := ((s.storeSeq.find? (fun (d, _) => d == die)).map Prod.snd).getD 0 + 1
  let s' := { s with storeSeq := (die, n) :: s.storeSeq.filter (fun (d, _) => d != die) }
  postFaults s' c [engineRec s' 7 c acc va 0 die n p]

/-! ### Writes that wait for their page -/

/-- One write tried: its MSI-X vector follows it (19 R380). -/
def runPost (s : State) (p : Post) : Except (Nat × PFault) State :=
  match s.ctxWrite p.ctx p.va p.len p.value with
  | .error e => .error e
  | .ok s' =>
    .ok (match p.msix with
      | some v => { s' with out := { s'.out with msix := s'.out.msix ++ [v] } }
      | none => s')

/-- Writes in order: those of a context wait behind the first of it that stops. -/
def runPosts : List Post → List Nat → State → List Post → State
  | [], _, s, kept => { s with posts := kept }
  | p :: ps, blocked, s, kept =>
    if blocked.contains p.ctx then runPosts ps blocked s (kept ++ [p])
    else
      match runPost s p with
      | .ok s' => runPosts ps blocked s' kept
      | .error (va, f) => runPosts ps (p.ctx :: blocked) (ownStop s p.ctx 0 1 va f) (kept ++ [p])

/-- The contexts whose writes wait for a recheck. -/
def State.postBlocked (s : State) : List Nat := (s.ctxs.filter (fun x => x.stops.any (fun t => t.work == 0))).map Ctx.id

/-- The waiting writes tried again. -/
def State.flushPosts (s : State) : State := runPosts s.posts s.postBlocked s []

/-- A write on the Ocris's own account. -/
def State.post (s : State) (p : Post) : State := runPosts (s.posts ++ [p]) s.postBlocked s []

/-! ### Trace records (21 R412, R413, R416) -/

/-- TRCCTL of a context. -/
def State.trcctl (s : State) (c : Nat) : Nat := s.ctxReg c 0x0F

def State.tren (s : State) (c : Nat) : Bool := (s.trcctl c).testBit 0

def State.dbgen (s : State) (c : Nat) : Bool := (s.trcctl c).testBit 1

/-- DBLK: the address of the debug block. -/
def State.dblk (s : State) (c : Nat) : Nat := s.trcctl c / 2 ^ 12 * 2 ^ 12

/-- A trace record (21 R416). -/
def traceRec (s : State) (ty kind index held : Nat) (seq : BitVec 32) (wickid : Nat) (pc : Word) (mask : Mask) (srcid : Nat)
    (addr : Word) (body : Nat) : Nat :=
  ty + at_ (kind % 256) 8 + at_ (index % 16) 16 + at_ (held % 8) 20 + at_ seq.toNat 32 + at_ (wickid % 2 ^ 64) 64 + at_ pc.toNat 128
    + at_ mask.toNat 192 + at_ (srcid % 2 ^ 64) 256 + at_ addr.toNat 320 + at_ (s.timer % 2 ^ 64) 448 + at_ (body % 2 ^ 512) 512

/-- Writing a trace record: the page does not translate, the ring is full, or it is written and WIDX stored (21 R413). A record
that may be lost is dropped when the ring is full, and LOST counts it. -/
def writeTrace (s : State) (c r : Nat) (mayDrop : Bool) : Except (Nat × Nat × PFault) (Option State) :=
  let base := s.dblk c
  match s.ctxRead c base 16 with
  | (.error (va, p), _) => .error (0, va, p)
  | (.ok ctl, s1) =>
    let widx := fld ctl 0 32
    let ridx := fld ctl 32 32
    let lost := fld ctl 64 32
    let size := fld ctl 96 32
    if size = 0 || (widx + 2 ^ 32 - ridx) % 2 ^ 32 ≥ size then
      if mayDrop then
        match s1.ctxWrite c (base + 8) 4 (min (lost + 1) (2 ^ 32 - 1)) with
        | .ok s2 => .ok (some s2)
        | .error (va, p) => .error (1, va, p)
      else .ok none
    else
      match s1.ctxWrite c (base + 0x1000 + 128 * (widx % size)) 128 r with
      | .error (va, p) => .error (1, va, p)
      | .ok s2 =>
        match s2.ctxWrite c base 4 ((widx + 1) % 2 ^ 32) with
        | .ok s3 => .ok (some s3)
        | .error (va, p) => .error (1, va, p)

/-- Trace records that wait for a page, in order; a page that fails is recorded, and they wait for its recheck (17 R423). -/
def flushTraces (s : State) (c : Nat) : Nat → State
  | 0 => s
  | n + 1 =>
    if s.isStopped c 4 then s
    else
      match s.findCtx c with
      | some x =>
        match x.traces with
        | r :: rest =>
          match writeTrace s c r true with
          | .ok (some s') => flushTraces (s'.modCtx c (fun y => { y with traces := rest })) c n
          | .ok none => s
          | .error (acc, va, p) => ownStop s c 4 acc va p
        | [] => s
      | none => s

/-- A record other than a STOP (21 R413). -/
def postTrace (s : State) (c r : Nat) : State :=
  let s' := s.modCtx c (fun x => { x with traces := x.traces ++ [r] })
  flushTraces s' c (match s'.findCtx c with
    | some x => x.traces.length
    | none => 0)

/-! ### Packets and commands -/

def State.findPacket (s : State) (id : Nat) : Option Packet := s.packets.find? (fun p => p.id == id)

def State.modPacket (s : State) (id : Nat) (f : Packet → Packet) : State :=
  { s with packets := modFirst (fun p => p.id == id) f s.packets }

/-- The packet has been cancelled, or its launch has lost the place of a group (19 R383, 20 R404): it starts nothing more. -/
def Packet.revoked (p : Packet) : Bool := p.cancelled && p.status != 1

/-- A SNAPSHOT has stopped a partition (20 R408). -/
def State.partStopped (s : State) (part : Nat) : Bool :=
  s.packets.any (fun p => p.part == part && (match p.snap with
    | some x => decide (1 ≤ x.stage) && decide (x.stage ≤ 3)
    | none => false))

/-- The packet of a launch, one that has completed among them while DETACH copies with CALLBACK outlast it (07 R192, 13 R269). -/
def State.findRun (s : State) (id : Nat) : Option Packet := (s.findPacket id).orElse (fun _ => s.late.find? (fun p => p.id == id))

/-- The launch a wick belongs to. -/
def State.launchOf (s : State) (w : Wick) : Option Launch := (s.findRun w.info.pkt).bind Packet.launch

/-- A field of a launch record (19 R375). -/
def Launch.fld (l : Launch) (lo n : Nat) : Nat := Machine.fld l.record lo n

def State.findGroup (s : State) (id : Nat) : Option Group := s.groups.find? (fun g => g.id == id)

def State.modGroup (s : State) (id : Nat) (f : Group → Group) : State :=
  { s with groups := modFirst (fun g => g.id == id) f s.groups }

/-- The engine commands of a wick that have not completed, DETACH copies apart (01 R43). -/
def State.openCommands (s : State) (uid : Nat) : Bool :=
  s.copies.any (fun c => c.uid == uid && !c.done && !c.detach) || s.quants.any (fun q => q.uid == uid && !q.done)
    || s.matrices.any (fun m => m.queue.any (fun i => i.uid == uid && !i.done)) || s.flushes.any (fun f => f.uid == uid)
    || s.texels.any (fun t => t.uid == uid) || s.rays.any (fun r => r.uid == uid)

/-- A band has completed (01 R43). -/
def State.bandOver (s : State) (b : Band) : Bool :=
  b.members.all (fun r => b.gone.contains r) && b.uids.all (fun u => !s.openCommands u)

/-- The bands 0 to k minus one of a launch that have all completed (01 R44); fuel is one more than the number of bands. -/
def bandsDone (s : State) (pkt : Nat) : Nat → Nat → Nat
  | 0, k => k
  | fuel + 1, k =>
    if s.bands.any (fun b => b.pkt == pkt && b.index == k && b.tile.isNone && b.complete) then bandsDone s pkt fuel (k + 1) else k

/-- Completed bands are marked and the band-completion word is stored when the count has grown (01 R43, R44), whatever its address. -/
def updateBands (s : State) (pkt : Nat) : State :=
  let s1 := { s with bands := s.bands.map (fun (b : Band) =>
    if b.pkt == pkt && !b.complete && s.bandOver b then { b with complete := true } else b) }
  match (s1.findPacket pkt) with
  | none => s1
  | some p =>
    match p.launch with
    | none => s1
    | some l =>
      let k := bandsDone s1 pkt 257 0
      if k > l.bcw then
        let s2 := s1.modPacket pkt (fun p => { p with launch := some { l with bcw := k } })
        s2.post { ctx := p.ctx, va := l.fld 384 64, len := 8, value := k }
      else s1

end Sys2Proof.Machine
end

