-- ==== Sys2Proof/Machine/Env.lean ====
section
/-! DEFINITION. Closure handles and the environment stores (spec/13_closures_interrupts_services.md R258 to R261). -/

namespace Sys2Proof.Machine

/-- The fields of a handle (13 R258). -/
def hEntry (h : Word) : Nat := fld h.toNat 0 9
def hCore (h : Word) : Nat := fld h.toNat 9 6
def hLclu (h : Word) : Nat := fld h.toNat 15 3
def hGen (h : Word) : Nat := fld h.toNat 32 16

/-- Reserved bits zero (13 R258). -/
def hWf (h : Word) : Bool := fld h.toNat 18 14 == 0 && fld h.toNat 48 16 == 0

/-- The physical cluster of a logical one (16 R329, CLMAP). -/
def State.physCluster (s : State) (c l : Nat) : Nat := fld (s.ctxReg c 0x10) (3 * l) 3

/-- The logical cluster a physical one is, for a context. -/
def State.logCluster (s : State) (c p : Nat) : Nat := ((List.range 8).find? (fun l => s.physCluster c l == p)).getD 0

/-- The entry of a store; one that is not listed is free with GEN 1 (13 R259). -/
def State.envAt (s : State) (core e : Nat) : EnvEntry :=
  (s.env.find? (fun x => x.core == core && x.entry == e)).getD { core := core, entry := e }

/-- The entry of a store replaced. -/
def State.putEnv (s : State) (x : EnvEntry) : State :=
  { s with env := x :: s.env.filter (fun y => !(y.core == x.core && y.entry == x.entry)) }

/-- The entry a handle of a context names. -/
def State.handleEntry (s : State) (c : Nat) (h : Word) : EnvEntry :=
  s.envAt (coreKey (s.physCluster c (hLclu h)) (hCore h)) (hEntry h)

/-- The handle of an entry (13 R263). -/
def mkHandle (entry core lclu gen : Nat) : Word :=
  BitVec.ofNat 64 (entry % 512 + core % 64 * 2 ^ 9 + lclu % 8 * 2 ^ 15 + gen % 2 ^ 16 * 2 ^ 32)

/-- 13 R260: the handle is valid. -/
def State.handleValid (s : State) (c : Nat) (h : Word) : Bool :=
  hWf h && h != 0 && (s.handleEntry c h).used && (s.handleEntry c h).gen.toNat == hGen h

/-- 13 R260: a valid entry is dangling. -/
def State.dangling (s : State) (x : EnvEntry) : Bool :=
  x.byref && (!x.ownlive || (x.depth ≥ 1 &&
    (match s.findWick x.owner with
     | some w => w.regs.fgen[x.depth - 1]?.getD 0 != x.fgen
     | none => true)))

/-- n more references on an entry. -/
def State.addRef (s : State) (c : Nat) (h : Word) (n : Nat) : State :=
  let x := s.handleEntry c h
  s.putEnv { x with refcnt := x.refcnt + n }

/-- GEN after the entry is freed: the next, skipping 0 (13 R259). -/
def genNext (g : BitVec 16) : BitVec 16 := if g + 1 = 0 then 1 else g + 1

/-- One reference released; at zero the entry is freed in the same step (13 R261). -/
def State.release (s : State) (c : Nat) (h : Word) : State :=
  let x := s.handleEntry c h
  if x.refcnt ≤ 1 then s.putEnv { x with refcnt := 0, used := false, gen := genNext x.gen }
  else s.putEnv { x with refcnt := x.refcnt - 1 }

/-- Whether an entry has room for n more references (13 R265). -/
def State.refRoom (s : State) (c : Nat) (h : Word) (n : Nat) : Bool := decide ((s.handleEntry c h).refcnt + n ≤ 0xFFFF)

/-- 13 R260: the cause a use of the handle traps with, if any; frame asks for the captured frame too. -/
def State.handleFault (s : State) (c : Nat) (h : Word) (frame : Bool) : Option Nat :=
  if !s.handleValid c h then some 0x1C
  else if frame && s.dangling (s.handleEntry c h) then some 0x1D
  else none

end Sys2Proof.Machine
end

