-- ==== Sys2Proof/Machine/Exit.lean ====
section
/-! DEFINITION. What follows when the last lane of a wick has retired (spec/01_execution_model.md R17, R33, R43): its exit
record (spec/21_debug_trace_power.md R416), its environment entries and references (spec/13_closures_interrupts_services.md R263,
R269), its node records (R283), the verdicts of an any-hit closure (spec/14_rendering_and_lantern.md R317), failed matrix
instructions never reported (spec/09_matrix_engine.md R220), and its slot. -/

namespace Sys2Proof.Machine

/-- STALL0 to STALL15, 32 bits each (21 R416). -/
def Wick.stallBody (w : Wick) : Nat := packElems 32 (w.books.stall.toList.map BitVec.toNat)

/-- The exit record, with TREN (21 R416): KIND 1 when killed. -/
def exitRecord (s : State) (w : Wick) (pc : Word) (mask : Mask) : State :=
  let c := w.info.ctx
  if s.tren c then
    postTrace s c (traceRec s 2 (if w.info.killed then 1 else 0) 0 0 (w.books.traceSeq + 1) w.info.wickId pc mask w.info.srcId 0 w.stallBody)
  else s

/-- OWNLIVE := 0 in every entry the wick owns (13 R263). -/
def dropOwner (s : State) (uid : Nat) : State :=
  { s with env := s.env.map (fun (x : EnvEntry) => if x.used && x.owner == uid then { x with ownlive := false } else x) }

/-- The reference k15 holds is released when a closure or callback wick has exited (13 R269). -/
def dropClosure (s : State) (w : Wick) : State :=
  match w.info.kind with
  | .closure | .callback => if s.handleValid w.info.ctx (w.rdK 15) then s.release w.info.ctx (w.rdK 15) else s
  | _ => s

/-- Bytes of a context's memory become unpredictable. -/
def spoil (s : State) (c va n : Nat) : State :=
  match s.ctxWrite c va n (leVal ((bytesFrom va n).map (Config.arrayByte s.free))) with
  | .ok s' => s'
  | .error _ => s

/-- The records a wick holds for the lanes of a mask are retired: their slots are free, and their bytes in the array unpredictable (13
R283). -/
def retireRecs (s : State) (uid : Nat) (lanes : Mask) : State :=
  let gone (h : GraphHeld) : Bool := h.uid == uid && lanes.getLsbD h.lane
  let hs := s.graphs.flatMap (fun g => (g.held.filter gone).map (fun h => (g.ctx, h)))
  let s1 := { s with graphs := s.graphs.map (fun (g : Graph) => { g with held := g.held.filter (fun h => !gone h) }) }
  hs.foldl (fun s (c, h) => spoil s c h.addr h.len) s1

/-- The verdicts of a CALLK wick (14 R317). -/
def giveVerdicts (s : State) (w : Wick) : State :=
  match w.info.cont with
  | some c => if c.kind = 6 then { s with verdicts := s.verdicts ++ [⟨w.info.uid, c.rays, w.rdS 0 0⟩] } else s
  | none => s

/-- What the launch's completion record is to report of the wick (19 R380): KILLED, HALTED, ATRAP, MFAIL. -/
def reportExit (s : State) (w : Wick) : State :=
  let failed := s.matrices.flatMap (fun m => (m.queue.filter (fun i => i.uid == w.info.uid && i.failed && !i.reported)).map (fun i => i.record))
  let low := failed.foldl (fun (m : Option Nat) r => match m with
    | none => some r
    | some x => if r % 2 ^ 64 < x % 2 ^ 64 then some r else some x) none
  let qp0 : List QEntry := w.books.qp[0]?.getD []
  s.modPacket w.info.pkt (fun p => { p with
    killed := p.killed || w.info.killed
    halted := p.halted || (w.info.killed && w.info.stage == .halted)
    atrap := p.atrap || qp0.any (fun (e : QEntry) => e.faulted && decide (e.fmask = (0 : Mask))) || w.access.any (fun a => a.trap.isSome)
    mfail := match p.mfail, low with
      | some a, some b => some (if b % 2 ^ 64 < a % 2 ^ 64 then b else a)
      | none, b => b
      | a, none => a })

/-- The wick leaves its slot and its bands, and its launch sees it go. -/
def leaveSlot (s : State) (w : Wick) : State :=
  let uid := w.info.uid
  let s1 := { s with
    wicks := s.wicks.filter (fun x => x.info.uid != uid)
    snaps := s.snaps.filter (fun x => x.info.uid != uid)
    requests := s.requests.filter (fun r => r.uid != uid)
    bands := s.bands.map (fun (b : Band) => if b.uids.contains uid then { b with gone := w.info.rank :: b.gone } else b) }
  let s2 := if s1.wicks.any (fun x => x.info.group == w.info.group) then s1
    else { s1 with groups := s1.groups.filter (fun g => g.id != w.info.group) }
  updateBands s2 w.info.pkt

/-- The exit of a wick (01 R17): pc and mask are those of its exit record. -/
def exitWick (s : State) (w : Wick) (pc : Word) (mask : Mask) : State :=
  let s1 := exitRecord s w pc mask
  let s2 := dropClosure (giveVerdicts (reportExit s1 w) w) w
  leaveSlot (retireRecs (dropOwner s2 w.info.uid) w.info.uid fullMask) w

/-- The end of a wick as if every lane had exited (16 R339). -/
def killWick (s : State) (w : Wick) : State :=
  let pc := if w.trap.sl then w.trap.tpc else (w.frag 0).pc
  exitWick s { w with info := { w.info with killed := true } } pc w.live

end Sys2Proof.Machine
end

