-- ==== Sys2Proof/Machine/Kinds.lean ====
section
/-! DEFINITION. What an instruction is to issue: the registers it reads and writes (spec/17_translation_and_faults.md R355), and
the kinds its waits and modes depend on (spec/17_translation_and_faults.md R356, spec/13_closures_interrupts_services.md R277,
spec/16_privileged_state_and_preemption.md R325, spec/19_command_processing_and_scheduling.md R389). -/

namespace Sys2Proof

open Machine

/-! ### Registers an instruction touches -/

/-- The registers of one field. -/
def Opnd.names (o : Opnd) (f : BitVec 8) : List RegName :=
  match o.cls with
  | .none => []
  | .s => [.s f.toNat]
  | .s2 => [.s f.toNat, .s (f.toNat + 1)]
  | .q => [.q f.toNat]
  | .p => [.p f.toNat]
  | .k => [.k f.toNat]
  | .v3 => [.v f.toNat, .v (f.toNat + 1), .v (f.toNat + 2)]
  | .v n => (List.range n).map (fun j => .v (f.toNat + j))

/-- The guard predicate an instruction reads (05 R126). -/
def Instr.guardName (i : Instr) : List RegName :=
  match i.hdr with
  | none => []
  | some h => if h.gp = 15 || i.opY.isSome then [] else if i.qGuard then [.q h.gp.toNat] else [.p h.gp.toNat]

/-- The n registers from v[f] on, ports and the handler's apart. -/
def vRun (f : BitVec 8) (n : Nat) : List RegName := ((List.range n).filter (fun j => decide (f.toNat + j < 248))).map (fun j => .v (f.toNat + j))

/-- The registers among v0–v15 that a live mask names (01 R18). -/
def liveRun (mask : BitVec 32) : List RegName := ((List.range 16).filter (fun j => mask.getLsbD j)).map .v

/-- The callback register of a copy with CALLBACK (07 R186). -/
def callbackName (o : OpX) : List RegName := if o.flags.getLsbD 10 then [.k (fld o.flags.toNat 11 4)] else []

/-- Registers read or written that no 8-bit field names: CQ of BRQ, BRP and FORK (06 R144), the predicate of a CAS (07 R172), the translation
registers of TXL and TXI (07 R179), k[KC] of a copy (07 R186), the scalars CAPT and SVC store (13 R263, R276), the runs of registers from A
on that CAPT (13 R259), EMIT (13 R281: a record holds 16 words at most), BIN, RAST (14 R290, R291), TEX and TRACE (R302, R316) take, those
that a live mask names (01 R18), and those from D on that RAST writes (R292). -/
def Instr.extraNames (i : Instr) : List RegName × List RegName :=
  match i with
  | .brq _ o => ([.q o.cq.toNat], [])
  | .brp _ o | .fork _ o => ([.p o.cq.toNat], [])
  | .cas _ o => ([], [.p o.aux.toNat])
  | .txl _ o => ([], [.tx o.tx.toNat])
  | .txi h o => ([], if h.sub = 0 then [.tx o.tx.toNat] else (List.range 7).map .tx)
  | .cpy _ o | .cpyg _ o | .cpys _ o | .cpym _ o => (callbackName o, [])
  | .capt _ o => (vRun o.a (fld o.flags.toNat 8 3) ++ ((List.range 8).filter (fun j => o.flags.getLsbD j)).map (fun j => .s (32 + j)), [])
  | .svc _ _ => ((List.range 6).map (fun j => .s (32 + j)), [])
  | .emit _ o | .bin _ o => (vRun (o.a + 1) 15, [])
  | .rast _ o => (vRun (o.a + 1) 8, vRun (o.d + 1) 3)
  | .tex _ o => (vRun (o.a + 1) 1 ++ liveRun o.imm, [])
  | .trace _ o => (vRun (o.a + 1) 7 ++ liveRun o.imm, [])
  | .rres _ o | .applyV _ o | .cont _ o => (liveRun o.imm, [])
  | _ => ([], [])

/-- The translation register of a global access (04 R98). -/
def Instr.txName (i : Instr) : List RegName :=
  match i, i.opM with
  | .txl _ _, _ | .txi _ _, _ => []
  | _, some o => if o.sp == .glob && o.tx != 7 then [.tx o.tx.toNat] else []
  | _, none => []

/-- The registers an instruction reads (17 R355: sources), and the translation register its accesses name. -/
def Instr.reads (i : Instr) : List RegName :=
  i.guardName ++ i.opnds.flatMap (fun (f, o) => if o.rd then o.names f else []) ++ i.extraNames.1 ++ i.txName

/-- The registers an instruction writes (17 R355). -/
def Instr.writes (i : Instr) : List RegName :=
  i.opnds.flatMap (fun (f, o) => if o.wr then o.names f else []) ++ i.extraNames.2

/-- The sources an instruction is logged with, in field order, and then what follows the first register of each (16 R333). A format M form's
fields stand in the order D, X, S, its data among them (log 18). -/
def Instr.sources (i : Instr) : List RegName :=
  let ns := (i.opnds.filter (fun (_, o) => o.rd)).map (fun (f, o) => o.names f)
  ns.flatMap (fun l => l.take 1) ++ ns.flatMap (fun l => l.drop 1) ++ (match i with
    | .capt _ _ => []
    | _ => i.extraNames.1)

/-- An entity instruction: its v sources name no port (11 R236). -/
def Instr.noPort (i : Instr) : Bool :=
  match i.opc with
  | some o => 0xD0 ≤ o.toNat && o.toNat ≤ 0xD8
  | none => false

/-- The ports an instruction reads (02 R60): those its v fields name. CAPT's run takes none (13 R263, check 1), and SAVEV's A under
QUEUE names a queue to save, not an entry to take (16 R332). -/
def Instr.ports (i : Instr) : List Nat :=
  match i with
  | .capt _ _ | .savev _ _ => []
  | _ =>
    ((i.opnds.flatMap (fun (f, o) => if o.rd then o.names f else [])).filterMap (fun r => match r with
      | .v n => if 248 ≤ n && n < 252 then some (n - 248) else none
      | _ => none)).eraseDups

/-- 13 R262, R276: the scalar result of a closure form or of SVC lies in s0–s59, in single-lane mode too (log 55). -/
def Instr.highResult (i : Instr) : Bool :=
  match i with
  | .apply _ o | .kref _ o | .svc _ o => decide (60 ≤ o.d.toNat)
  | .kld h o => h.sub == 0 && decide (60 ≤ o.d.toNat)
  | .kmov h o => h.sub == 1 && decide (60 ≤ o.d.toNat)
  | _ => false

/-! ### Kinds of instruction -/

/-- Engine commands (04 R113, 17 R356): the copies, quantisation and matrix commands, entity-store changes and queries, ray
and texel submissions. -/
def Instr.isCommand (i : Instr) : Bool :=
  match i.opc with
  | some o =>
    let n := o.toNat
    (0xB0 ≤ n && n ≤ 0xB3) || n == 0xBC || (0xC0 ≤ n && n ≤ 0xC5) || (0xD0 ≤ n && n ≤ 0xD3) || n == 0xD5 || n == 0xD6 || n == 0xEE
      || (0xF4 ≤ n && n ≤ 0xFA)
  | none => false

/-- A synchronising access, an atomic or a fence. -/
def Instr.isSync (i : Instr) : Bool :=
  match i.opM with
  | some o => o.sc != .plain
  | none => false

/-- What waits until the operand log is empty (17 R356), and what makes the wick's earlier accesses visible to others: an arrival, a
user interrupt sent or taken, lanes that leave for a continuation wick (22 R421: a logged access is ordered at its place in program order, 16
R343). -/
def Instr.waitsForLog (i : Instr) : Bool :=
  i.isCommand || i.isSync || (match i with
    | .exit _ _ | .barv _ _ | .uisend _ _ | .uipendTake _ _ | .applyV _ _ | .cont _ _ => true
    | _ => false)

/-- A form whose access or whose reading of a record may meet a page fault (17 R355, R356); LDQ's failures go to its queue (19 R390). -/
def Instr.mayFault (i : Instr) : Bool :=
  match i with
  | .fence _ _ | .icinv _ _ | .cache _ _ | .txi _ _ | .ldc _ _ | .stc _ _ | .ldq _ _ => false
  | .bin _ _ | .hres _ _ | .estat _ _ | .ecnt _ _ | .uimask _ _ | .uimaskClaim _ _ | .uipendTake _ _ | .uipendPeek _ _ | .svc _ _ => true
  | _ =>
    match i.opM with
    | some o => o.sp == .glob || o.sp == .prv || o.sp == .cst
    | none => i.isCommand

/-- What waits for the reply in speculation whatever the wick's state (13 R277); SVCW is that wait itself. -/
def Instr.waitsForReply (i : Instr) : Bool :=
  match i with
  | .kld _ _ | .kref _ _ | .uipendPeek _ _ => false
  | .exit _ _ => true
  | _ => i.opX.isSome || i.isSync

/-- The change instructions, which ISEQ counts (11 R239). -/
def Instr.isChange (i : Instr) : Bool :=
  match i with
  | .ecrt _ _ | .edel _ _ | .eadd _ _ | .erem _ _ => true
  | _ => false

/-- What does not decode in single-lane mode (16 R325). -/
def Instr.notInSl (i : Instr) : Bool :=
  match i with
  | .fork _ _ | .join _ _ | .exit _ _ | .sleep _ _ | .yield _ _ | .bkpt _ _ | .trapu _ _ => true
  | _ => i.opX.isSome

/-- What the access slice executes (19 R389). -/
def Instr.inAccessSlice (i : Instr) : Bool :=
  match i with
  | .nop _ _ | .bra _ _ | .brq _ _ | .brs _ _ | .loop _ _ | .call _ _ | .ret _ _ | .exit _ _ => true
  | .aff _ _ | .lds _ _ | .txl _ _ | .txi _ _ | .ldq _ _ => true
  | _ =>
    match i.opc, i.opV with
    | some o, some v =>
      let n := o.toNat
      (0x10 ≤ n && n ≤ 0x24) || (0x30 ≤ n && n ≤ 0x44 && narrow v.d.toNat && n != 0x3C)
    | _, _ => false

end Sys2Proof
end

