-- ==== Sys2Proof/Machine/Issue.lean ====
section
/-! DEFINITION. What every instruction of a wick meets at issue, and what becomes of its outcome: the order of checks of
spec/05_encoding_and_assembly.md R136, guards (R126), register checks (spec/02_registers_and_operands.md R49), the waits
behind logged faults (spec/17_translation_and_faults.md R355, R356) and speculation (spec/13_closures_interrupts_services.md R277). -/

namespace Sys2Proof.Machine

/-! ### Register checks -/

/-- 02 R49 on one register: reserved (0x05) or past NG (0x06); ports says whether the field may name a port. -/
def regFault (w : Wick) (ports : Bool) : RegName → Option Nat
  | .s n => if 60 ≤ n && !w.trap.sl then some 0x05 else none
  | .v n =>
    if 252 ≤ n then (if w.trap.sl then none else some 0x05)
    else if w.info.ng ≤ n && n < 128 then some 0x06
    else if 248 ≤ n then
      (if ports && w.info.sliced && !w.inAccess && !w.trap.sl then none else some 0x05)
    else none
  | _ => none

/-- 02 R49 on every field, the first failure in field order. A port is a source of one register; an entity instruction names none (11
R236). -/
def regCheck (w : Wick) (i : Instr) : Option Nat :=
  i.opnds.findSome? (fun (f, o) => (o.names f).findSome? (regFault w (!o.wr && !i.noPort && (o.names f).length == 1)))

/-! ### Guards and the context -/

/-- The fragment that acts: TFRAG in single-lane mode (16 R325). -/
def Wick.actor (w : Wick) (f : Nat) : Nat := if w.trap.sl then w.trap.tfrag else f

/-- The scalar guard (05 R126). -/
def Wick.qGuard (w : Wick) (f : Nat) (h : Hdr) : Bool := w.rdQ f h.gp.toNat != h.gn

/-- The lane guard (05 R126). -/
def Wick.pGuard (w : Wick) (h : Hdr) : Mask := if h.gn then ~~~ (w.rdP h.gp.toNat) else w.rdP h.gp.toNat

/-- The issue's context: lanes and PC (01 R13, 16 R325). -/
def Wick.cx (w : Wick) (f : Nat) (i : Instr) : Cx :=
  let f' := w.actor f
  let mask := if w.trap.sl then 1 else (w.frag f').mask
  let act := match i.hdr with
    | some h => if i.qGuard || i.opY.isSome then mask else mask &&& w.pGuard h
    | none => mask
  ⟨w.info.uid, f', if w.trap.sl then w.trap.pc else (w.frag f').pc, w.trap.sl, mask, act, w.live⟩

/-- A class S or format C instruction whose guard is false (05 R126). -/
def Wick.guardedOff (w : Wick) (f : Nat) (i : Instr) : Bool :=
  match i.hdr with
  | some h => i.qGuard && !w.qGuard (w.actor f) h
  | none => false

/-! ### Issue -/

/-- What issue decides before the instruction's own description is followed. -/
inductive Issue where
  | go (cx : Cx)
  /-- The guard is false: the PC moves on. -/
  | skip (cx : Cx)
  | trap (cx : Cx) (cause : Nat)
  | wait (cx : Cx) (why : Nat)
  /-- The reply of the outstanding service call is taken first (13 R277). -/
  | resolve (cx : Cx)
  deriving DecidableEq, Repr

/-- A register each fragment has of its own (02 R47). -/
def RegName.perFrag : RegName → Bool
  | .s n => 44 ≤ n && n < 60
  | .q _ => true
  | _ => false

/-- A register that a pending log entry marks (17 R356), as fragment f names it. -/
def Wick.pendingReg (w : Wick) (f : Nat) (r : RegName) : Bool :=
  w.books.log.toList.any (fun e => e.pending.contains r && (!r.perFrag || e.frag == f))

/-- An entry of the operand log is held. -/
def Wick.logHeld (w : Wick) : Bool := w.books.log.toList.any (fun e => e.valid || !e.pending.isEmpty)

/-- LOGP (16 R330). -/
def Wick.logPending (w : Wick) : Bool := w.books.log.toList.any (fun e => e.valid)

/-- Every entry of the operand log is in use. -/
def Wick.logFull (w : Wick) : Bool := w.books.log.toList.all (fun e => e.valid)

/-- A RET that ends the lanes of a closure's wick: they leave it, as by EXIT (13 R268, R269). -/
def Wick.retEnds (w : Wick) (f : Nat) (i : Instr) : Bool :=
  match i with
  | .ret _ _ => !w.inAccess && (w.frag f).cd == 0
  | _ => false

/-- 17 R356: the instruction waits behind a logged one. The handler's own accesses in single-lane mode do not (16 R325). -/
def Wick.waitsOnLog (w : Wick) (f : Nat) (i : Instr) : Bool :=
  !w.trap.sl && w.logHeld && ((i.reads ++ i.writes).any (w.pendingReg f) || ((i.waitsForLog || w.retEnds f i) && w.logPending)
    || (i.mayFault && w.logFull))

/-- The head of a queue. -/
def Wick.qHead (w : Wick) (n : Nat) : Option QEntry := (w.books.qp[n]?.getD []).head?

/-- What a pop of a port meets (02 R60, 19 R390, R391): a wait, or the trap the entry carries. -/
def Wick.portCheck (w : Wick) (i : Instr) : Option (Nat ⊕ TrapInfo) :=
  i.ports.findSome? (fun n =>
    match w.qHead n with
    | none =>
      (match w.access with
       | some a => if a.live then some (.inl 3) else some (.inr { cause := 0x01 })
       | none => some (.inr { cause := 0x01 }))
    | some e =>
      if !e.faulted then none
      else if e.fmask = 0 then some (.inr { cause := e.cause.toNat, val2 := e.faddr })
      else some (.inl 12))

/-- A RET that releases a closure, or ends the lanes of a closure's wick: an effect outside the wick (13 R267, R268, R277). -/
def Wick.retReleases (w : Wick) (f : Nat) (i : Instr) : Bool :=
  match i with
  | .ret _ _ => w.retEnds f i || (!w.inAccess && (w.regs.kframe[(w.frag f).cd - 1]?.getD false))
  | _ => false

/-- The wick is in speculation, and this instruction waits for the reply: it has an effect outside the wick, or a trap is held (13 R277). -/
def Wick.waitsReply (w : Wick) (f : Nat) (i : Instr) : Bool :=
  w.books.svc.isSome && !w.trap.sl && (i.waitsForReply || w.retReleases f i || w.books.held.isSome) && (match i with
    | .svcw _ _ => w.books.held.isSome
    | _ => true)

/-- 05 R136, steps 4 to 6, the false guard of R126, and the waits that come before the instruction's own checks. -/
def issueOf (i : Instr) (w : Wick) (f : Nat) : Issue :=
  let cx := w.cx f i
  if i.prv && !w.trap.sl then .trap cx 0x04
  else if w.inAccess && !i.inAccessSlice then .trap cx 0x01
  else if !i.legal then .trap cx 0x01
  else if w.trap.sl && i.notInSl then .trap cx 0x01
  else if w.guardedOff f i then .skip cx
  else if w.waitsReply cx.f i then (if w.books.reply.isSome && !w.inAccess then .resolve cx else .wait cx 13)
  else
    match (match i with
      | .savev _ _ | .loadv _ _ => none
      | _ => if i.highResult then some 0x05 else regCheck w i) with
    | some c => .trap cx c
    | none => if w.waitsOnLog cx.f i then .wait cx 12 else .go cx

/-! ### Outcomes -/

/-- A stall counter counts a cycle (21 R417); they saturate, and count nothing in single-lane mode. -/
def Wick.stalled (w : Wick) (why : Nat) : Wick :=
  if w.trap.sl then w
  else
    let c := w.books.stall[why]?.getD 0
    { w with books := { w.books with stall := if c = 0xFFFFFFFF then w.books.stall else w.books.stall.setIfInBounds why (c + 1) } }

/-- A wick none of whose live fragments can issue because of logged instructions or a fetch that fails is parked (17 R357). -/
def Wick.parkCheck (w : Wick) : Wick :=
  let fs := (List.range 8).filter (fun f => (w.frag f).state == .running && (w.frag f).mask != 0)
  let stuck := !fs.isEmpty && fs.all (fun f => (w.frag f).held || w.books.fetchFault.any (fun (g, _) => g == f))
  if !w.trap.sl && stuck then { w with trap := { w.trap with parked := true } } else w

/-- An instruction of fragment f waits: the wait is counted, and one of the execute slice behind a logged instruction may park the wick. -/
def Wick.waits (w : Wick) (f why : Nat) : Wick :=
  let w1 := w.stalled why
  if why = 12 ∧ !w.trap.sl ∧ !w.inAccess then (w1.modFrag f (fun g => { g with held := true })).parkCheck else w1

/-- A trap entry of the access slice (19 R391). -/
def trapEntry (cause : Nat) (pc : Word) : QEntry := { faulted := true, cause := BitVec.ofNat 8 cause, faddr := pc }

/-- The trap of an access slice that waits goes to QP0 when QP0 has room (19 R391). -/
def Wick.feedTrap (w : Wick) : Wick :=
  match w.access.bind Access.trap with
  | none => w
  | some (cause, pc) =>
    let q := w.books.qp[0]?.getD []
    if q.length ≥ 8 then w
    else
      { w with
        access := w.access.map (fun a => { a with trap := none })
        books := { w.books with qp := w.books.qp.setIfInBounds 0 (q ++ [trapEntry cause pc]) } }

/-- The pops of an instruction's ports (02 R60). -/
def Wick.popPorts (w : Wick) (i : Instr) : Wick :=
  if i.ports.isEmpty then w
  else
    Wick.feedTrap { w with books := { w.books with qp := i.ports.foldl (fun q n => q.setIfInBounds n ((q[n]?.getD []).drop 1)) w.books.qp } }

/-- The PC moves and the fragment counts as last issued (01 R20). -/
def advance (s : State) (cx : Cx) (i : Instr) (pc : Word) : State :=
  s.modWick cx.uid (fun w =>
    let w := (w.popPorts i).setPc cx pc
    if cx.sl then w else w.modFrag cx.f (fun g => { g with lru := s.now }))

/-- The value of a source as logged (16 R333). -/
def Wick.readName (w : Wick) (f : Nat) : RegName → RegVal
  | .s n => .w (w.rdS f n)
  | .q n => .w (if w.rdQ f n then 1 else 0)
  | .p n => .w ((w.rdP n).setWidth 64)
  | .v n => .v (w.rdV n)
  | .k n => .w (w.rdK n)
  | .tx _ => .w 0

/-- The first free entry of the operand log. -/
def Wick.freeLog (w : Wick) : Option Nat := (List.range 4).find? (fun e =>
  match w.books.log[e]? with
  | some x => !x.valid && x.pending.isEmpty
  | none => false)

/-- The active mask an instruction is logged with: lane 0 alone of the scalar forms and TXL (17 R355). -/
def logMask (i : Instr) (act : Mask) : Mask :=
  match i with
  | .lds _ _ | .sts _ _ | .satom _ _ | .txl _ _ => 1
  | _ => act

/-- 16 R333, 17 R355: the entry a faulting instruction takes. -/
def mkEntry (w : Wick) (cx : Cx) (i : Instr) (done : Mask) (bad : List (Nat × Nat × PFault)) (kind : AccKind) (foot : List (Nat × Nat × Nat))
    (whole : Bool) : LogEntry :=
  { valid := true, instr := (encode i).getD 0, pc := cx.pc, done := done, active := logMask i cx.act, frag := cx.f,
    srcs := i.sources.map (fun r => (r, w.readName cx.f r)), pending := i.writes.eraseDups, whole := whole, foot := foot,
    bad := bad.map (fun (l, va, _) => (l, va)), iseq := w.books.iseq, acc := (kind.kind, kind.scope, kind.aop) }

/-- The page a failure lies on: that of the leaf reached, else the least page (17 R351). -/
def PFault.page (p : PFault) (va : Nat) : Nat × Nat :=
  let n := if p.cause != 0x29 && p.entry.testBit 0 && p.entry.testBit 63 then leafSize p.lvl else 2 ^ 19
  (va / n * n, n)

/-- The distinct failing pages, by lowest failing lane and then by address (17 R355). -/
def badPages (bad : List (Nat × Nat × PFault)) : List (Nat × Nat) := (bad.map (fun (_, va, p) => p.page va)).eraseDups

/-- What stands in PTEV: the entry as read, or the lowest failing offset of a private access (17 R361, R363). -/
def ptev (p : PFault) (here : List (Nat × Nat × PFault)) : Nat :=
  if p.cause = 0x29 then (here.filter (fun (_, _, q) => q.cause == 0x29)).foldl (fun m (_, _, q) => min m q.entry) p.entry else p.entry

/-- The records of failing lanes (17 R355, R363). -/
def laneRecs (s : State) (w : Wick) (pc : Word) (src : Nat) (log : Option Nat) (kind : AccKind) (bad : List (Nat × Nat × PFault)) : List Nat :=
  let part := match s.findCtx w.info.ctx with
    | some x => x.part
    | none => 0
  let acc := kind.kind
  ((badPages bad).zipIdx).map (fun (pg, n) =>
    let here := bad.filter (fun (_, va, p) => p.page va == pg)
    let lmask := maskOf (fun l => here.any (fun (l', _, _) => l' == l))
    let va := here.foldl (fun m (_, va, _) => min m va) ((here.head?.map (fun (_, va, _) => va)).getD 0)
    let p := ((here.find? (fun (_, a, _) => a == va)).map (fun (_, _, p) => p)).getD ⟨0, 0, 0, 0x28⟩
    faultRec p.cause p.reason src p.lvl acc kind.scope p.home log lmask va pc.toNat w.info.srcId (w.books.faultSeq.toNat + 1 + n)
      w.info.ctx part w.info.wickId (ptev p here))

/-- Records of a wick written, and counted as its own (17 R364). -/
def wickFaults (s : State) (uid c : Nat) (recs : List Nat) : State :=
  postFaults (s.modWick uid (fun w => { w with books := { w.books with faultSeq := w.books.faultSeq + BitVec.ofNat 32 recs.length } })) c recs

/-- The access slice stops, and its trap goes to QP0, or waits for room there (19 R391). -/
def accessTrap (s : State) (w : Wick) (cx : Cx) (cause : Nat) : State :=
  s.putWick (Wick.feedTrap { w with access := w.access.map (fun a => { a with live := false, trap := some (cause, cx.pc) }) })

/-- A trap is held until the reply (13 R277). -/
def Wick.holdTrap (w : Wick) (cx : Cx) (t : TrapInfo) : Wick := { w with books := { w.books with held := some t, heldAt := (cx.f, cx.pc) } }

/-- A trap of an instruction: passed to QP0 by the access slice (19 R391), held in speculation (13 R277), else taken (16 R324). -/
def raiseTrap (s : State) (w : Wick) (cx : Cx) (t : TrapInfo) : State :=
  if w.inAccess then accessTrap s w cx t.cause
  else if w.books.svc.isSome && !w.trap.sl then s.putWick (w.holdTrap cx t)
  else takeTrap s w cx.f cx.pc t

/-- Lanes of the access slice fail: their records are written, with no log entry, and the slice stops with the cause (19 R391, log 115). In
speculation the fault is held, nothing is recorded, and the instruction is issued again after the reply (13 R277, 17 R360). -/
def accessFault (s : State) (w : Wick) (cx : Cx) (src : Nat) (kind : AccKind) (bad : List (Nat × Nat × PFault)) : State :=
  let recs := laneRecs s w cx.pc src none kind bad
  if w.books.svc.isSome then s.putWick (w.stalled 13)
  else if s.ringFull w.info.ctx recs.length then s.putWick (w.stalled 12)
  else wickFaults (accessTrap s w cx ((bad.head?.map (fun (_, _, p) => p.cause)).getD 0x28)) w.info.uid w.info.ctx recs

/-- The failure of a fetch: recorded once, and the fragment waits for a recheck (17 R357, R358), or for room in the ring. -/
def fetchFails (s : State) (w : Wick) (cx : Cx) (va : Nat) (p : PFault) : State :=
  let t : TrapInfo := { cause := p.cause, val := BitVec.ofNat 64 va }
  if w.trap.sl then takeTrap s w cx.f cx.pc t
  else if w.inAccess then accessFault s w cx 1 ⟨3, 0, 0⟩ [(0, va, p)]
  else if w.books.svc.isSome then s.putWick (w.holdTrap cx t)
  else if s.ringFull w.info.ctx 1 then s.putWick (w.stalled 10)
  else
    let w1 := w.stalled 10
    let w2 := { w1 with books := { w1.books with fetchFault := (cx.f, va) :: w.books.fetchFault.filter (fun (f, _) => f != cx.f) } }
    wickFaults (s.putWick w2.parkCheck) w.info.uid w.info.ctx (laneRecs s w cx.pc 1 none ⟨3, 0, 0⟩ [(0, va, p)])

/-- A faulting instruction is logged and counts as issued (17 R355); it waits while the log or the ring has no room. -/
def logFault (s0 : State) (w0 : Wick) (cx : Cx) (i : Instr) (s : State) (done : Mask) (bad : List (Nat × Nat × PFault)) (kind : AccKind)
    (foot : List (Nat × Nat × Nat)) (whole : Bool) : State :=
  let t : TrapInfo := { cause := (bad.head?.map (fun (_, _, p) => p.cause)).getD 0x28, val := BitVec.ofNat 64 ((bad.head?.map (fun (_, va, _) => va)).getD 0) }
  if w0.trap.sl then takeTrap s0 w0 cx.f cx.pc t
  else if w0.inAccess then accessFault s0 w0 cx 0 kind bad
  else if w0.books.svc.isSome then s0.putWick (w0.holdTrap cx t)
  else
    match w0.freeLog with
    | none => s0.putWick (w0.stalled 12)
    | some e =>
      let recs := laneRecs s0 w0 cx.pc 0 (some e) kind bad
      if s0.ringFull w0.info.ctx recs.length then s0.putWick (w0.stalled 12)
      else
        let s1 := advance s cx i (pcNext cx.pc)
        let s2 := s1.modWick cx.uid (fun w => { w with books := { w.books with
          iseq := if i.isChange then w0.books.iseq + 1 else w.books.iseq
          log := w.books.log.setIfInBounds e (mkEntry w0 cx i done bad kind foot whole) } })
        wickFaults s2 cx.uid w0.info.ctx recs

/-- The outcome of a meaning takes effect. -/
def settle (s : State) (w : Wick) (cx : Cx) (i : Instr) : Eff → State
  | .next s' => advance s' cx i (pcNext cx.pc)
  | .jump s' pc => advance (s'.holdTarget cx.uid cx.f pc) cx i pc
  | .stay s' => s'
  | .trap t => raiseTrap s w cx t
  | .wait why => s.putWick (w.waits cx.f why)
  | .fault s' done bad kind foot whole => logFault s w cx i s' done bad kind foot whole
  | .fetchFault s' va p => fetchFails s' w cx va p

/-- The stores of a speculation performed in program order, and its end (13 R278). -/
def commitSvc (s : State) (w : Wick) : State :=
  let w' := { w with books := { w.books with svc := none, reply := none, ssb := [], held := none } }
  (w.books.ssb.foldl (fun (s : State) st => s.storeCells st.cells) { s with snaps := s.snaps.filter (fun x => x.info.uid != w.info.uid) }).putWick w'

/-- The wick goes back to just after the SVC, with the reply (13 R278). -/
def rollbackSvc (s : State) (w : Wick) (value : Option Word) : State :=
  match s.snaps.find? (fun x => x.info.uid == w.info.uid), w.books.svc with
  | some w0, some c =>
    -- what other fragments wait for, and answers that have come, stand as they are
    let frags := Vector.ofFn (fun i : Fin 8 => { w0.frag i.val with wait := (w.frag i.val).wait })
    let w1 := { w0 with info := w.info, frags := frags, books := { w0.books with stall := w.books.stall } }
    let w2 := match value with
      | some v => (w1.wrS c.frag c.d v)
      | none => w1
    match value with
    | some _ =>
      let w3 := { w2 with books := { w2.books with svc := none, reply := none, ssb := [], held := none } }
      { s with snaps := s.snaps.filter (fun x => x.info.uid != w.info.uid) }.putWick w3
    | none => s.putWick { w2 with books := { w2.books with svc := w.books.svc, reply := w.books.reply, ssb := [], held := none } }
  | _, _ => s

/-- The reply is compared with the prediction: commit, raising the trap that is held, or rollback (13 R277, R278). -/
def resolveSvc (s : State) (w : Wick) : State :=
  match w.books.svc, w.books.reply with
  | some c, some v =>
    if c.pred = some v then
      let s' := commitSvc s w
      match w.books.held with
      | some t =>
        -- a page fault is met again; a debug stop follows at the boundary (21 R415)
        if (0x28 ≤ t.cause && t.cause ≤ 0x2A) || t.cause == 0x0C then s'
        else match s'.findWick w.info.uid with
          | some w' => takeTrap s' w' w.books.heldAt.1 w.books.heldAt.2 t
          | none => s'
      | none => s'
    else rollbackSvc s w (some v)
  | _, _ => s

/-- A wick whose trap is held waits for the reply before it fetches anything, and then takes it (13 R277). -/
def heldTurn (s : State) (w : Wick) : Option State :=
  if w.books.svc.isSome && w.books.held.isSome && !w.trap.sl && !w.inAccess then
    some (if w.books.reply.isSome then resolveSvc s w else s.putWick (w.stalled 13))
  else none

/-- A wick whose last lane has retired exits (01 R17); w is the wick as it issued. -/
def sweepExit (s : State) (w : Wick) (cx : Cx) : State :=
  match s.findWick w.info.uid with
  | some w' => if w'.info.stage == .exited then exitWick s w' cx.pc w.live else s
  | none => s

/-- The step of a wick's instruction: issue, then the meaning's body under the context, then its outcome. -/
def wickStep (i : Instr) (s : State) (body : State → Wick → Cx → Eff) : Host.Outcome State Fault Refusal :=
  match s.cur with
  | .wick uid f =>
    match s.findWick uid with
    | none => .fault .noWick
    | some w =>
      match issueOf i w f with
      | .trap cx c => .next (raiseTrap s w cx { cause := c })
      | .skip cx => .next (advance s cx .mNode (pcNext cx.pc))
      | .wait cx why => .next (s.putWick (w.waits cx.f why))
      | .resolve _ => .next (resolveSvc s w)
      | .go cx =>
        match w.portCheck i with
        | some (.inl why) => .next (s.putWick (w.waits cx.f why))
        | some (.inr t) => .next (raiseTrap s w cx t)
        | none => .next (sweepExit (settle s w cx i (body s w cx)) w cx)
  | _ => .fault .noWick

/-- A form that acts once for the wick and does nothing when no lane is active (05 R126). -/
def once (cx : Cx) (s : State) (e : Eff) : Eff := if cx.act = 0 then .next s else e

/-- A step that touches only the wick's own registers. -/
def regStep (i : Instr) (s : State) (body : Wick → Cx → Wick) : Host.Outcome State Fault Refusal :=
  wickStep i s (fun s w cx => .next (s.putWick (body w cx)))

/-- 01 R27: the conditions of a wick-wide instruction. -/
def wickWide (w : Wick) (cx : Cx) : Bool :=
  (w.frag 0).state == .running && cx.f == 0 && (w.frags.toList.drop 1).all (fun g => g.state == .free) && w.serial.isEmpty
    && (w.frag 0).mask == fullMask && cx.act == fullMask

end Sys2Proof.Machine
end

