-- ==== Sys2Proof/Machine/Cont.lean ====
section
/-! DEFINITION. Continuation records and the lanes that leave a wick; the retiring of lanes, fusion and the serial list
(spec/01_execution_model.md R17 to R25, spec/14_rendering_and_lantern.md R298 to R301). -/

namespace Sys2Proof.Machine

/-! ### Lanes that retire -/

/-- The children of a split-table entry. -/
def Wick.children (w : Wick) (p : Nat) : List Nat :=
  (List.range 8).filter (fun j => (w.frag j).parent == p && j != p && (w.frag j).state != .free)

/-- The most recent serial-list record a fragment owns, by its place (01 R21). -/
def Wick.lastRec (w : Wick) (f : Nat) : Option (Nat × SerialRec) :=
  (w.serial.zipIdx.reverse.find? (fun (r, _) => r.owner == f)).map (fun (r, i) => (i, r))

/-- A record's snapshot returned to its owner, which goes on at pc with this mask, and with the call depth a split would give it (01 R24, 06
R146). -/
def Wick.resumeRec (w : Wick) (r : SerialRec) (mask : Mask) (pc : Word) : Wick :=
  w.modFrag r.owner (fun g => { g with mask := mask, pc := pc, qv := r.qv, own := r.own, cd := r.cd, state := .running })

/-- The owner reaches the JOIN of its record (01 R24): from phase 1 with U nonempty it runs U; otherwise the record goes. -/
def Wick.closeRec (w : Wick) (i : Nat) (r : SerialRec) : Wick :=
  if !r.phase2 && r.u &&& w.live != 0 then
    { w.resumeRec r (r.u &&& w.live) r.e with serial := modAt w.serial i (fun x => { x with phase2 := true }) }
  else { w.resumeRec r (r.all &&& w.live) (pcNext r.j) with serial := w.serial.eraseIdx i }

/-- The children of p fuse when each has exited or waits (01 R22). -/
def Wick.fuse (w : Wick) (p : Nat) : Option Wick :=
  let ch := w.children p
  if (w.frag p).state == .parent && ch.all (fun j => (w.frag j).state == .exited || (w.frag j).state == .waiting) then
    let mask := ch.foldl (fun m j => if (w.frag j).state == .waiting then m ||| (w.frag j).mask else m) 0
    let w' := ch.foldl (fun w j => w.modFrag j (fun _ => {})) w
    some (w'.modFrag p (fun g => { g with state := .running, mask := mask, pc := pcNext g.joinPc, joinPc := 0 }))
  else none

/-- What follows when a fragment's mask may be empty or it waits: records close (01 R24), fragments exit and fuse (01 R22,
R23). Each step closes a record or a fragment, so fuel bounds them. -/
def Wick.settleFrag (w : Wick) (f : Nat) : Nat → Wick
  | 0 => w
  | fuel + 1 =>
    let g := w.frag f
    if g.state == .running && g.mask == 0 then
      match w.lastRec f with
      | some (i, r) => (w.closeRec i r).settleFrag f fuel
      | none =>
        let w' := w.modFrag f (fun g => { g with state := .exited })
        if f = 0 then w' else w'.settleFrag g.parent fuel
    else if g.state == .parent then
      match w.fuse f with
      | some w' => w'.settleFrag f fuel
      | none => w
    else w

/-- The wick has exited when no lane is left (01 R17). -/
def Wick.checkExit (w : Wick) : Wick := if w.live = 0 then { w with info := { w.info with stage := .exited } } else w

/-- Lanes of a fragment retire for good (01 R17, R23). -/
def Wick.retire (w : Wick) (f : Nat) (lanes : Mask) : Wick :=
  let w1 := { w with live := w.live &&& ~~~ lanes }
  let w2 := w1.modFrag f (fun g => { g with mask := g.mask &&& ~~~ lanes })
  (w2.settleFrag f 40).checkExit

/-! ### Continuation records -/

/-- Records the context's pool holds (14 R298, 16 R329 CPSIZE). -/
def State.poolSize (s : State) (c : Nat) : Nat := s.ctxReg c 0x0A

/-- Pool slots in use. -/
def State.poolUsed (s : State) (c : Nat) : List Nat := (s.conts.filter (fun r => r.ctx == c)).map ContRec.slot

/-- Free slots of the pool, at most n of them, lowest first. -/
def State.poolFree (s : State) (c n : Nat) : List Nat :=
  let used := s.poolUsed c
  ((List.range (min (s.poolSize c) (used.length + n))).filter (fun i => !used.contains i)).take n

/-- The 128 bytes of a record (14 R298). -/
def ContRec.image (r : ContRec) : Nat :=
  r.cpc.toNat + at_ (r.rank % 2 ^ 24) 64 + at_ (r.lane % 32) 88 + at_ (r.kind % 8) 93 + at_ r.lmask.toNat 96
    + at_ ((r.tile.getD 0) % 2 ^ 16) 112 + at_ r.handle.toNat 128 + at_ (packElems 32 (r.result.toList.map BitVec.toNat)) 192
    + at_ r.lseq.toNat 320 + at_ (packElems 32 (r.vals.toList.map BitVec.toNat)) 512

/-- A record as it stands in the pool's memory (14 R298). -/
def State.storeRec (s : State) (r : ContRec) : State :=
  match s.ctxWrite r.ctx (s.ctxReg r.ctx 0x09 + 128 * r.slot) 128 r.image with
  | .ok s' => s'
  | .error _ => s

/-- A record becomes final: it may be gathered (14 R300). -/
def State.finalize (s : State) (uid : Nat) (result : Vector Lane 4) : State :=
  let s1 := { s with
    conts := modFirst (fun (r : ContRec) => r.uid == uid) (fun (r : ContRec) => { r with result := result, final := some s.now }) s.conts }
  match s1.conts.find? (fun (r : ContRec) => r.uid == uid) with
  | some r =>
    -- records wait in the order in which they became final
    let s2 := { s1 with conts := s1.conts.filter (fun (x : ContRec) => x.uid != uid) ++ [r], finals := s1.finals + 1 }
    s2.storeRec r
  | none => s1

/-- The origin of a lane: a continuation wick's lanes carry their own (01 R18). -/
def WickInfo.originOf (i : WickInfo) (lane : Nat) : Origin :=
  match i.kind with
  | .continuation => i.origin[lane]?.getD ⟨0, 0⟩
  | _ => ⟨i.rank, lane⟩

/-- The record of one lane that leaves (14 R298, R299). -/
def mkCont (s : State) (w : Wick) (lane slot kind : Nat) (cpc handle : Word) (lmask : BitVec 16) : ContRec :=
  let o := w.info.originOf lane
  { uid := s.nextUid, ctx := w.info.ctx, pkt := w.info.pkt, slot := slot, cpc := cpc, rank := o.rank, lane := o.lane, kind := kind,
    lmask := lmask, tile := w.info.tile.map TileRef.tile, handle := handle, lseq := w.info.lseq, cluster := w.info.cluster,
    core := w.info.core,
    vals := Vector.ofFn (fun j : Fin 16 => if lmask.getLsbD j.val then (w.rdV j.val).lane lane else 0) }

/-- The records of these lanes with the uid each gets, or nothing while the pool has no room for them (14 R298). -/
def State.pushConts (s : State) (w : Wick) (lanes : List Nat) (kind : Nat) (cpc handle : Nat → Word) (lmask : BitVec 16) :
    Option (State × List (Nat × Nat)) :=
  let free := s.poolFree w.info.ctx lanes.length
  if free.length < lanes.length then none
  else
    some ((lanes.zip free).foldl (fun (acc : State × List (Nat × Nat)) (x : Nat × Nat) =>
      let (s, l) := acc
      let r := mkCont s w x.1 x.2 kind (cpc x.1) (handle x.1) lmask
      ({ s with nextUid := s.nextUid + 1, conts := s.conts ++ [r] }.storeRec r, l ++ [(x.1, r.uid)])) (s, []))

end Sys2Proof.Machine
end

