-- ==== Sys2Proof/Machine/Operands.lean ====
section
/-! DEFINITION. Operands of the scalar and vector forms: how a field's value is read under a TY, the immediate, the modifiers,
the writing of a result, and the shape it has (spec/02_registers_and_operands.md R50 to R57,
spec/03_number_formats.md R68 to R70, spec/05_encoding_and_assembly.md R128). -/

namespace Sys2Proof.Machine

/-! ### Formats of a type -/

/-- The floating-point format of a type's elements (03 R69). -/
def fmtOf : Ty → Fmt
  | .f64 => fF64
  | .f16x2 => fF16
  | .bf16x2 => fBF16
  | .e4m3x4 => fE4M3
  | .e5m2x4 => fE5M2
  | _ => fF32

/-- DEC of an integer element (03 R81). -/
def decI (t : Ty) (x : Nat) : Int := if t.signed then sextN x t.ew else ((x % 2 ^ t.ew : Nat) : Int)

/-- ABSA then NEGA on an exact integer (05 R128). -/
def modI (absa nega : Bool) (x : Int) : Int :=
  let y := if absa then (x.natAbs : Int) else x
  if nega then -y else y

/-- ABSA then NEGA on the sign bit of a floating-point element of width w (05 R128). -/
def modF (absa nega : Bool) (w x : Nat) : Nat :=
  let y := if absa then x % 2 ^ (w - 1) else x % 2 ^ w
  if nega then (y + 2 ^ (w - 1)) % 2 ^ w else y

/-! ### Immediates -/

/-- The immediate as operand B (05 R128). -/
def immB (t : Ty) (imm : BitVec 32) : Nat :=
  match t with
  | .i64 => (imm.signExtend 64).toNat
  | .f64 => (rnd fF64 .rne false false 0 (dec fF32 false imm.toNat)).pat
  | _ => imm.toNat

/-! ### Scalars -/

/-- A scalar source under a TY: bits [31:0] or all 64 (02 R51). -/
def rdScalar (w : Wick) (f n : Nat) (t : Ty) : Nat := (w.rdS f n).toNat % 2 ^ t.ow

/-- Operand B of a scalar form. -/
def scalarB (w : Wick) (f : Nat) (o : OpV) : Nat := if o.ib then immB o.ty o.imm else rdScalar w f o.b.toNat o.ty

/-- The 64-bit result of a scalar form (02 R51). -/
def extResult (t : Ty) (x : Nat) : Word :=
  match t with
  | .i32 => (BitVec.ofNat 32 x).signExtend 64
  | _ => BitVec.ofNat 64 (x % 2 ^ t.ow)

/-- A form's elements one by one: from the elements of a, b and c to those of the result (03 R68). -/
def mapElems (t : Ty) (op : Nat → Nat → Nat → Nat) (a b c : Nat) : Nat :=
  packElems t.ew ((List.range t.count).map (fun j => op (fld a (t.ew * j) t.ew) (fld b (t.ew * j) t.ew) (fld c (t.ew * j) t.ew)))

/-! ### Vectors -/

/-- Lane i of a vector source under a TY: 32 bits, or 64 from an even pair (02 R50). -/
def rdLane (w : Wick) (t : Ty) (r i : Nat) : Nat :=
  if t.is64 then ((w.rdV r).lane i).toNat + 2 ^ 32 * ((w.rdV (r + 1)).lane i).toNat else ((w.rdV r).lane i).toNat

/-- The operand is U: of a pair, both registers (02 R53, R57). -/
def isUniform (w : Wick) (t : Ty) (r : Nat) : Bool := (w.rdV r).isU && (!t.is64 || (w.rdV (r + 1)).isU)

/-- A vector source: its lanes and whether it is U. -/
structure VSrc where
  lane : Nat → Nat
  uni : Bool

def vsrc (w : Wick) (t : Ty) (r : BitVec 8) : VSrc := ⟨rdLane w t r.toNat, isUniform w t r.toNat⟩

/-- An immediate counts as U (02 R53). -/
def isrc (x : Nat) : VSrc := ⟨fun _ => x, true⟩

/-- Operand B of a vector form. -/
def vsrcB (w : Wick) (o : OpV) : VSrc := if o.ib then isrc (immB o.ty o.imm) else vsrc w o.ty o.b

/-- Operand B of a form that reads it as one 32-bit value whatever its TY (05 R128). -/
def vsrcB32 (w : Wick) (o : OpV) : VSrc := if o.ib then isrc o.imm.toNat else vsrc w .b32 o.b

/-- The registers a result writes: one, or a pair, U when it is uniform and G otherwise (02 R53, R57). -/
def vresult (t : Ty) (d : Nat) (uni : Bool) (x : Nat → Nat) : List (Nat × VReg) :=
  let part (sh : Nat) : VReg :=
    if uni then .u (BitVec.ofNat 32 (x 0 >>> sh)) else VReg.ofLanes (fun i => BitVec.ofNat 32 (x i >>> sh))
  if t.is64 then [(d, part 0), (d + 1, part 32)] else [(d, part 0)]

/-- The results written, or the shape fault (02 R54, R55). -/
def writeVec (s : State) (w : Wick) (cx : Cx) (rs : List (Nat × VReg)) : Eff :=
  if rs.any (fun (n, r) => shapeBad cx.live cx.act n r) then .trap { cause := 0x07 }
  else .next (s.putWick (rs.foldl (fun w (n, r) => w.wrV cx.live cx.act n r) w))

/-- The compact form of a source that is U or A (02 R52). -/
def VReg.compact : VReg → Option (Lane × Lane)
  | .u v => some (v, 0)
  | .a b st => some (b, st)
  | .g _ => none

/-- 02 R53 for a sum or difference of U and A sources, one of them A. -/
def affineAdd (sub : Bool) (a b : VReg) : Option VReg :=
  if a.isU && b.isU then none
  else
    match a.compact, b.compact with
    | some (x, sx), some (y, sy) => some (if sub then .a (x - y) (sx - sy) else .a (x + y) (sx + sy))
    | _, _ => none

/-- 02 R53 for a product of an A and a U source. -/
def affineMul (a b : VReg) : Option VReg :=
  match a, b with
  | .a x sx, .u v => some (.a (x * v) (sx * v))
  | .u v, .a x sx => some (.a (x * v) (sx * v))
  | _, _ => none

/-- NEGA on a compact source (02 R53). -/
def VReg.negIf (n : Bool) (r : VReg) : VReg :=
  if n then
    match r with
    | .u v => .u (-v)
    | .a b st => .a (-b) (-st)
    | .g l => .g l
  else r

/-- B as a register value for the affine rows. -/
def regB (w : Wick) (o : OpV) : VReg := if o.ib then .u o.imm else w.rdV o.b.toNat

/-- TY and modifiers under which the affine rows apply (02 R53). -/
def affineOk (o : OpV) : Bool := (o.ty == .b32 || o.ty == .i32 || o.ty == .n32) && !o.sat && !o.absa

end Sys2Proof.Machine
end

