-- ==== Sys2Proof/Machine/Flags.lean ====
section
/-! DEFINITION. The floating-point flags and the stochastic draws of the scalar and vector forms
(spec/02_registers_and_operands.md R63, spec/03_number_formats.md R76 to R79). -/

namespace Sys2Proof.Machine

/-- Flags raised into FPSTAT (02 R63). -/
def Wick.raise (w : Wick) (fl : BitVec 5) : Wick := { w with regs := { w.regs with fpstat := w.regs.fpstat ||| fl } }

/-- Generator i (03 R78): 0 to 31 for the lanes, 32 for scalars. -/
def Wick.gen (w : Wick) (i : Nat) : BitVec 32 := w.regs.gens[i]?.getD 0

def Wick.setGen (w : Wick) (i : Nat) (x : BitVec 32) : Wick := { w with regs := { w.regs with gens := w.regs.gens.setIfInBounds i x } }

/-- n draws of a generator: its next states, which are the draws, in order (03 R78). -/
def draws : Nat → BitVec 32 → List (BitVec 32)
  | 0, _ => []
  | n + 1, st => drawNext st :: draws n (drawNext st)

/-- The draw an element uses: the j-th of its lane's generator under STO, none otherwise. -/
def drawFor (rm : Rm) (st : BitVec 32) (j : Nat) : Nat :=
  if rm = .sto then ((draws (j + 1) st)[j]?.getD 0).toNat else 0

/-- n draws taken from generator i under STO. -/
def Wick.drew (w : Wick) (rm : Rm) (i n : Nat) : Wick :=
  if rm = .sto then w.setGen i (((draws n (w.gen i)).getLast?).getD (w.gen i)) else w

/-- The draws of the active lanes, n each. -/
def Wick.drewLanes (w : Wick) (rm : Rm) (act : Mask) (n : Nat) : Wick :=
  if rm = .sto then (lanesOf act).foldl (fun w i => w.drew rm i n) w else w

/-- An element function of a floating-point form: the draw, then the patterns of a, b and c. -/
abbrev FElem := Nat → Nat → Nat → Nat → Rounded

/-- One operand of floating-point elements: patterns packed and flags joined. -/
def fElems (ew n : Nat) (rm : Rm) (st : BitVec 32) (el : FElem) (a b c : Nat) : Rounded :=
  let rs := (List.range n).map (fun j => el (drawFor rm st j) (fld a (ew * j) ew) (fld b (ew * j) ew) (fld c (ew * j) ew))
  ⟨packElems ew (rs.map Rounded.pat), (rs.map Rounded.fl).foldl (· ||| ·) 0⟩

/-- A floating-point vector form: t gives the result's elements, n draws a lane takes; U sources without STO compute once
(02 R53, R63, 03 R78). -/
def fvec (s : State) (w : Wick) (cx : Cx) (t : Ty) (d : Nat) (rm : Rm) (n : Nat) (uni : Bool) (lane : Nat → BitVec 32 → Rounded) : Eff :=
  let uni' := uni && rm != .sto
  let fl : BitVec 5 :=
    if uni' then (if cx.act = 0 then 0 else (lane 0 0).fl)
    else (lanesOf cx.act).foldl (fun acc i => acc ||| (lane i (w.gen i)).fl) 0
  let rs := vresult t d uni' (fun i => (lane i (w.gen i)).pat)
  writeVec s ((w.drewLanes rm cx.act n).raise fl) cx rs

/-- A scalar rounding step: one draw of generator 32 under STO (06 R153). -/
def Wick.scalarF (w : Wick) (rm : Rm) (f : Nat → Rounded) : Wick × Nat :=
  let r := f (drawFor rm (w.gen 32) 0)
  ((w.drew rm 32 1).raise r.fl, r.pat)

end Sys2Proof.Machine
end

