-- ==== Sys2Proof/Machine/Control.lean ====
section
/-! DEFINITION. The control forms (spec/06_control_and_arithmetic.md R144 to R151). -/

namespace Sys2Proof.Machine

/-- TGT (05 R131). -/
def tgt (cx : Cx) (o : OpC) : Word :=
  BitVec.ofNat 64 (pcLine cx.pc) + (o.off.signExtend 64) * 64 + BitVec.ofNat 64 (12 * o.slot.toNat)

/-- TGT2 (05 R131). -/
def tgt2 (cx : Cx) (o : OpC) : Word :=
  BitVec.ofNat 64 (pcLine cx.pc) + (o.off2.signExtend 64) * 64 + BitVec.ofNat 64 (12 * o.slot2.toNat)

/-- A branch that is taken or not (06 R145). -/
def branch (s : State) (w : Wick) (cx : Cx) (o : OpC) (taken : Bool) : Eff :=
  if taken then transfer s w cx (tgt cx o) else .next s

def execNop (h : Hdr) (o : OpC) (s : State) : Host.Outcome State Fault Refusal := wickStep (.nop h o) s (fun s _ _ => .next s)

def execBra (h : Hdr) (o : OpC) (s : State) : Host.Outcome State Fault Refusal :=
  wickStep (.bra h o) s (fun s w cx => branch s w cx o true)

/-- BRQ's condition (06 R145). -/
def brqTaken (w : Wick) (cx : Cx) (o : OpC) : Bool := w.rdQ cx.f o.cq.toNat != o.cm.getLsbD 0

def execBrq (h : Hdr) (o : OpC) (s : State) : Host.Outcome State Fault Refusal :=
  wickStep (.brq h o) s (fun s w cx => branch s w cx o (brqTaken w cx o))

/-- BRP's condition (06 R145) on the fragment's lane mask: TFRAG's in single-lane mode. -/
def brpTaken (w : Wick) (cx : Cx) (o : OpC) : Bool :=
  let f := (w.frag cx.f).mask
  let m := w.rdP o.cq.toNat &&& f
  match o.cm.toNat with
  | 0 => m != 0
  | 1 => m == f
  | 2 => m == 0
  | _ => m != f

def execBrp (h : Hdr) (o : OpC) (s : State) : Host.Outcome State Fault Refusal :=
  wickStep (.brp h o) s (fun s w cx => branch s w cx o (brpTaken w cx o))

/-- BRS's condition (06 R145). -/
def brsTaken (w : Wick) (cx : Cx) (o : OpC) : Bool :=
  let a := w.rdS cx.f o.s.toNat
  let b := w.rdS cx.f o.s2.toNat
  match o.cm.toNat with
  | 0 => a == b
  | 1 => a != b
  | 2 => a.slt b
  | 3 => !a.slt b
  | 4 => a.ult b
  | _ => !a.ult b

def execBrs (h : Hdr) (o : OpC) (s : State) : Host.Outcome State Fault Refusal :=
  wickStep (.brs h o) s (fun s w cx => branch s w cx o (brsTaken w cx o))

/-- LOOP writes its counter also when its branch then traps (06 R145): the trap is taken on the decremented counter. -/
def loopBody (s : State) (w : Wick) (cx : Cx) (o : OpC) : Eff :=
  let n := w.rdS cx.f o.s.toNat - 1
  let w' := w.wrS cx.f o.s.toNat n
  let s' := s.putWick w'
  if n = 0 then .next s'
  else
    match transfer s' w' cx (tgt cx o) with
    | .trap t => .stay (raiseTrap s' w' cx t)
    -- the counter is written once: while the line cannot be fetched, nothing has happened
    | .fetchFault _ va p => .fetchFault s va p
    | e => e

def execLoop (h : Hdr) (o : OpC) (s : State) : Host.Outcome State Fault Refusal :=
  wickStep (.loop h o) s (fun s w cx => loopBody s w cx o)

/-! ### Calls (06 R146) -/

/-- CD of the fragment. -/
def Wick.cd (w : Wick) (cx : Cx) : Nat := (w.frag cx.f).cd

/-- A call to a checked target: the link, and CD outside single-lane mode (16 R325). -/
def callTo (s : State) (w : Wick) (cx : Cx) (link : Nat) (target : Word) : Eff :=
  if !cx.sl && w.cd cx ≥ 16 then .trap { cause := 0x0B }
  else
    let w1 := w.wrS cx.f link (pcNext cx.pc)
    let w2 := if cx.sl then w1 else w1.modFrag cx.f (fun g => { g with cd := g.cd + 1 })
    transfer (s.putWick w2) w cx target

def execCall (h : Hdr) (o : OpC) (s : State) : Host.Outcome State Fault Refusal :=
  wickStep (.call h o) s (fun s w cx => callTo s w cx o.s.toNat (tgt cx o))

/-- CALLI reads its target first, and checks it before the depth (06 R146). -/
def calliBody (s : State) (w : Wick) (cx : Cx) (o : OpC) : Eff :=
  let t := w.rdS cx.f o.s2.toNat
  match checkTarget s w.info.coreId w.info.ctx cx.sl t with
  | (.bad, _) => .trap { cause := 0x03, val := t }
  | (.noLine p, s') => .fetchFault s' (pcLine t) p
  | (.ok, s') => callTo s' w cx o.s.toNat t

def execCalli (h : Hdr) (o : OpC) (s : State) : Host.Outcome State Fault Refusal :=
  wickStep (.calli h o) s (fun s w cx => calliBody s w cx o)

/-- FGEN[d] advanced, skipping 0 (06 R146). -/
def Wick.bumpFgen (w : Wick) (d : Nat) : Wick :=
  { w with regs := { w.regs with fgen := w.regs.fgen.setIfInBounds (d - 1) (genNext (w.regs.fgen[d - 1]?.getD 0)) } }

/-- The wick began with a closure (13 R268, R269, 14 R317). -/
def WickInfo.beganWithClosure (i : WickInfo) : Bool :=
  i.kind == .closure || i.kind == .callback
    || (match i.cont with
        | some c => c.kind == 4 || c.kind == 6
        | none => false)

/-- The trap of the lanes that fail, with the handle of the lowest. -/
def handleTrap (cause : Nat) (hd : Nat → Word) (lanes : List Nat) : Option TrapInfo :=
  match lanes with
  | [] => none
  | i :: _ => some { cause := cause, mask := maskOf (fun l => lanes.contains l), val := hd i }

/-- A RET at depth 0 that ends a closure: lanes of an APPLY.V wick become KIND 5 records and release their references, each as
KREL would, so a handle that is not valid for some lane raises the stale-closure trap before any lane leaves (13 R264, R268, log 116); in the
other closure wicks the fragment's lanes retire (13 R269, 14 R317). -/
def endClosure (s : State) (w : Wick) (cx : Cx) : Eff :=
  match w.info.cont with
  | some c =>
    if c.kind = 4 then
      let held := if s.handleValid w.info.ctx c.handle then (s.handleEntry w.info.ctx c.handle).refcnt else 0
      match handleTrap 0x1C (fun _ => c.handle) ((lanesOf cx.mask).drop held) with
      | some t => .trap t
      | none =>
      match s.pushConts w (lanesOf cx.mask) 5 (fun _ => c.cpc) (fun _ => 0) 0xFFFF with
      | none => .wait 8
      | some (s1, recs) =>
        let s2 := recs.foldl (fun s (_, u) => s.finalize u (Vector.replicate 4 0)) s1
        let s3 := recs.foldl (fun s _ => s.release w.info.ctx c.handle) s2
        .stay (s3.putWick (w.retire cx.f cx.mask))
    else .stay (s.putWick (w.retire cx.f cx.mask))
  | none => .stay (s.putWick (w.retire cx.f cx.mask))

/-- RET (06 R146); from a frame that APPLY entered it restores k15 and releases the reference as KREL would, its handle checked after the
target (13 R267, R264, log 116). The access slice has frames of its own, none of them a closure's (19 R389). -/
def retBody (s : State) (w : Wick) (cx : Cx) (o : OpC) : Eff :=
  let t := w.rdS cx.f o.s.toNat
  let d := w.cd cx
  if !cx.sl && d = 0 then (if w.info.beganWithClosure && !w.inAccess then endClosure s w cx else .trap { cause := 0x0B })
  else
    match checkTarget s w.info.coreId w.info.ctx cx.sl t with
    | (.bad, _) => .trap { cause := 0x03, val := t }
    | (.noLine p, s') => .fetchFault s' (pcLine t) p
    | (.ok, s') =>
      if cx.sl then .jump s' t
      else if w.inAccess then .jump (s'.putWick (w.modFrag cx.f (fun g => { g with cd := d - 1 }))) t
      else
        let w1 := (w.bumpFgen d).modFrag cx.f (fun g => { g with cd := d - 1 })
        if w.regs.kframe[d - 1]?.getD false then
          let hd := w.rdK 15
          if hd != 0 && !s.handleValid w.info.ctx hd then .trap { cause := 0x1C, val := hd }
          else
            let s2 := if hd = 0 then s' else s'.release w.info.ctx hd
            let w2 := w1.wrK 15 (w.regs.klink[d - 1]?.getD 0)
            .jump (s2.putWick { w2 with regs := { w2.regs with kframe := w2.regs.kframe.setIfInBounds (d - 1) false } }) t
        else .jump (s'.putWick w1) t

def execRet (h : Hdr) (o : OpC) (s : State) : Host.Outcome State Fault Refusal :=
  wickStep (.ret h o) s (fun s w cx => retBody s w cx o)

/-! ### FORK, JOIN and EXIT -/

/-- Free split-table entries. -/
def Wick.freeFrags (w : Wick) : List Nat := (List.range 8).filter (fun j => j != 0 && (w.frag j).state == .free)

/-- The split (01 R19). -/
def Wick.split (w : Wick) (cx : Cx) (t u : Mask) (e j : Word) (a b : Nat) : Wick :=
  let g := w.frag cx.f
  let child (mask : Mask) (pc : Word) : Frag :=
    { mask := mask, qv := g.qv, parent := cx.f, state := .running, level := g.level + 1, pc := pc, own := g.own, cd := g.cd, lru := g.lru }
  let w1 := w.modFrag a (fun _ => child t (pcNext cx.pc))
  let w2 := w1.modFrag b (fun _ => child u e)
  w2.modFrag cx.f (fun g => { g with state := .parent, joinPc := j })

/-- The record of a FORK that runs its sides in sequence (01 R24). -/
def Wick.serialise (w : Wick) (cx : Cx) (t u : Mask) (e j : Word) (full : Bool) : Wick :=
  let g := w.frag cx.f
  let r : SerialRec := ⟨e, j, u, g.qv, cx.f, t == 0, g.own, cx.mask, g.cd⟩
  let w1 := { w with serial := w.serial ++ [r] }
  let w2 := if full then
      { w1 with regs := { w1.regs with forkser := if w1.regs.forkser = 0xFFFFFFFF then w1.regs.forkser else w1.regs.forkser + 1 } }
    else w1
  if t = 0 then w2.modFrag cx.f (fun g => { g with mask := u, pc := e })
  else w2.modFrag cx.f (fun g => { g with mask := t, pc := pcNext cx.pc })

/-- FORK (06 R148, 01 R19, R24). -/
def forkBody (s : State) (w : Wick) (cx : Cx) (o : OpC) : Eff :=
  let t := cx.mask &&& w.rdP o.cq.toNat
  let u := cx.mask &&& ~~~ (w.rdP o.cq.toNat)
  let e := tgt cx o
  match checkTarget s w.info.coreId w.info.ctx cx.sl e with
  | (.bad, _) => .trap { cause := 0x03, val := e }
  | (.noLine p, s') => .fetchFault s' (pcLine e) p
  | (.ok, s') =>
    let set (w : Wick) : Eff := .stay (s'.putWick (w.modFrag cx.f (fun g => { g with lru := s.now })))
    match w.freeFrags, t == 0 || u == 0 with
    | a :: b :: _, false => set (w.split cx t u e (tgt2 cx o) a b)
    | _, empty =>
      if w.serial.length ≥ 16 then .trap { cause := 0x09 }
      else set (w.serialise cx t u e (tgt2 cx o) (!empty))

def execFork (h : Hdr) (o : OpC) (s : State) : Host.Outcome State Fault Refusal :=
  wickStep (.fork h o) s (fun s w cx => forkBody s w cx o)

/-- JOIN (01 R21, R22, R24, 06 R147). -/
def joinBody (s : State) (w : Wick) (cx : Cx) : Eff :=
  match w.lastRec cx.f with
  | some (i, r) =>
    if r.j != cx.pc || r.cd != w.cd cx then .trap { cause := 0x08 }
    else .stay (s.putWick (((w.closeRec i r).settleFrag cx.f 40).checkExit))
  | none =>
    let p := (w.frag cx.f).parent
    if cx.f = 0 then .next s
    else if (w.frag p).joinPc != cx.pc || (w.frag p).cd != w.cd cx then .trap { cause := 0x08 }
    else .stay (s.putWick (((w.modFrag cx.f (fun g => { g with state := .waiting })).settleFrag p 40).checkExit))

def execJoin (h : Hdr) (o : OpC) (s : State) : Host.Outcome State Fault Refusal :=
  wickStep (.join h o) s (fun s w cx => joinBody s w cx)

/-- EXIT retires the fragment's lanes (01 R23); in the access slice it ends that slice alone (19 R389). -/
def exitBody (s : State) (w : Wick) (cx : Cx) : Eff :=
  if w.inAccess then .stay (s.putWick { w with access := w.access.map (fun a => { a with live := false }) })
  else .stay (s.putWick (w.retire cx.f cx.mask))

def execExit (h : Hdr) (o : OpC) (s : State) : Host.Outcome State Fault Refusal :=
  wickStep (.exit h o) s (fun s w cx => exitBody s w cx)

/-! ### The remaining forms (06 R150, R151) -/

/-- SLEEP: the fragment issues nothing for min(s[S], 2^24) cycles. -/
def sleepBody (s : State) (w : Wick) (cx : Cx) (o : OpC) : Eff :=
  let n := min (w.rdS cx.f o.s.toNat).toNat (2 ^ 24)
  .next (s.putWick (if n = 0 then w else w.modFrag cx.f (fun g => { g with sleep := some (s.clock w.info.cluster + n) })))

def execSleep (h : Hdr) (o : OpC) (s : State) : Host.Outcome State Fault Refusal :=
  wickStep (.sleep h o) s (fun s w cx => sleepBody s w cx o)

def execYield (h : Hdr) (o : OpC) (s : State) : Host.Outcome State Fault Refusal := wickStep (.yield h o) s (fun s _ _ => .next s)

/-- TRAPU records s[S] (06 R151). -/
def execTrapu (h : Hdr) (o : OpC) (s : State) : Host.Outcome State Fault Refusal :=
  wickStep (.trapu h o) s (fun _ w cx => .trap { cause := 0x0D, val := w.rdS cx.f o.s.toNat })

end Sys2Proof.Machine
end

