-- ==== Sys2Proof/Machine/Scalar.lean ====
section
/-! DEFINITION. The scalar forms (spec/06_control_and_arithmetic.md R152 to R154). -/

namespace Sys2Proof.Machine

/-! ### Integer element operations, shared by the scalar and the vector forms (06 R152, R155) -/

/-- The quotient or remainder of 03 R70, narrowed. -/
def divElem (t : Ty) (rem sat : Bool) (a b : Nat) : Nat :=
  let x := decI t a
  let y := decI t b
  if y = 0 then (if rem then a % 2 ^ t.ew else 2 ^ t.ew - 1)
  else narrowI t.signed sat t.ew (if rem then x.tmod y else x.tdiv y)

/-- The high half of a product (06 R152). -/
def mulHi (t : Ty) (absa nega : Bool) (a b : Nat) : Nat :=
  wrapI ((modI absa nega (decI t a) * decI t b) / ((2 ^ t.ew : Nat) : Int)) t.ew

/-- The low half of a product, narrowed. -/
def mulLo (t : Ty) (absa nega sat : Bool) (a b : Nat) : Nat := narrowI t.signed sat t.ew (modI absa nega (decI t a) * decI t b)

def addElem (t : Ty) (absa nega sat sub : Bool) (a b : Nat) : Nat :=
  let x := modI absa nega (decI t a)
  narrowI t.signed sat t.ew (if sub then x - decI t b else x + decI t b)

/-- 06 R152: a shift by c = b mod 2^8. -/
def shlElem (t : Ty) (a b : Nat) : Nat := let c := b % 256; if c ≥ t.ew then 0 else (a <<< c) % 2 ^ t.ew

def shrElem (t : Ty) (a b : Nat) : Nat :=
  let c := b % 256
  if c ≥ t.ew then (if t.signed && a.testBit (t.ew - 1) then 2 ^ t.ew - 1 else 0)
  else wrapI (decI t a / ((2 ^ c : Nat) : Int)) t.ew

def minElem (t : Ty) (absa nega isMax : Bool) (a b : Nat) : Nat :=
  let x := modI absa nega (decI t a)
  let y := decI t b
  narrowI t.signed false t.ew (if isMax then max x y else min x y)

/-- The integer conditions: 0 eq, 1 ne, 2 lt, 3 le, 4 gt, 5 ge. -/
def icond (c : Nat) (x y : Int) : Bool :=
  match c with
  | 0 => x == y
  | 1 => x != y
  | 2 => decide (x < y)
  | 3 => decide (x ≤ y)
  | 4 => decide (x > y)
  | _ => decide (x ≥ y)

/-- SBIT and VBIT: population count, leading zeros, trailing zeros, reversal. -/
def bitElem (w sub a : Nat) : Nat :=
  match sub with
  | 0 => popN w a
  | 1 => clzN w a
  | 2 => ctzN w a
  | _ => brevN w a

/-- SBFX and VBFX: the field of n bits at bit o of an element; bits at or beyond the width read zero and are not written. -/
def bfxElem (t : Ty) (ins : Bool) (on a c : Nat) : Nat :=
  let o := on % 256
  let n := on / 256 % 256
  let a := a % 2 ^ t.ew
  if ins then
    (if n = 0 then a
     else
      let m := ((2 ^ n - 1) <<< o) % 2 ^ t.ew
      (a &&& (2 ^ t.ew - 1 - m)) ||| (((c % 2 ^ n) <<< o) &&& m))
  else if n = 0 then 0
  else if t.signed then wrapI (sextN (fld a o n) n) t.ew else fld a o n % 2 ^ t.ew

/-! ### Scalar integer forms (06 R152) -/

/-- A scalar form with a result in s[D]: the value of the operands under TY. -/
def salu (w : Wick) (cx : Cx) (o : OpV) (op : Nat → Nat → Nat → Nat) (c : Nat) : Wick :=
  w.wrS cx.f o.d.toNat (extResult o.ty (mapElems o.ty op (rdScalar w cx.f o.a.toNat o.ty) (scalarB w cx.f o) c))

def execSadd (h : Hdr) (o : OpV) (s : State) : Host.Outcome State Fault Refusal :=
  regStep (.sadd h o) s (fun w cx => salu w cx o (fun a b _ => addElem o.ty o.absa o.nega o.sat false a b) 0)

def execSsub (h : Hdr) (o : OpV) (s : State) : Host.Outcome State Fault Refusal :=
  regStep (.ssub h o) s (fun w cx => salu w cx o (fun a b _ => addElem o.ty o.absa o.nega o.sat true a b) 0)

def execSmul (h : Hdr) (o : OpV) (s : State) : Host.Outcome State Fault Refusal :=
  regStep (.smul h o) s (fun w cx => salu w cx o (fun a b _ => if h.sub = 1 then mulHi o.ty o.absa o.nega a b else mulLo o.ty o.absa o.nega o.sat a b) 0)

def execSdiv (h : Hdr) (o : OpV) (s : State) : Host.Outcome State Fault Refusal :=
  regStep (.sdiv h o) s (fun w cx => salu w cx o (fun a b _ => divElem o.ty (h.sub = 1) o.sat a b) 0)

def execSand (h : Hdr) (o : OpV) (s : State) : Host.Outcome State Fault Refusal :=
  regStep (.sand h o) s (fun w cx => salu w cx o (fun a b _ => a &&& b) 0)

def execSor (h : Hdr) (o : OpV) (s : State) : Host.Outcome State Fault Refusal :=
  regStep (.sor h o) s (fun w cx => salu w cx o (fun a b _ => a ||| b) 0)

def execSxor (h : Hdr) (o : OpV) (s : State) : Host.Outcome State Fault Refusal :=
  regStep (.sxor h o) s (fun w cx => salu w cx o (fun a b _ => a ^^^ b) 0)

def execSshl (h : Hdr) (o : OpV) (s : State) : Host.Outcome State Fault Refusal :=
  regStep (.sshl h o) s (fun w cx => salu w cx o (fun a b _ => shlElem o.ty a b) 0)

def execSshr (h : Hdr) (o : OpV) (s : State) : Host.Outcome State Fault Refusal :=
  regStep (.sshr h o) s (fun w cx => salu w cx o (fun a b _ => shrElem o.ty a b) 0)

def execSmin (h : Hdr) (o : OpV) (s : State) : Host.Outcome State Fault Refusal :=
  regStep (.smin h o) s (fun w cx => salu w cx o (fun a b _ => minElem o.ty o.absa o.nega false a b) 0)

def execSmax (h : Hdr) (o : OpV) (s : State) : Host.Outcome State Fault Refusal :=
  regStep (.smax h o) s (fun w cx => salu w cx o (fun a b _ => minElem o.ty o.absa o.nega true a b) 0)

/-- SCMP's condition. -/
def scmpCond (w : Wick) (cx : Cx) (h : Hdr) (o : OpV) : Bool :=
  icond h.sub.toNat (modI o.absa o.nega (decI o.ty (rdScalar w cx.f o.a.toNat o.ty))) (decI o.ty (scalarB w cx.f o))

def execScmp (h : Hdr) (o : OpV) (s : State) : Host.Outcome State Fault Refusal :=
  regStep (.scmp h o) s (fun w cx => w.wrQ cx.f o.d.toNat (scmpCond w cx h o))

/-- SSEL moves all 64 bits; an immediate is read under TY. -/
def sselVal (w : Wick) (cx : Cx) (o : OpV) : Word :=
  if w.rdQ cx.f o.c.toNat then w.rdS cx.f o.a.toNat
  else if o.ib then BitVec.ofNat 64 (immB o.ty o.imm) else w.rdS cx.f o.b.toNat

def execSsel (h : Hdr) (o : OpV) (s : State) : Host.Outcome State Fault Refusal :=
  regStep (.ssel h o) s (fun w cx => w.wrS cx.f o.d.toNat (sselVal w cx o))

def execSmov (h : Hdr) (o : OpV) (s : State) : Host.Outcome State Fault Refusal :=
  regStep (.smov h o) s (fun w cx => w.wrS cx.f o.d.toNat (extResult o.ty (if o.ib then immB o.ty o.imm else rdScalar w cx.f o.a.toNat o.ty)))

def execSbit (h : Hdr) (o : OpV) (s : State) : Host.Outcome State Fault Refusal :=
  regStep (.sbit h o) s (fun w cx =>
    w.wrS cx.f o.d.toNat (extResult o.ty (mapElems o.ty (fun a _ _ => bitElem o.ty.ew h.sub.toNat a) (rdScalar w cx.f o.a.toNat o.ty) 0 0)))

/-- B of SBFX: bits [15:0] of the whole operand (06 R152). -/
def sbfxOn (w : Wick) (cx : Cx) (o : OpV) : Nat := if o.ib then o.imm.toNat % 2 ^ 16 else (w.rdS cx.f o.b.toNat).toNat % 2 ^ 16

def execSbfx (h : Hdr) (o : OpV) (s : State) : Host.Outcome State Fault Refusal :=
  regStep (.sbfx h o) s (fun w cx =>
    w.wrS cx.f o.d.toNat (extResult o.ty (mapElems o.ty (fun a _ c => bfxElem o.ty (h.sub = 1) (sbfxOn w cx o) a c)
      (rdScalar w cx.f o.a.toNat o.ty) 0 (rdScalar w cx.f o.c.toNat o.ty))))

def execShi (h : Hdr) (o : OpV) (s : State) : Host.Outcome State Fault Refusal :=
  regStep (.shi h o) s (fun w cx => w.wrS cx.f o.d.toNat (o.imm ++ (w.rdS cx.f o.d.toNat).extractLsb' 0 32))

/-! ### Floating-point element operations (06 R156) -/

/-- The decoded value of an element under FTZ (03 R79). -/
def fdec (w : Wick) (f : Fmt) (x : Nat) : Ex := dec f w.regs.ftz x

/-- SFOP's operations by SUB, on patterns after the modifiers; FADD to FDIV share them. -/
def fop (w : Wick) (f : Fmt) (rm : Rm) (sat : Bool) (sub : Nat) (draw a b c : Nat) : Rounded :=
  let x := fdec w f a
  let y := fdec w f b
  let z := fdec w f c
  let out (e : ExF) : Rounded := rndF f rm sat w.regs.ftz draw e
  match sub with
  | 0 => out (exAdd rm x y)
  | 1 => out (exAdd rm x y.neg)
  | 2 => out (exMul x y)
  | 3 => out (exFma rm x y z)
  | 4 => out (exMinMax false x y)
  | 5 => out (exMinMax true x y)
  | 6 => out (exDiv x y)
  | _ => rndSqrt f rm sat w.regs.ftz draw x

/-- NEGB on an element. -/
def negElem (n : Bool) (w x : Nat) : Nat := modF false n w x

/-- SFOP, with its draw and flags. -/
def sfopRun (w : Wick) (cx : Cx) (h : Hdr) (o : OpV) : Wick :=
  let f := fmtOf o.ty
  let a := modF o.absa o.nega o.ty.ow (rdScalar w cx.f o.a.toNat o.ty)
  let b := negElem o.negb o.ty.ow (scalarB w cx.f o)
  let c := rdScalar w cx.f o.c.toNat o.ty
  -- MIN and MAX choose an operand and round nothing (06 R153)
  let rounds := h.sub != 4 && h.sub != 5
  let r := if rounds then w.scalarF o.rm (fun d => fop w f o.rm o.sat h.sub.toNat d a b c)
    else w.scalarF .rne (fun d => fop w f .rne false h.sub.toNat d a b c)
  r.1.wrS cx.f o.d.toNat (extResult o.ty r.2)

def execSfop (h : Hdr) (o : OpV) (s : State) : Host.Outcome State Fault Refusal :=
  regStep (.sfop h o) s (fun w cx => sfopRun w cx h o)

def execSfcmp (h : Hdr) (o : OpV) (s : State) : Host.Outcome State Fault Refusal :=
  regStep (.sfcmp h o) s (fun w cx =>
    let f := fmtOf o.ty
    let r := fcmp h.sub.toNat (fdec w f (rdScalar w cx.f o.a.toNat o.ty)) (fdec w f (scalarB w cx.f o))
    (w.raise r.2).wrQ cx.f o.d.toNat r.1)

/-- A conversion between two types of 06 R153: pattern, draw. -/
def cvtElem (w : Wick) (dst src : Ty) (rm : Rm) (sat : Bool) (draw x : Nat) : Rounded :=
  if src.isFloat then
    let v := fdec w (fmtOf src) x
    if dst.isFloat then rndF (fmtOf dst) rm sat w.regs.ftz draw (v, sigFl [v]) else ftoi dst.signed dst.ew rm draw v
  else if dst.isFloat then rnd (fmtOf dst) rm sat w.regs.ftz draw (exOfInt (decI src x))
  else ⟨narrowI dst.signed sat dst.ew (decI src x), 0⟩

/-- SCVT: no draw between integers, which do not round; a conversion from floating point to an integer under STO takes its draw whatever
the operand (DESIGN CHOICE, log entry 130). -/
def scvtRun (w : Wick) (cx : Cx) (o : OpV) : Wick :=
  match tyOfCode (o.imm.toNat % 16) with
  | none => w
  | some src =>
    let r := w.scalarF o.rm (fun d => cvtElem w o.ty src o.rm o.sat d (rdScalar w cx.f o.a.toNat src))
    r.1.wrS cx.f o.d.toNat (extResult o.ty r.2)

def execScvt (h : Hdr) (o : OpV) (s : State) : Host.Outcome State Fault Refusal :=
  regStep (.scvt h o) s (fun w cx => scvtRun w cx o)

/-- QOP and PLOP: 0 AND, 1 OR, 2 XOR, 3 ANDN, 4 ORN, 5 NOT, 6 MOV (06 R154). -/
def boolOp (sub : Nat) (a b : Bool) : Bool :=
  match sub with
  | 0 => a && b
  | 1 => a || b
  | 2 => a != b
  | 3 => a && !b
  | 4 => a || !b
  | 5 => !a
  | _ => a

/-- The value QOP writes (06 R154). -/
def qopVal (w : Wick) (cx : Cx) (h : Hdr) (o : OpV) : Bool :=
  match h.sub.toNat with
  | 7 => o.imm.getLsbD 0
  | 8 => w.rdP o.a.toNat &&& (w.frag cx.f).mask != 0
  | 9 => w.rdP o.a.toNat &&& (w.frag cx.f).mask == (w.frag cx.f).mask
  | n => boolOp n (w.rdQ cx.f o.a.toNat) (w.rdQ cx.f o.b.toNat)

def execQop (h : Hdr) (o : OpV) (s : State) : Host.Outcome State Fault Refusal :=
  regStep (.qop h o) s (fun w cx => w.wrQ cx.f o.d.toNat (qopVal w cx h o))

end Sys2Proof.Machine
end

