-- ==== Sys2Proof/Machine/Vector.lean ====
section
/-! DEFINITION. The vector integer forms (spec/06_control_and_arithmetic.md R155, with the shapes of
spec/02_registers_and_operands.md R53). -/

namespace Sys2Proof.Machine

/-- A lane-wise form of two sources with U and G results, element by element. -/
def vint2 (s : State) (w : Wick) (cx : Cx) (o : OpV) (op : Nat → Nat → Nat) : Eff :=
  let a := vsrc w o.ty o.a
  let b := vsrcB w o
  writeVec s w cx (vresult o.ty o.d.toNat (a.uni && b.uni) (fun i => mapElems o.ty (fun x y _ => op x y) (a.lane i) (b.lane i) 0))

/-- A lane-wise form of three sources. -/
def vint3 (s : State) (w : Wick) (cx : Cx) (o : OpV) (op : Nat → Nat → Nat → Nat) : Eff :=
  let a := vsrc w o.ty o.a
  let b := vsrcB w o
  let c := vsrc w o.ty o.c
  writeVec s w cx (vresult o.ty o.d.toNat (a.uni && b.uni && c.uni) (fun i => mapElems o.ty op (a.lane i) (b.lane i) (c.lane i)))

/-- The affine result when 02 R53 gives one, else the lane-wise result. -/
def affineOr (s : State) (w : Wick) (cx : Cx) (o : OpV) (r : Option VReg) (e : Eff) : Eff :=
  match (if affineOk o then r else none) with
  | some v => writeVec s w cx [(o.d.toNat, v)]
  | none => e

/-- A after NEGA, as the affine rows read it. -/
def regA (w : Wick) (o : OpV) : VReg := (w.rdV o.a.toNat).negIf o.nega

def vaddBody (sub : Bool) (s : State) (w : Wick) (cx : Cx) (o : OpV) : Eff :=
  affineOr s w cx o (affineAdd sub (regA w o) (regB w o)) (vint2 s w cx o (addElem o.ty o.absa o.nega o.sat sub))

def vmulBody (s : State) (w : Wick) (cx : Cx) (h : Hdr) (o : OpV) : Eff :=
  if h.sub = 1 then vint2 s w cx o (mulHi o.ty o.absa o.nega)
  else affineOr s w cx o (affineMul (regA w o) (regB w o)) (vint2 s w cx o (mulLo o.ty o.absa o.nega o.sat))

/-- The product of A and U plus a U or A source (02 R53). -/
def vmadAffine (w : Wick) (o : OpV) : Option VReg := (affineMul (regA w o) (regB w o)).bind (fun p => affineAdd false p (w.rdV o.c.toNat))

def vmadElem (o : OpV) (a b c : Nat) : Nat :=
  narrowI o.ty.signed o.sat o.ty.ew (modI o.absa o.nega (decI o.ty a) * decI o.ty b + decI o.ty c)

def vmadBody (s : State) (w : Wick) (cx : Cx) (o : OpV) : Eff := affineOr s w cx o (vmadAffine w o) (vint3 s w cx o (vmadElem o))

/-- |a − b| as the unsigned type of the width (06 R155). -/
def absdElem (t : Ty) (a b : Nat) : Nat := (decI t a - decI t b).natAbs % 2 ^ t.ew

/-- VADDMIN and VADDMAX: the narrowed sum against c. -/
def addMinElem (o : OpV) (isMax : Bool) (a b c : Nat) : Nat :=
  let x := decI o.ty (addElem o.ty o.absa o.nega o.sat false a b)
  let y := decI o.ty c
  wrapI (if isMax then max x y else min x y) o.ty.ew

def clampElem (o : OpV) (a b c : Nat) : Nat :=
  wrapI (min (max (modI o.absa o.nega (decI o.ty a)) (decI o.ty b)) (decI o.ty c)) o.ty.ew

/-- VDOT: the packed products added to a 32-bit c (06 R155). -/
def dotLane (o : OpV) (a b c : Nat) : Nat :=
  let t := o.ty
  let sum := (List.range t.count).foldl (fun acc j => acc + decI t (fld a (t.ew * j) t.ew) * decI t (fld b (t.ew * j) t.ew)) (0 : Int)
  let c' := if t.signed then sextN c 32 else (c : Int)
  narrowI t.signed o.sat 32 (c' + sum)

def vdotBody (s : State) (w : Wick) (cx : Cx) (o : OpV) : Eff :=
  let a := vsrc w .b32 o.a
  let b := vsrcB32 w o
  let c := vsrc w .b32 o.c
  writeVec s w cx (vresult .b32 o.d.toNat (a.uni && b.uni && c.uni) (fun i => dotLane o (a.lane i) (b.lane i) (c.lane i)))

/-- The condition of VCMP in each lane. -/
def vcmpMask (w : Wick) (h : Hdr) (o : OpV) : Mask :=
  let a := vsrc w o.ty o.a
  let b := vsrcB w o
  maskOf (fun i => icond h.sub.toNat (decI o.ty (a.lane i)) (decI o.ty (b.lane i)))

/-- VSEL is U only when A and B name the same U register (06 R155). -/
def vselBody (s : State) (w : Wick) (cx : Cx) (o : OpV) : Eff :=
  let a := vsrc w o.ty o.a
  let b := vsrcB w o
  let p := w.rdP o.c.toNat
  writeVec s w cx (vresult o.ty o.d.toNat (!o.ib && o.a == o.b && a.uni) (fun i => if p.getLsbD i then a.lane i else b.lane i))

/-- VMOV takes the shape of its source; a pair is U or G (02 R53, R57). -/
def vmovBody (s : State) (w : Wick) (cx : Cx) (o : OpV) : Eff :=
  if o.ib then let b := isrc (immB o.ty o.imm); writeVec s w cx (vresult o.ty o.d.toNat true b.lane)
  else if o.ty.is64 then let a := vsrc w o.ty o.a; writeVec s w cx (vresult o.ty o.d.toNat a.uni a.lane)
  else writeVec s w cx [(o.d.toNat, w.rdV o.a.toNat)]

def vbitBody (s : State) (w : Wick) (cx : Cx) (h : Hdr) (o : OpV) : Eff :=
  let a := vsrc w o.ty o.a
  writeVec s w cx (vresult o.ty o.d.toNat a.uni (fun i => mapElems o.ty (fun x _ _ => bitElem o.ty.ew h.sub.toNat x) (a.lane i) 0 0))

/-- VBFX: o and n from bits [15:0] of the lane's B, alike for every element (06 R155). With a 64-bit TY B is a pair as every 64-bit operand is (02 R50), and the field is taken from its low register (log 109). -/
def vbfxBody (s : State) (w : Wick) (cx : Cx) (h : Hdr) (o : OpV) : Eff :=
  let a := vsrc w o.ty o.a
  let b := vsrcB w o
  let c := vsrc w o.ty o.c
  let ins := h.sub = 1
  writeVec s w cx (vresult o.ty o.d.toNat (a.uni && b.uni && (!ins || c.uni)) (fun i =>
    mapElems o.ty (fun x _ z => bfxElem o.ty ins (b.lane i % 2 ^ 16) x z) (a.lane i) 0 (c.lane i)))

def execVadd (h : Hdr) (o : OpV) (s : State) : Host.Outcome State Fault Refusal :=
  wickStep (.vadd h o) s (fun s w cx => vaddBody false s w cx o)

def execVsub (h : Hdr) (o : OpV) (s : State) : Host.Outcome State Fault Refusal :=
  wickStep (.vsub h o) s (fun s w cx => vaddBody true s w cx o)

def execVmul (h : Hdr) (o : OpV) (s : State) : Host.Outcome State Fault Refusal :=
  wickStep (.vmul h o) s (fun s w cx => vmulBody s w cx h o)

def execVmad (h : Hdr) (o : OpV) (s : State) : Host.Outcome State Fault Refusal :=
  wickStep (.vmad h o) s (fun s w cx => vmadBody s w cx o)

def execVand (h : Hdr) (o : OpV) (s : State) : Host.Outcome State Fault Refusal :=
  wickStep (.vand h o) s (fun s w cx => vint2 s w cx o (fun a b => a &&& b))

def execVor (h : Hdr) (o : OpV) (s : State) : Host.Outcome State Fault Refusal :=
  wickStep (.vor h o) s (fun s w cx => vint2 s w cx o (fun a b => a ||| b))

def execVxor (h : Hdr) (o : OpV) (s : State) : Host.Outcome State Fault Refusal :=
  wickStep (.vxor h o) s (fun s w cx => vint2 s w cx o (fun a b => a ^^^ b))

def execVshl (h : Hdr) (o : OpV) (s : State) : Host.Outcome State Fault Refusal :=
  wickStep (.vshl h o) s (fun s w cx => vint2 s w cx o (shlElem o.ty))

def execVshr (h : Hdr) (o : OpV) (s : State) : Host.Outcome State Fault Refusal :=
  wickStep (.vshr h o) s (fun s w cx => vint2 s w cx o (shrElem o.ty))

def execVmin (h : Hdr) (o : OpV) (s : State) : Host.Outcome State Fault Refusal :=
  wickStep (.vmin h o) s (fun s w cx => vint2 s w cx o (minElem o.ty o.absa o.nega false))

def execVmax (h : Hdr) (o : OpV) (s : State) : Host.Outcome State Fault Refusal :=
  wickStep (.vmax h o) s (fun s w cx => vint2 s w cx o (minElem o.ty o.absa o.nega true))

def execVabsd (h : Hdr) (o : OpV) (s : State) : Host.Outcome State Fault Refusal :=
  wickStep (.vabsd h o) s (fun s w cx => vint2 s w cx o (absdElem o.ty))

def execVcmp (h : Hdr) (o : OpV) (s : State) : Host.Outcome State Fault Refusal :=
  wickStep (.vcmp h o) s (fun s w cx => .next (s.putWick (w.wrP o.d.toNat cx.act (vcmpMask w h o))))

def execVsel (h : Hdr) (o : OpV) (s : State) : Host.Outcome State Fault Refusal :=
  wickStep (.vsel h o) s (fun s w cx => vselBody s w cx o)

def execVmov (h : Hdr) (o : OpV) (s : State) : Host.Outcome State Fault Refusal :=
  wickStep (.vmov h o) s (fun s w cx => vmovBody s w cx o)

def execVaddmin (h : Hdr) (o : OpV) (s : State) : Host.Outcome State Fault Refusal :=
  wickStep (.vaddmin h o) s (fun s w cx => vint3 s w cx o (addMinElem o false))

def execVaddmax (h : Hdr) (o : OpV) (s : State) : Host.Outcome State Fault Refusal :=
  wickStep (.vaddmax h o) s (fun s w cx => vint3 s w cx o (addMinElem o true))

def execVbit (h : Hdr) (o : OpV) (s : State) : Host.Outcome State Fault Refusal :=
  wickStep (.vbit h o) s (fun s w cx => vbitBody s w cx h o)

def execVbfx (h : Hdr) (o : OpV) (s : State) : Host.Outcome State Fault Refusal :=
  wickStep (.vbfx h o) s (fun s w cx => vbfxBody s w cx h o)

def execVdot (h : Hdr) (o : OpV) (s : State) : Host.Outcome State Fault Refusal :=
  wickStep (.vdot h o) s (fun s w cx => vdotBody s w cx o)

def execVclamp (h : Hdr) (o : OpV) (s : State) : Host.Outcome State Fault Refusal :=
  wickStep (.vclamp h o) s (fun s w cx => vint3 s w cx o (clampElem o))

end Sys2Proof.Machine
end

