-- ==== Sys2Proof/Machine/Float.lean ====
section
/-! DEFINITION. The vector floating-point forms (spec/06_control_and_arithmetic.md R156 to R159). -/

namespace Sys2Proof.Machine

/-- A floating-point form of up to three sources, element by element, one draw an element. -/
def vflt (s : State) (w : Wick) (cx : Cx) (o : OpV) (a b c : VSrc) (el : FElem) : Eff :=
  fvec s w cx o.ty o.d.toNat o.rm o.ty.count (a.uni && b.uni && c.uni) (fun i st =>
    fElems o.ty.ew o.ty.count o.rm st el (a.lane i) (b.lane i) (c.lane i))

/-- The element after ABSA, NEGA and NEGB (05 R128). -/
def modElem (o : OpV) (el : FElem) : FElem := fun d a b c =>
  el d (modF o.absa o.nega o.ty.ew a) (modF false o.negb o.ty.ew b) c

/-- FADD, FSUB, FMUL, FFMA and FDIV: SFOP's operations (06 R156). -/
def fop2 (s : State) (w : Wick) (cx : Cx) (o : OpV) (sub : Nat) : Eff :=
  vflt s w cx o (vsrc w o.ty o.a) (vsrcB w o) (if sub = 3 then vsrc w o.ty o.c else isrc 0)
    (modElem o (fun d a b c => fop w (fmtOf o.ty) o.rm o.sat sub d a b c))

/-- FMIN and FMAX: ABSA acts on A; nothing is rounded (06 R156). -/
def fminBody (s : State) (w : Wick) (cx : Cx) (o : OpV) (isMax : Bool) : Eff :=
  vflt s w cx o (vsrc w o.ty o.a) (vsrcB w o) (isrc 0)
    (modElem o (fun d a b c => fop w (fmtOf o.ty) .rne false (if isMax then 5 else 4) d a b c))

/-- The condition of FCMP in a lane, with its flags (06 R157). -/
def fcmpLane (w : Wick) (h : Hdr) (o : OpV) (i : Nat) : Bool × BitVec 5 :=
  let f := fmtOf o.ty
  fcmp h.sub.toNat (fdec w f (modF o.absa o.nega o.ty.ow ((vsrc w o.ty o.a).lane i))) (fdec w f ((vsrcB w o).lane i))

def fcmpBody (s : State) (w : Wick) (cx : Cx) (h : Hdr) (o : OpV) : Eff :=
  let fl := (lanesOf cx.act).foldl (fun acc i => acc ||| (fcmpLane w h o i).2) 0
  .next (s.putWick ((w.raise fl).wrP o.d.toNat cx.act (maskOf (fun i => (fcmpLane w h o i).1))))

/-- FCLASS: the class masks at 16-bit places of a packed lane (06 R156). -/
def fclassLane (t : Ty) (a : Nat) : Nat :=
  if t.ew = 16 then fclass (fmtOf t) (fld a 0 16) + 2 ^ 16 * fclass (fmtOf t) (fld a 16 16) else fclass (fmtOf t) a

def fclassBody (s : State) (w : Wick) (cx : Cx) (o : OpV) : Eff :=
  let a := vsrc w o.ty o.a
  writeVec s w cx (vresult o.ty o.d.toNat a.uni (fun i => fclassLane o.ty (a.lane i)))

/-- A form of one source. -/
def fun1 (s : State) (w : Wick) (cx : Cx) (o : OpV) (el : Fmt → Nat → Nat → Rounded) : Eff :=
  vflt s w cx o (vsrc w o.ty o.a) (isrc 0) (isrc 0) (modElem o (fun d a _ _ => el (fmtOf o.ty) d a))

/-- FSINCOS: sin in D, cos in D+1 (06 R156). -/
def fsincosBody (s : State) (w : Wick) (cx : Cx) (o : OpV) : Eff :=
  let a := vsrc w o.ty o.a
  let f := fmtOf o.ty
  let part (isCos : Bool) (i : Nat) : Rounded :=
    fElems o.ty.ew o.ty.count .rne 0 (modElem o (fun _ x _ _ => fsincosPart f isCos o.sat w.regs.ftz x (fdec w f x))) (a.lane i) 0 0
  let fl : BitVec 5 :=
    if cx.act = 0 then 0
    else (if a.uni then [0] else lanesOf cx.act).foldl (fun acc i => acc ||| (part false i).fl ||| (part true i).fl) 0
  writeVec s (w.raise fl) cx
    (vresult .b32 o.d.toNat a.uni (fun i => (part false i).pat) ++ vresult .b32 (o.d.toNat + 1) a.uni (fun i => (part true i).pat))

/-- FDOT2: c + a0 × b0 + a1 × b1, rounded once to binary32 (06 R156). -/
def dot2Lane (w : Wick) (o : OpV) (draw a b c : Nat) : Rounded :=
  let f := fmtOf o.ty
  let x (j : Nat) : Ex := fdec w f (modF o.absa o.nega 16 (fld a (16 * j) 16))
  let y (j : Nat) : Ex := fdec w f (modF false o.negb 16 (fld b (16 * j) 16))
  let p0 := exMul (x 0) (y 0)
  let p1 := exMul (x 1) (y 1)
  let q := exAdd o.rm p0.1 p1.1
  let z := fdec w fF32 c
  let r := exAdd o.rm z q.1
  rndF fF32 o.rm o.sat w.regs.ftz draw (r.1, p0.2 ||| p1.2 ||| q.2 ||| r.2 ||| sigFl [z, x 0, y 0, x 1, y 1])

def fdot2Body (s : State) (w : Wick) (cx : Cx) (o : OpV) : Eff :=
  let a := vsrc w .b32 o.a
  let b := vsrcB32 w o
  let c := vsrc w .b32 o.c
  fvec s w cx .f32 o.d.toNat o.rm 1 (a.uni && b.uni && c.uni) (fun i st =>
    dot2Lane w o (drawFor o.rm st 0) (a.lane i) (b.lane i) (c.lane i))

/-- The conversion of one element between floating-point formats (03 R80). -/
def fcvtElem (w : Wick) (dst src : Ty) (o : OpV) (draw x : Nat) : Rounded :=
  let v := fdec w (fmtOf src) x
  rndF (fmtOf dst) o.rm o.sat w.regs.ftz draw (v, sigFl [v])

/-- FCVT: same width element by element, widening from element j × E on, narrowing into element j of C (06 R159). -/
def fcvtBody (s : State) (w : Wick) (cx : Cx) (o : OpV) : Eff :=
  match tyOfCode (fld o.imm.toNat 0 4) with
  | none => .next s
  | some src =>
    let j := fld o.imm.toNat 4 2
    let a := vsrc w src o.a
    let dst := o.ty
    if src.ew ≤ dst.ew then
      let n := dst.count
      let from_ := if src.ew = dst.ew then 0 else j * n
      fvec s w cx dst o.d.toNat o.rm n a.uni (fun i st =>
        let rs := (List.range n).map (fun k => fcvtElem w dst src o (drawFor o.rm st k) (fld (a.lane i) (src.ew * (from_ + k)) src.ew))
        ⟨packElems dst.ew (rs.map Rounded.pat), (rs.map Rounded.fl).foldl (· ||| ·) 0⟩)
    else
      let c := vsrc w .b32 o.c
      fvec s w cx dst o.d.toNat o.rm 1 (a.uni && c.uni) (fun i st =>
        let r := fcvtElem w dst src o (drawFor o.rm st 0) (fld (a.lane i) 0 src.ew)
        ⟨setFld (c.lane i) (dst.ew * j) dst.ew r.pat, r.fl⟩)

/-- ICVT between integers and floating point, element by element (06 R159). To an integer under STO every element takes a draw, a NaN,
an infinity or an integer too (DESIGN CHOICE, log entry 130). -/
def icvtBody (s : State) (w : Wick) (cx : Cx) (o : OpV) : Eff :=
  match tyOfCode (fld o.imm.toNat 0 4) with
  | none => .next s
  | some src =>
    let a := vsrc w src o.a
    let dst := o.ty
    let n := dst.count
    fvec s w cx dst o.d.toNat o.rm n a.uni (fun i st =>
      let rs := (List.range n).map (fun k => cvtElem w dst src o.rm false (drawFor o.rm st k) (fld (a.lane i) (src.ew * k) src.ew))
      ⟨packElems dst.ew (rs.map Rounded.pat), (rs.map Rounded.fl).foldl (· ||| ·) 0⟩)

/-- The element width of FPACK and FUNPACK. -/
def packWidth (h : Hdr) : Nat := if h.sub = 0 then 16 else 8

def fpackBody (s : State) (w : Wick) (cx : Cx) (h : Hdr) (o : OpV) : Eff :=
  let j := fld o.imm.toNat 4 2
  let a := vsrc w .b32 o.a
  let c := vsrc w .b32 o.c
  let ew := packWidth h
  writeVec s w cx (vresult .b32 o.d.toNat (a.uni && c.uni) (fun i => setFld (c.lane i) (ew * j) ew (a.lane i)))

def funpackBody (s : State) (w : Wick) (cx : Cx) (h : Hdr) (o : OpV) : Eff :=
  let j := fld o.imm.toNat 4 2
  let a := vsrc w .b32 o.a
  let ew := packWidth h
  writeVec s w cx (vresult .b32 o.d.toNat a.uni (fun i => fld (a.lane i) (ew * j) ew))

/-- 2^n as an exact value. -/
def exPow2 (n : Int) : Ex := scaleMag false 1 n

/-- FSCALE: a × 2^n, n the lane's 32-bit value of B for every element (06 R156). -/
def fscaleBody (s : State) (w : Wick) (cx : Cx) (o : OpV) : Eff :=
  let a := vsrc w o.ty o.a
  let b := vsrcB32 w o
  let f := fmtOf o.ty
  fvec s w cx o.ty o.d.toNat o.rm o.ty.count (a.uni && b.uni) (fun i st =>
    -- past these bounds every finite product overflows or underflows alike
    let n := max (-5000) (min 5000 (sextN (b.lane i) 32))
    fElems o.ty.ew o.ty.count o.rm st (modElem o (fun d x _ _ =>
      let v := fdec w f x
      let p := exMul v (exPow2 n)
      rndF f o.rm o.sat w.regs.ftz d (p.1, p.2 ||| sigFl [v]))) (a.lane i) 0 0)

def execFadd (h : Hdr) (o : OpV) (s : State) : Host.Outcome State Fault Refusal :=
  wickStep (.fadd h o) s (fun s w cx => fop2 s w cx o 0)

def execFsub (h : Hdr) (o : OpV) (s : State) : Host.Outcome State Fault Refusal :=
  wickStep (.fsub h o) s (fun s w cx => fop2 s w cx o 1)

def execFmul (h : Hdr) (o : OpV) (s : State) : Host.Outcome State Fault Refusal :=
  wickStep (.fmul h o) s (fun s w cx => fop2 s w cx o 2)

def execFfma (h : Hdr) (o : OpV) (s : State) : Host.Outcome State Fault Refusal :=
  wickStep (.ffma h o) s (fun s w cx => fop2 s w cx o 3)

def execFmin (h : Hdr) (o : OpV) (s : State) : Host.Outcome State Fault Refusal :=
  wickStep (.fmin h o) s (fun s w cx => fminBody s w cx o false)

def execFmax (h : Hdr) (o : OpV) (s : State) : Host.Outcome State Fault Refusal :=
  wickStep (.fmax h o) s (fun s w cx => fminBody s w cx o true)

def execFcmp (h : Hdr) (o : OpV) (s : State) : Host.Outcome State Fault Refusal :=
  wickStep (.fcmp h o) s (fun s w cx => fcmpBody s w cx h o)

def execFclass (h : Hdr) (o : OpV) (s : State) : Host.Outcome State Fault Refusal :=
  wickStep (.fclass h o) s (fun s w cx => fclassBody s w cx o)

def execFrcp (h : Hdr) (o : OpV) (s : State) : Host.Outcome State Fault Refusal :=
  wickStep (.frcp h o) s (fun s w cx => fun1 s w cx o (fun f _ a => frcp f o.sat w.regs.ftz a (fdec w f a)))

def execFrsq (h : Hdr) (o : OpV) (s : State) : Host.Outcome State Fault Refusal :=
  wickStep (.frsq h o) s (fun s w cx => fun1 s w cx o (fun f _ a => frsq f o.sat w.regs.ftz a (fdec w f a)))

def execFsqrt (h : Hdr) (o : OpV) (s : State) : Host.Outcome State Fault Refusal :=
  wickStep (.fsqrt h o) s (fun s w cx => fun1 s w cx o (fun f d a => rndSqrt f o.rm o.sat w.regs.ftz d (fdec w f a)))

def execFexp2 (h : Hdr) (o : OpV) (s : State) : Host.Outcome State Fault Refusal :=
  wickStep (.fexp2 h o) s (fun s w cx => fun1 s w cx o (fun f _ a => fexp2 f o.sat w.regs.ftz a (fdec w f a)))

def execFlog2 (h : Hdr) (o : OpV) (s : State) : Host.Outcome State Fault Refusal :=
  wickStep (.flog2 h o) s (fun s w cx => fun1 s w cx o (fun f _ a => flog2 f o.sat w.regs.ftz a (fdec w f a)))

def execFsincos (h : Hdr) (o : OpV) (s : State) : Host.Outcome State Fault Refusal :=
  wickStep (.fsincos h o) s (fun s w cx => fsincosBody s w cx o)

def execFdiv (h : Hdr) (o : OpV) (s : State) : Host.Outcome State Fault Refusal :=
  wickStep (.fdiv h o) s (fun s w cx => fop2 s w cx o 6)

def execFdot2 (h : Hdr) (o : OpV) (s : State) : Host.Outcome State Fault Refusal :=
  wickStep (.fdot2 h o) s (fun s w cx => fdot2Body s w cx o)

def execFcvt (h : Hdr) (o : OpV) (s : State) : Host.Outcome State Fault Refusal :=
  wickStep (.fcvt h o) s (fun s w cx => fcvtBody s w cx o)

def execIcvt (h : Hdr) (o : OpV) (s : State) : Host.Outcome State Fault Refusal :=
  wickStep (.icvt h o) s (fun s w cx => icvtBody s w cx o)

def execFpack (h : Hdr) (o : OpV) (s : State) : Host.Outcome State Fault Refusal :=
  wickStep (.fpack h o) s (fun s w cx => fpackBody s w cx h o)

def execFunpack (h : Hdr) (o : OpV) (s : State) : Host.Outcome State Fault Refusal :=
  wickStep (.funpack h o) s (fun s w cx => funpackBody s w cx h o)

def execFscale (h : Hdr) (o : OpV) (s : State) : Host.Outcome State Fault Refusal :=
  wickStep (.fscale h o) s (fun s w cx => fscaleBody s w cx o)

end Sys2Proof.Machine
end

