-- ==== Sys2Proof/Machine/Lane.lean ====
section
/-! DEFINITION. The lane forms, the predicate and shape forms and the special registers
(spec/06_control_and_arithmetic.md R160 to R165, spec/02_registers_and_operands.md R56, R61 to R63). -/

namespace Sys2Proof.Machine

/-! ### Shift, rotate, permute, broadcast (06 R160) -/

/-- A count operand: the immediate, or a U register; anything else is a shape fault (06, before R160). -/
def laneCount (w : Wick) (o : OpV) : Option Nat :=
  if o.ib then some o.imm.toNat
  else match w.rdV o.b.toNat with
    | .u v => some v.toNat
    | _ => none

def withCount (w : Wick) (o : OpV) (f : Nat → Eff) : Eff :=
  match laneCount w o with
  | some n => f n
  | none => .trap { cause := 0x07 }

/-- LSHF's source for lane i. -/
def lshfLane (dn : Bool) (n : Nat) (a f : Nat → Nat) (i : Nat) : Nat :=
  if dn then (if i + n ≤ 31 then a (i + n) else f i) else (if n ≤ i then a (i - n) else f i)

def lshfBody (s : State) (w : Wick) (cx : Cx) (h : Hdr) (o : OpV) : Eff :=
  withCount w o (fun n => writeVec s w cx (vresult o.ty o.d.toNat false
    (lshfLane (h.sub = 1) n (rdLane w o.ty o.a.toNat) (rdLane w o.ty o.c.toNat))))

/-- LROT's source lane. -/
def lrotLane (dn : Bool) (n i : Nat) : Nat := if dn then (i + n) % 32 else (i + 32 - n % 32) % 32

def lrotBody (s : State) (w : Wick) (cx : Cx) (h : Hdr) (o : OpV) : Eff :=
  withCount w o (fun n => writeVec s w cx (vresult o.ty o.d.toNat false (fun i => rdLane w o.ty o.a.toNat (lrotLane (h.sub = 1) n i))))

def lpermBody (s : State) (w : Wick) (cx : Cx) (o : OpV) : Eff :=
  let b := vsrcB32 w o
  writeVec s w cx (vresult o.ty o.d.toNat false (fun i => rdLane w o.ty o.a.toNat (b.lane i % 32)))

/-- LBCAST gives U also for a pair that is not U, and the other lane moves give G also for U pairs, as R53 and R160 have it of 32-bit
moves; 02 R57 has U for a 64-bit operation exactly when every source is U (log 108). -/
def lbcastBody (s : State) (w : Wick) (cx : Cx) (o : OpV) : Eff :=
  withCount w o (fun n => writeVec s w cx (vresult o.ty o.d.toNat true (fun _ => rdLane w o.ty o.a.toNat (n % 32))))

def execLshf (h : Hdr) (o : OpV) (s : State) : Host.Outcome State Fault Refusal :=
  wickStep (.lshf h o) s (fun s w cx => lshfBody s w cx h o)

def execLrot (h : Hdr) (o : OpV) (s : State) : Host.Outcome State Fault Refusal :=
  wickStep (.lrot h o) s (fun s w cx => lrotBody s w cx h o)

def execLperm (h : Hdr) (o : OpV) (s : State) : Host.Outcome State Fault Refusal :=
  wickStep (.lperm h o) s (fun s w cx => lpermBody s w cx o)

def execLbcast (h : Hdr) (o : OpV) (s : State) : Host.Outcome State Fault Refusal :=
  wickStep (.lbcast h o) s (fun s w cx => lbcastBody s w cx o)

/-! ### Reductions and scans (06 R161) -/

/-- The identity of an operation: 0 ADD, 1 MIN, 2 MAX, 3 AND, 4 OR, 5 XOR. R161 gives ADD the identity 0 and has an f32 ADD start from −0:
with no active lane LRED writes −0 there (log 107). -/
def redIdentity (op : Nat) (t : Ty) : Nat :=
  match op with
  | 0 => if t == .f32 then 0x80000000 else 0
  | 1 => if t == .f32 then 0x7F800000 else if t.signed then 2 ^ (t.ow - 1) - 1 else 2 ^ t.ow - 1
  | 2 => if t == .f32 then 0xFF800000 else if t.signed then 2 ^ (t.ow - 1) else 0
  | 3 => 2 ^ t.ow - 1
  | _ => 0

/-- One step of a reduction with the lane's draw: the pattern and its flags. -/
def redStep (w : Wick) (op : Nat) (o : OpV) (draw r a : Nat) : Rounded :=
  let t := o.ty
  match op with
  | 0 => if t == .f32 then fop w fF32 o.rm o.sat 0 draw r a 0 else ⟨addElem t false false o.sat false r a, 0⟩
  | 1 => if t == .f32 then fop w fF32 .rne false 4 0 r a 0 else ⟨minElem t false false false r a, 0⟩
  | 2 => if t == .f32 then fop w fF32 .rne false 5 0 r a 0 else ⟨minElem t false false true r a, 0⟩
  | 3 => ⟨r &&& a, 0⟩
  | 4 => ⟨r ||| a, 0⟩
  | _ => ⟨r ^^^ a, 0⟩

/-- The running values over the active lanes: lane, value before, value after; with the flags raised. -/
def redRun (w : Wick) (op : Nat) (o : OpV) : List Nat → Nat → List (Nat × Nat × Nat) × Nat × BitVec 5
  | [], r => ([], r, 0)
  | i :: is, r =>
    let x := redStep w op o (drawFor o.rm (w.gen i) 0) r (rdLane w o.ty o.a.toNat i)
    let (l, z, fl) := redRun w op o is x.pat
    ((i, r, x.pat) :: l, z, x.fl ||| fl)

/-- Draws are taken by a float ADD alone. -/
def redDraws (op : Nat) (o : OpV) : Rm := if op = 0 && o.ty == .f32 then o.rm else .rne

def lredRun (w : Wick) (cx : Cx) (h : Hdr) (o : OpV) : Wick :=
  let op := h.sub.toNat % 8
  let (_, r, fl) := redRun w op o (lanesOf cx.act) (redIdentity op o.ty)
  ((w.drewLanes (redDraws op o) cx.act 1).raise fl).wrS cx.f o.d.toNat (extResult o.ty r)

def execLred (h : Hdr) (o : OpV) (s : State) : Host.Outcome State Fault Refusal :=
  regStep (.lred h o) s (fun w cx => lredRun w cx h o)

def lscanBody (s : State) (w : Wick) (cx : Cx) (h : Hdr) (o : OpV) : Eff :=
  let op := h.sub.toNat % 8
  let (l, _, fl) := redRun w op o (lanesOf cx.act) (redIdentity op o.ty)
  let val (i : Nat) : Nat :=
    match l.find? (fun (j, _, _) => j == i) with
    | some (_, before, after) => if h.sub.toNat ≥ 8 then before else after
    | none => 0
  writeVec s ((w.drewLanes (redDraws op o) cx.act 1).raise fl) cx (vresult o.ty o.d.toNat false val)

def execLscan (h : Hdr) (o : OpV) (s : State) : Host.Outcome State Fault Refusal :=
  wickStep (.lscan h o) s (fun s w cx => lscanBody s w cx h o)

/-! ### Ballots, packing, matching (06 R162) -/

/-- The active lanes whose A is not zero. -/
def ballot (w : Wick) (cx : Cx) (a : Nat) : Mask := cx.act &&& maskOf (fun i => (w.rdV a).lane i != 0)

def execLbal (h : Hdr) (o : OpV) (s : State) : Host.Outcome State Fault Refusal :=
  regStep (.lbal h o) s (fun w cx =>
    let m := ballot w cx o.a.toNat
    w.wrS cx.f o.d.toNat (if h.sub = 1 then BitVec.ofNat 64 (popMask m) else m.setWidth 64))

/-- LPACK: the m-th active lane takes the m-th selected lane of A, or its own lane of B; a 64-bit TY moves pairs, as R160 has it of the
other lane forms of that default (05 R138). -/
def lpackBody (s : State) (w : Wick) (cx : Cx) (o : OpV) : Eff :=
  let sel := lanesOf (cx.act &&& w.rdP o.c.toNat)
  let act := lanesOf cx.act
  let b := vsrcB w o
  let val (i : Nat) : Nat :=
    match findIdx (· == i) act with
    | some m => (match sel[m]? with
      | some g => rdLane w o.ty o.a.toNat g
      | none => b.lane i)
    | none => 0
  writeVec s w cx (vresult o.ty o.d.toNat false val)

def execLpack (h : Hdr) (o : OpV) (s : State) : Host.Outcome State Fault Refusal :=
  wickStep (.lpack h o) s (fun s w cx => lpackBody s w cx o)

def lmatchBody (s : State) (w : Wick) (cx : Cx) (o : OpV) : Eff :=
  let a := w.rdV o.a.toNat
  writeVec s w cx (vresult .b32 o.d.toNat false (fun i => (cx.act &&& maskOf (fun j => a.lane j == a.lane i)).toNat))

def execLmatch (h : Hdr) (o : OpV) (s : State) : Host.Outcome State Fault Refusal :=
  wickStep (.lmatch h o) s (fun s w cx => lmatchBody s w cx o)

/-! ### Lane predicates (06 R163) -/

/-- PLOP's value: QOP's operations bit by bit. -/
def plopVal (sub : Nat) (a b : Mask) : Mask :=
  match sub with
  | 0 => a &&& b
  | 1 => a ||| b
  | 2 => a ^^^ b
  | 3 => a &&& ~~~ b
  | 4 => a ||| ~~~ b
  | 5 => ~~~ a
  | _ => a

def execPlop (h : Hdr) (o : OpV) (s : State) : Host.Outcome State Fault Refusal :=
  regStep (.plop h o) s (fun w cx => w.wrP o.d.toNat cx.act (plopVal h.sub.toNat (w.rdP o.a.toNat) (w.rdP o.b.toNat)))

def psetRun (w : Wick) (cx : Cx) (h : Hdr) (o : OpV) : Wick :=
  match h.sub.toNat with
  | 0 => w.wrP o.d.toNat cx.act o.imm
  | 1 => w.wrP o.d.toNat cx.act ((w.rdS cx.f o.a.toNat).setWidth 32)
  | _ => w.wrS cx.f o.d.toNat ((w.rdP o.a.toNat).setWidth 64)

def execPset (h : Hdr) (o : OpV) (s : State) : Host.Outcome State Fault Refusal := regStep (.pset h o) s (fun w cx => psetRun w cx h o)

/-! ### Affine and shape forms (06 R164, 02 R56) -/

def affBody (s : State) (w : Wick) (cx : Cx) (o : OpV) : Eff :=
  let base : Lane := (w.rdS cx.f o.a.toNat).setWidth 32
  let st : Lane := if o.ib then o.imm else (w.rdS cx.f o.b.toNat).setWidth 32
  writeVec s w cx [(o.d.toNat, if st = 0 then .u base else .a base st)]

def execAff (h : Hdr) (o : OpV) (s : State) : Host.Outcome State Fault Refusal := wickStep (.aff h o) s (fun s w cx => affBody s w cx o)

def execVshape (h : Hdr) (o : OpV) (s : State) : Host.Outcome State Fault Refusal :=
  wickStep (.vshape h o) s (fun s w cx =>
    once cx s (.next (s.putWick (w.wrS cx.f o.d.toNat (BitVec.ofNat 64 (w.rdV o.a.toNat).tag)))))

/-- The inverse of an odd number modulo 2^32. -/
def inv32 (a : Lane) : Lane := iterate 5 (fun x => x * (2 - a * x)) a

/-- The strides that give lane h minus lane l the difference d: least first, at most 16 of them (02 R56). -/
def strides (dist : Nat) (d : Lane) : List Lane :=
  let k := ctzN 5 dist
  if d.toNat % 2 ^ k ≠ 0 then []
  else
    let odd : Lane := BitVec.ofNat 32 (dist / 2 ^ k)
    let s0 := (inv32 odd * BitVec.ofNat 32 (d.toNat / 2 ^ k)).toNat % 2 ^ (32 - k)
    (List.range (2 ^ k)).map (fun m => BitVec.ofNat 32 (s0 + m * 2 ^ (32 - k)))

/-- VCOMP's attempt over the live lanes (02 R56). -/
def compress (live : Mask) (r : VReg) : VReg :=
  match lanesOf live with
  | [] => r
  | l :: ls =>
    let v := r.lane l
    if ls.all (fun i => r.lane i == v) then .u v
    else
      match ls with
      | [] => .u v
      | h :: _ =>
        match (strides (h - l) (r.lane h - v)).find? (fun st => ls.all (fun i => r.lane i == v + BitVec.ofNat 32 (i - l) * st)) with
        | some st => .a (v - BitVec.ofNat 32 l * st) st
        | none => VReg.ofLanes r.lane

def vcompBody (s : State) (w : Wick) (cx : Cx) (o : OpV) : Eff := writeVec s w cx [(o.d.toNat, compress cx.live (w.rdV o.a.toNat))]

def execVcomp (h : Hdr) (o : OpV) (s : State) : Host.Outcome State Fault Refusal := wickStep (.vcomp h o) s (fun s w cx => vcompBody s w cx o)

def vexpBody (s : State) (w : Wick) (cx : Cx) (o : OpV) : Eff := writeVec s w cx [(o.d.toNat, VReg.ofLanes (w.rdV o.a.toNat).lane)]

def execVexp (h : Hdr) (o : OpV) (s : State) : Host.Outcome State Fault Refusal := wickStep (.vexp h o) s (fun s w cx => vexpBody s w cx o)

/-! ### Special registers (02 R61) -/

/-- MFS (02 R61 to R64): a write-only register reads zero. -/
def special (s : State) (w : Wick) (cx : Cx) (n : Nat) : Word :=
  match n with
  | 0x00 => if w.regs.ftz then 1 else 0
  | 0x01 => w.regs.fpstat.setWidth 64
  | 0x02 => w.regs.forkser.setWidth 64
  | 0x03 => BitVec.ofNat 64 w.info.loc
  | 0x04 => (w.frag cx.f).mask.setWidth 64
  | 0x05 => w.live.setWidth 64
  | 0x06 => BitVec.ofNat 64 w.info.wickId
  | 0x07 => BitVec.ofNat 64 w.info.ng
  | 0x08 => BitVec.ofNat 64 ((s.cycles[w.info.cluster]?.getD 0 - s.cycBase[w.info.cluster]?.getD 0) / 600)
  | 0x09 => BitVec.ofNat 64 s.timer
  | 0x0B => w.books.lastSeal.setWidth 64
  | 0x0C => BitVec.ofNat 64 w.info.nodeDepth
  | 0x0D => w.regs.uiSavePc
  | 0x0E => w.regs.uiSaveQ.setWidth 64
  | n => if 0x10 ≤ n && n ≤ 0x1F then (w.books.stall[n - 0x10]?.getD 0).setWidth 64 else 0

/-- MTS (02 R61 to R63, 03 R78): a write to an RO register is ignored. -/
def setSpecial (w : Wick) (n : Nat) (x : Word) : Wick :=
  match n with
  | 0x00 => { w with regs := { w.regs with ftz := x.getLsbD 0 } }
  | 0x01 => { w with regs := { w.regs with fpstat := w.regs.fpstat &&& ~~~ (x.setWidth 5) } }
  | 0x0A => { w with regs := { w.regs with gens := Vector.ofFn (fun i : Fin 33 => seedGen (x.setWidth 32) i.val) } }
  | 0x0D => { w with regs := { w.regs with uiSavePc := x } }
  | 0x0E => { w with regs := { w.regs with uiSaveQ := x.setWidth 15 } }
  | _ => w

def execMfs (h : Hdr) (o : OpV) (s : State) : Host.Outcome State Fault Refusal :=
  wickStep (.mfs h o) s (fun s w cx => once cx s (.next (s.putWick (w.wrS cx.f o.d.toNat (special s w cx (o.imm.toNat % 256))))))

def execMts (h : Hdr) (o : OpV) (s : State) : Host.Outcome State Fault Refusal :=
  wickStep (.mts h o) s (fun s w cx => once cx s (.next (s.putWick (setSpecial w (o.imm.toNat % 256) (w.rdS cx.f o.a.toNat)))))

end Sys2Proof.Machine
end

