-- ==== Sys2Proof/Machine/Access.lean ====
section
/-! DEFINITION. The addresses of the memory forms: forming and checking them in every space, and resolving a lane's bytes
(spec/04_memory_and_ordering.md R87 to R94, R98, R101; spec/17_translation_and_faults.md R355, R361). -/

namespace Sys2Proof.Machine

/-- The address of lane i (04 R88). -/
def laneEa (w : Wick) (cx : Cx) (o : OpM) (i : Nat) : Nat :=
  let off : Word := if o.x = 0xFF then 0 else sext32 ((w.rdV o.x.toNat).lane i)
  (w.rdS cx.f o.s.toNat + sext32 o.disp + off).toNat

/-- The windows a wick may reach on a core of its cluster: offset and length (04 R91). -/
def windows (s : State) (w : Wick) (core : Nat) : List (Nat × Nat) :=
  w.info.bands.filterMap (fun b =>
    match s.findBand b.band with
    | some x => if x.win > 0 && x.cores.contains core then some (x.off, 4096 * x.win) else none
    | none => none)

/-- Every byte lies in one of the windows (04 R91). -/
def inWindows (ws : List (Nat × Nat)) (off n : Nat) : Bool :=
  (List.range n).all (fun j => ws.any (fun (b, l) => decide (b ≤ off + j) && decide (off + j < b + l)))

/-- The core of the cluster an AB access addresses (04 R92). -/
def abCore (w : Wick) (o : OpM) : Nat := if o.sp == .rab then o.aux.toNat % 64 else w.info.core

/-- The check a lane's n bytes at ea fail, by the causes of 04 R88: range, window, alignment. A private offset is held against PSIZE
alone: that its mapped address stays below 2^57 is not checked, and the walk takes bits 56:0 of it (DESIGN CHOICE, log entry 131). -/
def laneCheck (s : State) (w : Wick) (o : OpM) (atomic : Bool) (n ea : Nat) : Option Nat :=
  let misaligned := atomic && ea % n != 0
  match o.sp with
  | .glob => if ea + n > 2 ^ 57 then some 0x10 else if misaligned then some 0x12 else none
  | .prv => if ea + n > w.info.psize then some 0x10 else if misaligned then some 0x12 else none
  | .lab | .rab =>
    if ea + n > 2 ^ 20 then some 0x10
    else if !inWindows (windows s w (abCore w o)) ea n then some 0x11
    else if misaligned then some 0x12 else none
  | .cb => if ea + n > 2 ^ 18 then some 0x10 else if ea % 4 != 0 then some 0x12 else none
  | .cst => if ea < w.info.clen && w.info.cbase.toNat + min (ea + n) w.info.clen > 2 ^ 57 then some 0x10 else none

/-- The trap of the lanes that fail a check: one cause, the first in order, with its lanes and lowest address (04 R88). -/
def checkLanes (s : State) (w : Wick) (o : OpM) (atomic : Bool) (n : Nat) (ls : List (Nat × Nat)) : Option TrapInfo :=
  let bad := ls.filterMap (fun (i, ea) => (laneCheck s w o atomic n ea).map (fun c => (c, i, ea)))
  [0x10, 0x11, 0x12].findSome? (fun c =>
    match bad.filter (fun (c', _, _) => c' == c) with
    | [] => none
    | (_, i, ea) :: more => some { cause := c, mask := maskOf (fun l => l == i || more.any (fun (_, j, _) => j == l)), val := BitVec.ofNat 64 ea })

/-! ### Render targets read from inside their pass (14 R297) -/

/-- Samples per pixel S. -/
def pS (r : Nat) : Nat := 2 ^ fld r 192 2
def pW (r : Nat) : Nat := fld r 160 14
def pH (r : Nat) : Nat := fld r 176 14
/-- Colour targets, 1 or 2. -/
def pTargets (r : Nat) : Nat := 1 + fld r 198 1
def pFmt (r j : Nat) : Nat := fld r (194 + 2 * j) 2
def pRt (r j : Nat) : Nat := fld r (64 * j) 64
def pPitch (r : Nat) : Nat := fld r 128 32

/-- The bytes of the targets of a pass: pixels of WIDTH × HEIGHT (14 R285, R295). -/
def inTargets (r a : Nat) : Bool :=
  (List.range (pTargets r)).any (fun j =>
    decide (pRt r j ≤ a) && decide ((a - pRt r j) / pPitch r < pH r) && decide ((a - pRt r j) % pPitch r < 4 * pW r))

/-- The global address is of a target of the pass this packet is. -/
def State.inTarget (s : State) (pkt a : Nat) : Bool :=
  match (s.findRun pkt).bind Packet.launch with
  | some l => inTargets l.pass a
  | none => false

/-- Bytes read at these global addresses for a packet: those of a target of its own pass are free values. -/
def State.wild (s : State) (pkt : Nat) : List Nat → List Byte → List Byte
  | _, [] => []
  | [], b :: bs => b :: bs
  | a :: vas, b :: bs => (if s.inTarget pkt a then Config.targetByte s.free a else b) :: s.wild pkt vas bs

/-- A value read from a range of global addresses for a packet. -/
def State.wildVal (s : State) (pkt va len v : Nat) : Nat := leVal (s.wild pkt (bytesFrom va len) (leBytes len v))

/-! ### Bytes -/

/-- The global address of private offset p of a lane (04 R90); no range check follows (log entry 131). -/
def privAddr (w : Wick) (lane p : Nat) : Nat :=
  let o := w.info.originOf lane
  (w.info.pbase.toNat + o.rank * 32 * w.info.psize + p / 4 * 128 + o.lane * 4 + p % 4) % 2 ^ 64

/-- Private bytes in their 4-byte pieces (04 R90). -/
def privCuts (w : Wick) (lane : Nat) : Nat → Nat → Nat → List (Nat × Nat)
  | 0, _, _ => []
  | fuel + 1, p, n =>
    if n = 0 then []
    else
      let k := min n (4 - p % 4)
      (privAddr w lane p, k) :: privCuts w lane fuel (p + k) (n - k)

/-- The global ranges a lane's access touches. -/
def laneRanges (w : Wick) (o : OpM) (n lane ea : Nat) : List (Nat × Nat) :=
  match o.sp with
  | .glob => pages ea n
  | .prv => privCuts w lane (n + 1) ea n
  | .cst => if ea < w.info.clen then pages (w.info.cbase.toNat + ea) (min n (w.info.clen - ea)) else []
  | _ => []

/-- The keys of an AB or CB access. -/
def bufferKeys (w : Wick) (o : OpM) (n ea : Nat) : List (Nat × Nat) :=
  match o.sp with
  | .lab | .rab => [(keyAb (coreKey w.info.cluster (abCore w o)) ea, n)]
  | .cb => [(keyCb w.info.coreId ea, n)]
  | _ => []

/-- One range translated, its failure kept beside those of the others. -/
def resolveRanges (s : State) (w : Wick) (cx : Cx) (k : AccKind) (tx : Option Tx) :
    List (Nat × Nat) → List (Nat × PFault) × List (Nat × Nat) × State
  | [] => ([], [], s)
  | (va, n) :: rest =>
    let r := match tx with
      | some t => xlateTx s w.info.ctx cx.sl k t [(va, n)]
      | none => xlatePieces s w.info.ctx cx.sl k [(va, n)]
    match r with
    | (.error e, s') => let (es, l, s2) := resolveRanges s' w cx k tx rest; (e :: es, l, s2)
    | (.ok p, s') => let (es, l, s2) := resolveRanges s' w cx k tx rest; (es, p ++ l, s2)

/-- The translation register an access names (04 R98). -/
def txOf (w : Wick) (o : OpM) : Option Tx := if o.tx = 7 || o.sp != .glob then none else w.regs.tx[o.tx.toNat]?

/-- Private bytes in their 4-byte pieces, by offset. -/
def privOffs : Nat → Nat → Nat → List Nat
  | 0, _, _ => []
  | fuel + 1, p, n => if n = 0 then [] else p :: privOffs fuel (p + min n (4 - p % 4)) (n - min n (4 - p % 4))

/-- The pieces of a private access at or above the context's high-water mark, which fail before any walk (17 R361). -/
def growth (s : State) (w : Wick) (o : OpM) (n lane ea : Nat) : List (Nat × PFault) :=
  if o.sp == .prv then
    let hwm := s.ctxReg w.info.ctx 0x06
    let p := max ea hwm
    (privOffs (n + 1) p (ea + n - p)).map (fun p => (privAddr w lane p, ⟨7, 0, p, 0x29⟩))
  else []

/-- A lane's bytes: where they lie, or every failure (17 R355). -/
def resolveLane (s : State) (w : Wick) (cx : Cx) (o : OpM) (k : AccKind) (n lane ea : Nat) : List (Nat × PFault) × List (Nat × Nat) × State :=
  match o.sp with
  | .cst => resolveRanges s w cx k none (laneRanges w o n lane ea)
  | .glob | .prv =>
    match growth s w o n lane ea with
    | [] => resolveRanges s w cx k (txOf w o) (laneRanges w o n lane ea)
    | es => (es, [], s)
  | _ => ([], bufferKeys w o n ea, s)

/-- Memory as the wick sees it: its own buffered stores are visible to it (13 R277). -/
def Wick.view (w : Wick) (s : State) : Memory := w.books.ssb.foldl (fun m st => st.cells.foldl (fun m (k, b) => m.set k b) m) s.mem

/-- When the launch of a wick started, as far as a packet says so. -/
def State.launchStart (s : State) (w : Wick) : Nat := ((s.findRun w.info.pkt).map Packet.start).getD 0

/-- Memory as a load sees it: the constant space gives each sector as it stood at some moment since its launch started, unpredictably (04
R94, R100, log 103). -/
def Wick.sees (w : Wick) (o : OpM) (s : State) : Memory :=
  if o.sp = .cst then
    let from_ := s.launchStart w
    (w.view s).asOf s.older.past (fun k => from_ + Config.oldTime s.free (k / 32) % (s.now + 2 - from_))
  else w.view s

/-- The value of n bytes of a lane at its pieces of a memory: bytes past them read zero (04 R94), and bytes of a target of the wick's own
pass are free values (14 R297). -/
def Wick.reads (w : Wick) (o : OpM) (n lane ea : Nat) (m : Memory) (ps : List (Nat × Nat)) (s : State) : Nat :=
  leVal (s.wild w.info.pkt ((laneRanges w o n lane ea).flatMap (fun (a, k) => bytesFrom a k)) (readPieces m ps)) % 2 ^ (8 * n)

/-- What a lane loads. -/
def Wick.loads (w : Wick) (o : OpM) (n lane ea : Nat) (ps : List (Nat × Nat)) (s : State) : Nat := w.reads o n lane ea (w.sees o s) ps s

/-- The bytes of pending log entries an access would touch (17 R356). -/
def Wick.touchesLog (w : Wick) (ranges : List (Nat × Nat)) : Bool :=
  w.books.log.toList.any (fun (e : LogEntry) => e.valid && e.foot.any (fun (_, va, n) =>
    ranges.any (fun (a, k) => decide (a < va + n) && decide (va < a + k))))

/-- The active lanes with their addresses. -/
def laneList (w : Wick) (cx : Cx) (o : OpM) (f : Nat → Nat) : List (Nat × Nat) := (lanesOf cx.act).map (fun i => (i, (laneEa w cx o i + f i) % 2 ^ 64))

/-- What every access of lanes checks: addresses (04 R88), then the wait behind logged bytes (17 R356). -/
def guardAccess (s : State) (w : Wick) (cx : Cx) (o : OpM) (atomic : Bool) (n : Nat) (ls : List (Nat × Nat)) (go : Eff) : Eff :=
  match checkLanes s w o atomic n ls with
  | some t => .trap t
  | none => if !cx.sl && w.touchesLog (ls.flatMap (fun (i, ea) => laneRanges w o n i ea)) then .wait 12 else go

/-- The access kind of a form (17 R351). -/
def accOf (o : OpM) (kind : Nat) (aop : Nat) : AccKind := ⟨kind, o.sc.code, aop⟩

/-- The outcome of lanes that were performed one by one. -/
structure Lanes where
  s : State
  done : Mask := 0
  bad : List (Nat × Nat × PFault) := []
  foot : List (Nat × Nat × Nat) := []

/-- The lanes that remain make the access fault; otherwise it is done. -/
def Lanes.finish (r : Lanes) (kind : AccKind) (whole : Bool) (ok : State → Eff) : Eff :=
  if r.bad.isEmpty then ok r.s else .fault r.s r.done r.bad kind r.foot whole

/-- One lane done. -/
def Lanes.did (r : Lanes) (s : State) (i : Nat) : Lanes := { r with s := s, done := r.done ||| maskOf (· == i) }

/-- One lane failed: none of its bytes is performed (17 R355). -/
def Lanes.fails (r : Lanes) (s : State) (w : Wick) (o : OpM) (n i ea : Nat) (es : List (Nat × PFault)) : Lanes :=
  { r with s := s, bad := r.bad ++ es.map (fun (va, p) => (i, va, p)), foot := r.foot ++ (laneRanges w o n i ea).map (fun (va, k) => (i, va, k)) }

/-- Lanes resolved in ascending order: where the bytes of each that is done lie, beside what fails. -/
def resolveLanes (w : Wick) (cx : Cx) (o : OpM) (k : AccKind) (n : Nat) :
    List (Nat × Nat) → Lanes → List (Nat × Nat × List (Nat × Nat)) → Lanes × List (Nat × Nat × List (Nat × Nat))
  | [], r, l => (r, l)
  | (i, ea) :: rest, r, l =>
    match resolveLane r.s w cx o k n i ea with
    | ([], ps, s') => resolveLanes w cx o k n rest (r.did s' i) (l ++ [(i, ea, ps)])
    | (es, _, s') => resolveLanes w cx o k n rest (r.fails s' w o n i ea es) l

end Sys2Proof.Machine
end

