-- ==== Sys2Proof/Machine/LoadStore.lean ====
section
/-! DEFINITION. The loads and stores (spec/07_memory_copy_and_barriers.md R167 to R171). -/

namespace Sys2Proof.Machine

/-- A 1- or 2-byte element extended to a lane (07 R168). -/
def extLoad (o : OpM) (width v : Nat) : Nat :=
  match o.sz with
  | .b1 => if o.ext then wrapI (sextN v 8) width else v % 2 ^ 8
  | .b2 => if o.ext then wrapI (sextN v 16) width else v % 2 ^ 16
  | _ => v

/-- Lanes loaded: all are resolved, and then read from one memory, so that lanes that read one byte get one value (04 R102). -/
def loadLanes (w : Wick) (cx : Cx) (o : OpM) (n : Nat) (ls : List (Nat × Nat)) (s : State) : Lanes × List (Nat × Nat) :=
  let (r, l) := resolveLanes w cx o (accOf o 0 0) n ls { s := s } []
  (r, l.map (fun (i, ea, ps) => (i, w.loads o n i ea ps r.s)))

/-- The registers of a load's results, low words first (07 R168). -/
def loadRegs (o : OpM) (vs : List (Nat × Nat)) : List (Nat × VReg) :=
  let val (i : Nat) : Nat := ((vs.find? (fun (j, _) => j == i)).map (fun (_, v) => extLoad o 32 v)).getD 0
  (List.range o.sz.regs).map (fun r => (o.d.toNat + r, VReg.ofLanes (fun i => BitVec.ofNat 32 (val i >>> (32 * r)))))

/-- LD, LDC and LDA.SEQ (07 R168): a G result, so a narrow destination is a shape fault (02 R55). -/
def loadBody (s : State) (w : Wick) (cx : Cx) (o : OpM) (off : Nat → Nat) : Eff :=
  let n := o.sz.bytes
  if cx.act ≠ 0 ∧ narrow o.d.toNat then .trap { cause := 0x07 }
  else
    let ls := laneList w cx o off
    guardAccess s w cx o false n ls (
      let (r, vs) := loadLanes w cx o n ls s
      let write (s' : State) : State :=
        s'.putWick ((loadRegs o vs).foldl (fun w (d, v) => w.wrV cx.live r.done d v) w)
      { r with s := write r.s }.finish (accOf o 0 0) false .next)

def execLd (h : Hdr) (o : OpM) (s : State) : Host.Outcome State Fault Refusal :=
  wickStep (.ld h o) s (fun s w cx => loadBody s w cx o (fun _ => 0))

def execLdaSeq (h : Hdr) (o : OpM) (s : State) : Host.Outcome State Fault Refusal :=
  wickStep (.ldaSeq h o) s (fun s w cx => loadBody s w cx o (fun i => i * o.sz.bytes))

/-- LDA.BCAST: one access, a U result (07 R168); a fault logs the whole of it, lane 0 standing for it. -/
def bcastBody (s : State) (w : Wick) (cx : Cx) (o : OpM) : Eff :=
  let n := o.sz.bytes
  if (List.range o.sz.regs).any (fun r => shapeBad cx.live cx.act (o.d.toNat + r) (.u 0)) then .trap { cause := 0x07 }
  else if cx.act = 0 then .next s
  else
    let ls := [(0, laneEa w cx o 0)]
    guardAccess s w cx o false n ls (
      let (r, vs) := loadLanes w cx o n ls s
      { r with done := 0 }.finish (accOf o 0 0) true (fun s' =>
        let v := (vs.head?.map Prod.snd).getD 0
        .next (s'.putWick ((List.range o.sz.regs).foldl (fun w j => w.wrV cx.live cx.act (o.d.toNat + j) (.u (BitVec.ofNat 32 (v >>> (32 * j))))) w))))

def execLdaBcast (h : Hdr) (o : OpM) (s : State) : Host.Outcome State Fault Refusal :=
  wickStep (.ldaBcast h o) s (fun s w cx => bcastBody s w cx o)

/-- LDS (07 R168): one access, extended to 64 bits. -/
def ldsBody (s : State) (w : Wick) (cx : Cx) (o : OpM) : Eff :=
  let n := o.sz.bytes
  let ls := [(0, laneEa w cx o 0)]
  guardAccess s w cx o false n ls (
    let (r, vs) := loadLanes w cx o n ls s
    { r with done := 0 }.finish (accOf o 0 0) false (fun s' =>
      .next (s'.putWick (w.wrS cx.f o.d.toNat (BitVec.ofNat 64 (extLoad o 64 ((vs.head?.map Prod.snd).getD 0)))))))

def execLds (h : Hdr) (o : OpM) (s : State) : Host.Outcome State Fault Refusal :=
  wickStep (.lds h o) s (fun s w cx => ldsBody s w cx o)

/-! ### Stores (07 R169) -/

/-- The data of lane i: the low bytes of D, or of the registers from D on. -/
def storeData (w : Wick) (o : OpM) (i : Nat) : Nat :=
  ((List.range o.sz.regs).foldl (fun acc r => acc + ((w.rdV (o.d.toNat + r)).lane i).toNat * 2 ^ (32 * r)) 0) % 2 ^ (8 * o.sz.bytes)

/-- The cells of the lanes of a store, in ascending order, so that the highest writes a shared byte last (04 R102). -/
def storeLanes (w : Wick) (cx : Cx) (o : OpM) (n : Nat) (data : Nat → Nat) (ls : List (Nat × Nat)) (s : State) : Lanes × List Host.Cell :=
  let (r, l) := resolveLanes w cx o (accOf o 1 0) n ls { s := s } []
  (r, l.flatMap (fun (i, _, ps) => cellsOf ps (leBytes n (data i))))

/-- The cells of a store performed, or buffered in speculation (13 R277). -/
def performStore (s : State) (w : Wick) (cx : Cx) (cs : List Host.Cell) : State :=
  if w.books.svc.isSome && !cx.sl then s.putWick { w with books := { w.books with ssb := w.books.ssb ++ [⟨cs⟩] } } else s.storeCells cs

/-- A store of lanes; in speculation a full buffer waits for the reply (13 R277). -/
def storeBody (s : State) (w : Wick) (cx : Cx) (o : OpM) (ls : List (Nat × Nat)) (data : Nat → Nat) (scalar : Bool) : Eff :=
  let n := o.sz.bytes
  guardAccess s w cx o false n ls (
    if w.books.svc.isSome && !cx.sl && w.books.ssb.length ≥ 64 then
      (if w.books.reply.isSome then .stay (resolveSvc s w) else .wait 13)
    else
      let (r, cs) := storeLanes w cx o n data ls s
      let r' := { r with s := performStore r.s w cx cs }
      (if scalar then { r' with done := 0 } else r').finish (accOf o 1 0) false .next)

def execSt (h : Hdr) (o : OpM) (s : State) : Host.Outcome State Fault Refusal :=
  wickStep (.st h o) s (fun s w cx => storeBody s w cx o (laneList w cx o (fun _ => 0)) (storeData w o) false)

def execSta (h : Hdr) (o : OpM) (s : State) : Host.Outcome State Fault Refusal :=
  wickStep (.sta h o) s (fun s w cx => storeBody s w cx o (laneList w cx o (fun i => i * o.sz.bytes)) (storeData w o) false)

def execSts (h : Hdr) (o : OpM) (s : State) : Host.Outcome State Fault Refusal :=
  wickStep (.sts h o) s (fun s w cx => storeBody s w cx o [(0, laneEa w cx o 0)] (fun _ => (w.rdS cx.f o.d.toNat).toNat % 2 ^ (8 * o.sz.bytes)) true)

end Sys2Proof.Machine
end

