-- ==== Sys2Proof/Machine/Atomic.lean ====
section
/-! DEFINITION. The atomics, fences, instruction-cache, hint, translation-register, wait and queue forms
(spec/07_memory_copy_and_barriers.md R172 to R181). -/

namespace Sys2Proof.Machine

/-! ### Atomics (07 R172, R173) -/

/-- The new value of an operation on n bytes (07 R173). -/
def atomOp (op n old b : Nat) : Nat :=
  let w := 8 * n
  let f := if n = 8 then fF64 else fF32
  match op with
  | 0x00 => (old + b) % 2 ^ w
  | 0x01 => old &&& b
  | 0x02 => old ||| b
  | 0x03 => old ^^^ b
  | 0x04 => if sextN b w < sextN old w then b else old
  | 0x05 => if sextN b w > sextN old w then b else old
  | 0x06 => min old b
  | 0x07 => max old b
  | 0x08 => b
  | 0x09 => if old ≥ b then 0 else old + 1
  | 0x0A => if old = 0 ∨ old > b then b else old - 1
  | 0x0B => (rndF f .rne false false 0 (exAdd .rne (dec f false old) (dec f false b))).pat
  | 0x0C => (rndF f .rne false false 0 (exMinMax false (dec f false old) (dec f false b))).pat
  | _ => (rndF f .rne false false 0 (exMinMax true (dec f false old) (dec f false b))).pat

/-- Lanes performed in ascending order, each its own read-modify-write (04 R102): the old values beside what fails. -/
def atomLanes (w : Wick) (cx : Cx) (o : OpM) (n aop : Nat) (new : Nat → Nat → Nat) :
    List (Nat × Nat) → Lanes → List (Nat × Nat) → Lanes × List (Nat × Nat)
  | [], r, vs => (r, vs)
  | (i, ea) :: rest, r, vs =>
    match resolveLane r.s w cx o (accOf o 2 aop) n i ea with
    | ([], ps, s') =>
      let old := w.reads o n i ea s'.mem ps s'
      atomLanes w cx o n aop new rest (r.did (s'.storeCells (cellsOf ps (leBytes n (new i old)))) i) ((i, old) :: vs)
    | (es, _, s') => atomLanes w cx o n aop new rest (r.fails s' w o n i ea es) vs

/-- The value of lane i in the registers from d on. -/
def laneWord (w : Wick) (n d i : Nat) : Nat := if n = 8 then rdLane w .i64 d i else rdLane w .b32 d i

/-- The old values written to the registers from D on, for the lanes done. -/
def writeOld (w : Wick) (cx : Cx) (o : OpM) (done : Mask) (vs : List (Nat × Nat)) : Wick :=
  (loadRegs { o with ext := false } vs).foldl (fun w (d, v) => w.wrV cx.live done d v) w

def atomBody (s : State) (w : Wick) (cx : Cx) (o : OpM) : Eff :=
  let n := o.sz.bytes
  let op := o.aux.toNat
  if cx.act ≠ 0 ∧ narrow o.d.toNat then .trap { cause := 0x07 }
  else
    let ls := laneList w cx o (fun _ => 0)
    guardAccess s w cx o true n ls (
      let (r, vs) := atomLanes w cx o n op (fun i old => atomOp op n old (laneWord w n o.d.toNat i)) ls { s := s } []
      { r with s := r.s.putWick (writeOld w cx o r.done vs) }.finish (accOf o 2 op) false .next)

def execAtom (h : Hdr) (o : OpM) (s : State) : Host.Outcome State Fault Refusal := wickStep (.atom h o) s (fun s w cx => atomBody s w cx o)

/-- SATOM: one operation; with .cas the compare value is s[D] and the new one s[D+1] (07 R172).
A 4-byte old value is zero-extended into s[D] (DEDUCED, log entry 130). -/
def satomBody (s : State) (w : Wick) (cx : Cx) (o : OpM) : Eff :=
  let n := o.sz.bytes
  let op := o.aux.toNat
  let a := (w.rdS cx.f o.d.toNat).toNat % 2 ^ (8 * n)
  let b := (w.rdS cx.f (o.d.toNat + 1)).toNat % 2 ^ (8 * n)
  let ls := [(0, laneEa w cx o 0)]
  guardAccess s w cx o true n ls (
    let (r, vs) := atomLanes w cx o n op (fun _ old => if op = 0x0E then (if old = a then b else old) else atomOp op n old a) ls { s := s } []
    { r with done := 0 }.finish (accOf o 2 op) false (fun s' =>
      .next (s'.putWick (w.wrS cx.f o.d.toNat (BitVec.ofNat 64 ((vs.head?.map Prod.snd).getD 0))))))

def execSatom (h : Hdr) (o : OpM) (s : State) : Host.Outcome State Fault Refusal := wickStep (.satom h o) s (fun s w cx => satomBody s w cx o)

/-- CAS: compare in D, new value in the register or pair after it; the success predicate has a bit for each lane done. -/
def casBody (s : State) (w : Wick) (cx : Cx) (o : OpM) : Eff :=
  let n := o.sz.bytes
  let d := o.d.toNat
  let k := if n = 8 then 2 else 1
  if cx.act ≠ 0 ∧ narrow d then .trap { cause := 0x07 }
  else
    let ls := laneList w cx o (fun _ => 0)
    guardAccess s w cx o true n ls (
      let (r, vs) := atomLanes w cx o n 0x0E (fun i old => if old = laneWord w n d i then laneWord w n (d + k) i else old) ls { s := s } []
      let ok := maskOf (fun i => vs.any (fun (j, old) => j == i && old == laneWord w n d i))
      let w' := (writeOld w cx o r.done vs).wrP (o.aux.toNat % 16) r.done ok
      { r with s := r.s.putWick w' }.finish (accOf o 2 0x0E) false .next)

def execCas (h : Hdr) (o : OpM) (s : State) : Host.Outcome State Fault Refusal := wickStep (.cas h o) s (fun s w cx => casBody s w cx o)

/-! ### Fences, caches, translation registers (07 R176 to R179) -/

/-- FENCE: in an execution in one order it has no effect of its own (07 R176, log 3). -/
def execFence (h : Hdr) (o : OpM) (s : State) : Host.Outcome State Fault Refusal := wickStep (.fence h o) s (fun s _ _ => .next s)

/-- The unit a scope below device takes in (07 R177): the issuing core, or its cluster. -/
def icScope (w : Wick) (sc : Scope) : Unit_ := ⟨w.info.cluster, if sc.code ≤ 1 then some w.info.core else none⟩

/-- ICINV: the covered lines are fetched new (07 R177, 05 R125). -/
def icinvBody (s : State) (w : Wick) (cx : Cx) (h : Hdr) (o : OpM) : Eff :=
  let ea := laneEa w cx o 0
  let range := if h.sub = 1 then none else some (w.info.ctx, ea, ea + (w.rdS cx.f o.d.toNat).toNat)
  once cx s (.next { s with icinvs := ⟨o.sc.code, icScope w o.sc, range, s.now⟩ :: s.icinvs })

def execIcinv (h : Hdr) (o : OpM) (s : State) : Host.Outcome State Fault Refusal := wickStep (.icinv h o) s (fun s w cx => icinvBody s w cx h o)

/-- CACHE is a hint: no architectural effect (07 R178). -/
def execCache (h : Hdr) (o : OpM) (s : State) : Host.Outcome State Fault Refusal := wickStep (.cache h o) s (fun s _ _ => .next s)

/-- Attributes of a leaf that must agree along the run of TXL: everything but V, A, D, PA. -/
def leafAttrs (e : Nat) : Nat := fld e 1 11 + at_ (fld e 14 1) 12

/-- The bytes of further entries of the table that continue a run: same attributes, next physical page (07 R179). -/
def runFrom (s : State) (c lvl ent idx attrs pa : Nat) : Nat → Nat
  | 0 => 0
  | fuel + 1 =>
    if idx ≥ 2 ^ levelBits lvl then 0
    else
      let e := s.mem.read (keyLocal ent) 8
      if e.testBit 0 && e.testBit 63 && !entryMalformed e lvl && (s.homeFault c ⟨lvl, e, ent⟩).isNone && leafAttrs e == attrs
          && fld e 19 33 * 2 ^ 19 == pa then
        leafSize lvl + runFrom s c lvl (ent + 8) (idx + 1) attrs (pa + leafSize lvl) fuel
      else 0

/-- A, and D when writes are permitted, set in n entries of a run (17 R353), by an OR on each that still maps the run's page. -/
def markRun (m : Memory) (ent pa size bits : Nat) : Nat → Memory
  | 0 => m
  | n + 1 =>
    let e := m.read (keyLocal ent) 8
    markRun (if e.testBit 0 && fld e 19 33 * 2 ^ 19 == pa then m.write (keyLocal ent) 8 (e ||| bits) else m) (ent + 8) (pa + size) size bits n

/-- The translation register TXL writes for an address (07 R179, 04 R97), and how many leaves of the run LIMIT covers (17 R353). -/
def txFor (s : State) (c ea : Nat) (k : Walk) : Tx × Nat :=
  let e := k.entry
  let size := leafSize k.lvl
  let idx := levelIndex ea k.lvl
  let base := leafPa k (ea - ea % size)
  let more := runFrom s c k.lvl (k.ent + 8) (idx + 1) (leafAttrs e) (base + size) (2 ^ levelBits k.lvl)
  let len := size - ea % size + more
  let home := fld e 8 2
  let cls := fld e 6 2
  ({ vbase := BitVec.ofNat 57 ea, valid := true, pbase := BitVec.ofNat 52 (leafPa k ea), limit := BitVec.ofNat 40 (min len (2 ^ 40 - 1)),
     rd := e.testBit 1, wr := e.testBit 2, atom := cls == 0 && home < 2, home := BitVec.ofNat 2 home }, (ea % size + min len (2 ^ 40 - 1) + size - 1) / size)

def txlBody (s : State) (w : Wick) (cx : Cx) (o : OpM) : Eff :=
  let ea := laneEa w cx o 0
  if cx.act = 0 then .next s
  else if ea ≥ 2 ^ 57 then .trap { cause := 0x10, mask := 1, val := BitVec.ofNat 64 ea }
  else if !cx.sl && w.touchesLog [(ea, 1)] then .wait 12
  else
    match xlateWalk s w.info.ctx cx.sl ⟨0, 0, 0⟩ ea with
    | (.error p, s') => .fault s' 0 [(0, ea, p)] ⟨0, 0, 0⟩ [(0, ea, 1)] false
    | (.ok k, s') =>
      let (t, n) := txFor s' w.info.ctx ea k
      let size := leafSize k.lvl
      let m := markRun s'.mem k.ent (leafPa k (ea - ea % size)) size (if t.wr then 0x3000 else 0x1000) n
      .next ({ s' with mem := m }.putWick { w with regs := { w.regs with tx := w.regs.tx.setIfInBounds o.tx.toNat t } })

def execTxl (h : Hdr) (o : OpM) (s : State) : Host.Outcome State Fault Refusal := wickStep (.txl h o) s (fun s w cx => txlBody s w cx o)

/-- TXI clears V (07 R179). -/
def txiRun (w : Wick) (h : Hdr) (o : OpM) : Wick :=
  let tx := if h.sub = 0 then w.regs.tx.setIfInBounds o.tx.toNat { (w.regs.tx[o.tx.toNat]?.getD {}) with valid := false }
    else w.regs.tx.map (fun t => { t with valid := false })
  { w with regs := { w.regs with tx := tx } }

def execTxi (h : Hdr) (o : OpM) (s : State) : Host.Outcome State Fault Refusal :=
  wickStep (.txi h o) s (fun s w cx => once cx s (.next (s.putWick (txiRun w h o))))

/-! ### WAITM (07 R180) -/

/-- The condition of WAITM on n-byte values: 0 EQ, 1 NE, 2 GEU, 3 LTU, 4 GES, 5 LTS. -/
def waitmCond (sub n v x : Nat) : Bool :=
  match sub with
  | 0 => v == x
  | 1 => v != x
  | 2 => decide (v ≥ x)
  | 3 => decide (v < x)
  | 4 => decide (sextN v (8 * n) ≥ sextN x (8 * n))
  | _ => decide (sextN v (8 * n) < sextN x (8 * n))

def waitmBody (s : State) (w : Wick) (cx : Cx) (h : Hdr) (o : OpM) : Eff :=
  let n := o.sz.bytes
  let ls := [(0, laneEa w cx o 0)]
  if cx.act = 0 then .next s
  else
    guardAccess s w cx o false n ls (
      let (r, vs) := loadLanes w cx o n ls s
      { r with done := 0 }.finish (accOf o 0 0) true (fun s' =>
        let v := (vs.head?.map Prod.snd).getD 0
        if waitmCond h.sub.toNat n v ((w.rdS cx.f o.d.toNat).toNat % 2 ^ (8 * n)) then .next (s'.putWick (w.wrS cx.f o.d.toNat (BitVec.ofNat 64 v)))
        else .wait 9))

def execWaitm (h : Hdr) (o : OpM) (s : State) : Host.Outcome State Fault Refusal := wickStep (.waitm h o) s (fun s w cx => waitmBody s w cx h o)

/-! ### LDQ (07 R181, 19 R390) -/

/-- LDQ appends the loaded lanes to a queue; what fails is recorded at issue and carried by the entry. -/
def ldqBody (s : State) (w : Wick) (cx : Cx) (i0 : Instr) (o : OpM) : Eff :=
  let n := o.sz.bytes
  let q := o.d.toNat % 4
  if !w.inAccess then .trap { cause := 0x01 }
  else if (w.books.qp[q]?.getD []).length ≥ 8 then .wait 3
  else
    let ls := laneList w cx o (fun _ => 0)
    guardAccess s w cx o false n ls (
      let (r, vs) := loadLanes w cx o n ls s
      let bad := maskOf (fun i => r.bad.any (fun (j, _, _) => j == i))
      let x (i : Nat) : Lane := if o.x = 0xFF then 0 else (w.rdV o.x.toNat).lane i
      let val (i : Nat) : Lane :=
        if bad.getLsbD i then x i
        else match vs.find? (fun (j, _) => j == i) with
          | some (_, v) => BitVec.ofNat 32 (extLoad o 32 v)
          | none => 0
      let low := (r.bad.head?).map (fun (i, _, p) => (i, p.cause))
      let e : QEntry := { lanes := Vector.ofFn (fun i : Fin 32 => val i.val), faulted := bad != 0,
                          cause := BitVec.ofNat 8 ((low.map Prod.snd).getD 0), fmask := bad,
                          faddr := BitVec.ofNat 64 ((low.bind (fun (i, _) => (ls.find? (fun (j, _) => j == i)).map Prod.snd)).getD 0),
                          ldq := (encode i0).getD 0 }
      let recs := laneRecs s w cx.pc 2 none (accOf o 0 0) r.bad
      if bad != 0 && s.ringFull w.info.ctx recs.length then .wait 12
      else
        let w' := { w with books := { w.books with qp := w.books.qp.setIfInBounds q ((w.books.qp[q]?.getD []) ++ [e]) } }
        .next (wickFaults (r.s.putWick w') w.info.uid w.info.ctx recs))

def execLdq (h : Hdr) (o : OpM) (s : State) : Host.Outcome State Fault Refusal := wickStep (.ldq h o) s (fun s w cx => ldqBody s w cx (.ldq h o) o)

end Sys2Proof.Machine
end

