-- ==== Sys2Proof/Machine/Start.lean ====
section
/-! DEFINITION. Room on a core, the passing of a core to a context, and what a wick holds when it starts
(spec/01_execution_model.md R31 to R38, spec/09_matrix_engine.md R207, spec/19_command_processing_and_scheduling.md R389). -/

namespace Sys2Proof.Machine

/-! ### Room -/

/-- The wick holds a slot of a core (01 R17, 16 R338). -/
def Wick.onCore (w : Wick) (core : Nat) : Bool :=
  w.info.coreId == core && (match w.info.stage with
    | .resident | .halted => true
    | _ => false)

/-- The wicks in slots of a partition of a core. -/
def State.inPart (s : State) (core p : Nat) : List Wick := s.wicks.filter (fun w => w.onCore core && w.info.part == p)

/-- A free slot of a partition that has room for NG registers (01 R32). -/
def State.slotIn (s : State) (core p ng : Nat) : Option Nat :=
  let ws := s.inPart core p
  if ws.length < 16 && decide ((ws.map (fun w => w.info.ng)).foldl (· + ·) 0 + ng ≤ 1024) then
    (List.range 16).find? (fun n => ws.all (fun w => w.info.slot != n))
  else none

/-- The first partition of a core with a slot. -/
def State.slotOn (s : State) (core ng : Nat) : Option (Nat × Nat) :=
  (List.range 4).findSome? (fun p => (s.slotIn core p ng).map (fun n => (p, n)))

/-- The lowest free slot of a context's save pool (16 R331). -/
def State.saveSlot (s : State) (c : Nat) : Option Nat :=
  (List.range (min (s.ctxReg c 0x08) (s.wicks.length + 1))).find? (fun n => s.wicks.all (fun w => w.info.ctx != c || w.info.save != n))

/-- Engine commands of another context still run on a core. -/
def State.busyFor (s : State) (core c : Nat) : Bool :=
  s.copies.any (fun x => coreKey x.cluster x.core == core && x.chan < 2048 && x.ctx != c && !x.done && !x.rest)
    || s.matrices.any (fun m => m.core == core && m.queue.any (fun i => i.ctx != c && !i.done && !i.rest))
    || s.rays.any (fun r => coreKey r.cluster r.core == core && r.ctx != c && !r.rest)
    || s.flushes.any (fun f => f.core == core && f.ctx != c)

/-- A core of this index is retired (20 R403). -/
def State.coreRetired (s : State) (cluster core : Nat) : Bool := (s.retired[cluster]?.getD 0).getLsbD core

/-- A core may take wicks of this context: it is live and holds none of another (09 R207). -/
def State.coreOk (s : State) (c cluster core : Nat) : Bool :=
  !s.coreRetired cluster core && !s.busyFor (coreKey cluster core) c
    && s.wicks.all (fun w => !w.onCore (coreKey cluster core) || w.info.ctx == c)

/-- The clusters of a partition (20 R400). -/
def State.partClusters (s : State) (part : Nat) : List Nat :=
  (List.range 8).filter (fun c => (s.cfg.partcfg[part]?.getD 0).getLsbD c)

/-- The partition of a context. -/
def State.ctxPart (s : State) (c : Nat) : Nat :=
  match s.findCtx c with
  | some x => x.part
  | none => 0

/-- Cores that could take one wick of a context now. -/
def State.openCores (s : State) (c ng : Nat) : List (Nat × Nat) :=
  (s.partClusters (s.ctxPart c)).flatMap (fun cl =>
    ((List.range 64).filter (fun k => s.coreOk c cl k && (s.slotOn (coreKey cl k) ng).isSome)).map (fun k => (cl, k)))

/-- One of a list's elements, unpredictably: the spec leaves the choice of a core to the Candelabrum. -/
def State.choose (s : State) (l : List α) : Option α × State :=
  if l.isEmpty then (none, s) else
    let (n, s') := s.fresh
    (l[n % l.length]?, s')

/-! ### A core passes to a context (09 R207, 13 R259, R276) -/

/-- Tiles and WB are filled with zeros, the latch descriptors cleared, the environment entries freed with GEN 1, and the
predictor cleared, when another context takes the core. -/
def passCore (s : State) (core c : Nat) : State :=
  match s.holders.find? (fun (k, _) => k == core) with
  | some (_, h) => if h = c then s else clear s
  | none => clear s
where
  clear (s : State) : State :=
    { s with
      mem := (s.mem.wipe (keyCb core 0) (2 ^ 18)).wipe (keyWb core 0) (2 ^ 23)
      matrices := s.matrices.map (fun (m : Matrix) => if m.core == core then { m with adesc := none, wdesc := none, alatch := none, wlatch := none } else m)
      env := s.env.filter (fun x => x.core != core)
      predict := s.predict.filter (fun (k, _) => k / 64 != core)
      holders := (core, c) :: s.holders.filter (fun (k, _) => k != core) }

/-! ### Precedence (19 R385, R388) -/

/-- The class a launch runs at: its own, or CAP when that is lower (19 R370). -/
def State.classOf (s : State) (pkt : Nat) : Nat :=
  match s.findRun pkt with
  | some p => (match p.launch with
    | some l => max (l.fld 3 2) p.cap
    | none => p.cap)
  | none => 3

/-- A started launch has wicks its placement has still to start: the ranks of a grid, the one of a closure, tiles, blocks. -/
def Packet.hasMore (p : Packet) : Bool :=
  p.started && !p.ended && !p.cancelled && (match p.launch with
    | none => false
    | some l =>
      match l.fld 0 3 with
      | 0 => decide (l.nextRank < l.fld 64 32)
      | 1 => (l.query.getD []).any (fun q => q.next != some 0)
      | 3 => l.tilePhase && decide (l.nextTile < cdiv (fld l.pass 160 14) 32 * cdiv (fld l.pass 176 14) 32)
      | 4 => l.nextRank == 0
      | _ => false)

/-- The place of a launch in the order: class, restores before launches, ascending LSEQ. -/
def launchKey (s : State) (p : Packet) : Nat := s.classOf p.id * 2 ^ 130 + 2 ^ 129 + p.lseq

/-- The class a descheduled group is restored at: one higher after a wake, but not RT. -/
def State.restoreClass (s : State) (g : Group) : Nat :=
  let c := s.classOf g.pkt
  if g.boost && decide (2 ≤ c) then c - 1 else c

/-- The place of a restore in the order. -/
def restoreKey (s : State) (g : Group) (since : Nat) : Nat := s.restoreClass g * 2 ^ 130 + since

/-- The groups and launches of a partition that wait for placement, by their place. -/
def waitingKeys (s : State) (part : Nat) : List Nat :=
  (s.groups.filter (fun g => g.part == part)).filterMap (fun g => match g.stage with
    | .descheduled t => some (restoreKey s g t)
    | _ => none)
    ++ (s.packets.filter (fun p => p.part == part && p.hasMore)).map (launchKey s)

/-- A start for a launch is held back: its partition is stopped, or something of higher precedence waits. -/
def State.heldBack (s : State) (p : Packet) : Bool := s.partStopped p.part || (waitingKeys s p.part).any (fun k => decide (k < launchKey s p))

/-! ### What a wick starts with (01 R37) -/

/-- What tells one start from another: the launch, the kind, and the registers of R38 and R301. -/
structure Start where
  pkt : Nat
  ctx : Nat
  lseq : BitVec 32
  rank : Nat
  kind : WickKind
  ng : Nat
  entry : Word
  mask : Mask := fullMask
  ftz : Bool := false
  args : Word := 0
  sregs : List (Nat × Word) := []
  vregs : List (Nat × VReg) := []
  k15 : Word := 0
  pbase : Word := 0
  psize : Nat := 0
  cbase : Word := 0
  clen : Nat := 0
  nodeDepth : Nat := 0
  graph : Option (Nat × Nat) := none
  cont : Option ContInfo := none
  origin : List Origin := []
  tile : Option TileRef := none
  /-- The access entry of a sliced wick (19 R389). -/
  aentry : Option Word := none
  deriving DecidableEq, Repr

/-- s4: the band indices of the slots and their number (01 R37). -/
def bandWord (s : State) (refs : List BandRef) : Nat :=
  let idx := refs.map (fun r => match s.findBand r.band with
    | some b => b.index
    | none => 0)
  packElems 8 (idx.take 4) + at_ refs.length 32

/-- The AB window base of a band, zero without a window (01 R37). -/
def windowBase (s : State) (r : BandRef) : Word :=
  match s.findBand r.band with
  | some b => if b.win = 0 then 0 else BitVec.ofNat 64 b.off
  | none => 0

/-- s12: the slots whose producer the wick is (01 R37). -/
def prodWord (s : State) (refs : List BandRef) : Nat :=
  packElems 1 (refs.map (fun r => match s.findBand r.band with
    | some b => if b.prod = r.pos then 1 else 0
    | none => 0))

/-- A register vector with some registers set. -/
def setMany (v : Vector α n) (l : List (Nat × α)) : Vector α n := l.foldl (fun v (i, x) => v.setIfInBounds i x) v

/-- The registers of R37 with those of the start (01 R37, R38, 03 R78). -/
def startRegs (s : State) (st : Start) (i : WickInfo) : Regs :=
  let common : List (Nat × Word) :=
    [(3, st.args), (4, BitVec.ofNat 64 (bandWord s i.bands)), (5, BitVec.ofNat 64 st.rank), (6, BitVec.ofNat 64 i.loc),
     (12, BitVec.ofNat 64 (prodWord s i.bands))] ++ (i.bands.zipIdx).map (fun (r, j) => (8 + j, windowBase s r))
  { s := setMany (Vector.replicate 44 0) (common ++ st.sregs)
    p := (Vector.replicate 15 0).setIfInBounds 0 st.mask
    v := setMany (Vector.replicate 248 (.u 0)) st.vregs
    k := (Vector.replicate 16 0).setIfInBounds 15 st.k15
    ftz := st.ftz
    gens := Vector.ofFn (fun g : Fin 33 => seedGen (BitVec.ofNat 32 st.rank) g.val) }

/-- The debug controls of a context, bytes 0x40 to 0xC7 of its debug block, read at placement, restore and ERET (21 R413). -/
def readDebug (s : State) (c : Nat) : Nat × State :=
  if s.dbgen c then
    match s.ctxRead c (s.dblk c + 0x40) 0x88 with
    | (.ok v, s') => (v, s')
    | (.error _, s') => (0, s')
  else (0, s)

/-- A register of free content and shape; a narrow one holds U or A. -/
def freeVReg (n k : Nat) : VReg :=
  let x (j : Nat) : Lane := (Config.freeValue (n + j)).setWidth 32
  match (Config.freeValue n).toNat % (if narrow k then 2 else 3) with
  | 0 => .u (x 1)
  | 1 => .a (x 1) (x 2)
  | _ => VReg.ofLanes (fun i => x (3 + i))

/-- Translation registers that are not valid: the fields 04 R97 resets to X are free values. -/
def freeTxs (n : Nat) : Vector Tx 7 := Vector.ofFn (fun i : Fin 7 =>
  let word (j : Nat) : Word := Config.freeValue (n + 8 * i.val + j)
  { vbase := (word 0).setWidth 57, pbase := (word 1).setWidth 52, limit := (word 2).setWidth 40, home := (word 3).setWidth 2
    rd := (word 4).getLsbD 0, wr := (word 5).getLsbD 0, atom := (word 6).getLsbD 0 })

/-- The registers R37 does not list, which hold any value when a wick starts (log 4). -/
def Wick.unset (w : Wick) (n : Nat) : Wick :=
  { w with
    regs := { w.regs with
      tx := freeTxs n
      klink := Vector.ofFn (fun i : Fin 16 => Config.freeValue (n + 64 + i.val))
      uiSavePc := Config.freeValue (n + 80)
      uiSaveQ := (Config.freeValue (n + 81)).setWidth 15 }
    trap := { w.trap with
      s := Vector.ofFn (fun i : Fin 4 => Config.freeValue (n + 82 + i.val))
      v := Vector.ofFn (fun i : Fin 4 => freeVReg (n + 96 + 36 * i.val) (252 + i.val)) }
    access := w.access.map (fun a => { a with tx := freeTxs (n + 256) }) }

/-- Free values a wick takes at its start. -/
def unsetFree : Nat := 512

/-- The access slice of a sliced wick at its start (19 R389). -/
def startAccess (r : Regs) (mask : Mask) (entry : Word) : Access :=
  { live := true, entry := true, s := r.s, p := r.p, tx := r.tx, v := Vector.ofFn (fun i : Fin 120 => r.v[128 + i.val]?.getD (.u 0)),
    frags := (Vector.replicate 8 {}).setIfInBounds 0 { mask := mask, state := .running, pc := entry } }

/-- A wick started in a slot (01 R31, R37). -/
def addWick (s : State) (st : Start) (cluster core part slot save group : Nat) (bands : List BandRef) : State :=
  let s1 := passCore s (coreKey cluster core) st.ctx
  let (dbg, s2) := readDebug s1 st.ctx
  let info : WickInfo :=
    { uid := s2.nextUid, pkt := st.pkt, ctx := st.ctx, lseq := st.lseq, rank := st.rank, kind := st.kind, group := group,
      cluster := cluster, core := core, part := part, slot := slot, save := save, ng := st.ng, sliced := st.aentry.isSome,
      bands := bands, origin := st.origin, cont := st.cont, tile := st.tile, pbase := st.pbase, psize := st.psize,
      cbase := st.cbase, clen := st.clen, nodeDepth := st.nodeDepth, graph := st.graph, ready := s2.clock cluster }
  let regs := startRegs s2 st info
  let w : Wick :=
    { info := info, live := st.mask, regs := regs,
      frags := (Vector.replicate 8 {}).setIfInBounds 0 { mask := st.mask, state := .running, pc := st.entry },
      books := { debug := dbg, entry := some 0 },
      access := st.aentry.map (fun e => startAccess regs st.mask e) }
  { s2 with nextUid := s2.nextUid + 1, free := s2.free + unsetFree, wicks := s2.wicks ++ [w.unset s2.free] }

/-- An unbanded wick: a placement group of its own (01 R31). Nothing when there is no room for it now, or no save slot. -/
def startAlone (s : State) (st : Start) (cores : List (Nat × Nat)) : Option State :=
  match s.saveSlot st.ctx with
  | none => none
  | some save =>
    match s.choose cores with
    | (none, _) => none
    | (some (cl, k), s1) =>
      match s1.slotOn (coreKey cl k) st.ng with
      | none => none
      | some (p, n) =>
        let gid := s1.nextUid
        let g : Group := { id := gid, pkt := st.pkt, ctx := st.ctx, part := s1.ctxPart st.ctx, cluster := cl, uids := [gid + 1] }
        some (addWick { s1 with nextUid := s1.nextUid + 1, groups := s1.groups ++ [g] } st cl k p n save gid [])

/-- The fields every start of a launch takes from its record (19 R375). -/
def launchStart (p : Packet) (l : Launch) (rank : Nat) (kind : WickKind) (entry : Word) : Start :=
  { pkt := p.id, ctx := p.ctx, lseq := BitVec.ofNat 32 p.lseq, rank := rank, kind := kind, ng := l.fld 32 8, entry := entry,
    ftz := l.record.testBit 7, args := BitVec.ofNat 64 (l.fld 256 64), pbase := BitVec.ofNat 64 (l.fld 448 64),
    psize := l.fld 512 32, cbase := BitVec.ofNat 64 (l.fld 576 64), clen := l.fld 544 32,
    aentry := if l.record.testBit 6 then some (BitVec.ofNat 64 (l.fld 192 64)) else none }

/-- A start that a launch's engines make, unbanded and unsliced: continuation, node and callback wicks. -/
def plainStart (p : Packet) (l : Launch) (rank : Nat) (kind : WickKind) (entry : Word) : Start :=
  { launchStart p l rank kind entry with aentry := none }

end Sys2Proof.Machine
end

