-- ==== Sys2Proof/Machine/Copy.lean ====
section
/-! DEFINITION. Shape records, the copy forms and the copy channels (spec/07_memory_copy_and_barriers.md R182 to R195, R200;
spec/04_memory_and_ordering.md R113 to R118). -/

namespace Sys2Proof.Machine

/-! ### Records read at issue -/

/-- A record of len bytes read as an ordinary load of the wick, its bytes in a target of the wick's own pass free values (14 R297); a fault
logs the whole instruction (17 R355), which would touch the record and the others that more lists (17 R356). -/
def withRecord (s : State) (w : Wick) (cx : Cx) (va len : Nat) (go : State → Nat → Eff) (more : List (Nat × Nat) := []) : Eff :=
  if va + len > 2 ^ 57 then .trap { cause := 0x10, val := BitVec.ofNat 64 va }
  else
    let (es, ps, s') := resolveRanges s w cx ⟨0, 0, 0⟩ none (pages va len)
    if es.isEmpty then go s' (s'.wildVal w.info.pkt va len (leVal (readPieces s'.mem ps)))
    else .fault s' 0 (es.map (fun (a, p) => (0, a, p))) ⟨0, 0, 0⟩ (((va, len) :: more).map (fun (a, n) => (0, a, n))) true

/-- The fields of a shape record (07 R182). -/
def parseShape (r : Nat) : Shape :=
  { base := BitVec.ofNat 64 (fld r 0 64), ext := (List.range 5).map (fun i => fld r (64 + 32 * i) 32),
    str := (List.range 5).map (fun i => sextN (fld r (224 + 32 * i) 32) 32), pad := BitVec.ofNat 64 (fld r 384 64),
    esz := 2 ^ fld r 448 3, ndim := fld r 451 3, space := fld r 454 3, core := fld r 457 6, tx := fld r 464 3 }

/-- 07 R182 and 00 R12 on a record: false when it is malformed by itself. -/
def shapeOk (r : Nat) : Bool :=
  let x := parseShape r
  decide (fld r 448 3 < 5) && decide (1 ≤ x.ndim) && decide (x.ndim ≤ 5)
    && (x.space == 0 || x.space == 2 || x.space == 3 || x.space == 6)
    && (x.space == 3 || x.core == 0) && fld r 463 1 == 0 && fld r 467 45 == 0
    && (x.ext.zipIdx).all (fun (e, i) => if i < x.ndim then decide (1 ≤ e) else e == 0)
    && (x.str.zipIdx).all (fun (st, i) => decide (i < x.ndim) || st == 0)

/-- The elements of the first n dimensions. -/
def extProd (x : Shape) (n : Nat) : Nat := (x.ext.take n).foldl (· * ·) 1

/-- The whole of a destination (07 R185). -/
def shapeBytes (x : Shape) : Nat := extProd x x.ndim * x.esz

/-- Whether a destination record names an invalid translation register (07 R185). -/
def txInvalid (w : Wick) (x : Shape) : Bool := x.space == 0 && x.tx != 7 && !(w.regs.tx[x.tx]?.getD {}).valid

/-! ### The traversal (07 R183, R189, R190) -/

/-- The dimensions an element index runs over: all of them, or all but the outermost in a copy by rows. -/
def Copy.dims (c : Copy) : Nat := if c.rows.isSome then c.dst.ndim - 1 else c.dst.ndim

def Copy.srcDims (c : Copy) : Nat := if c.rows.isSome then c.src.ndim - 1 else c.src.ndim

/-- Elements of a row, or of the whole copy. -/
def Copy.rowLen (c : Copy) : Nat := extProd c.dst c.dims

/-- Elements of the whole copy. A mask none of whose cores holds the window leaves none: no source is read and wpCH does not advance
(DEDUCED, log entry 132). -/
def Copy.total (c : Copy) : Nat :=
  match c.targets, c.rows with
  | some [], _ => 0
  | _, some rs => rs.length * c.rowLen
  | _, none => c.rowLen

/-- The indices (d0, d1, …) of the n-th element over these extents. -/
def digits : List Nat → Nat → List Nat
  | [], _ => []
  | e :: es, n => n % e :: digits es (n / e)

/-- Σ di × STRi. -/
def dot : List Nat → List Int → Int
  | d :: ds, x :: xs => (d : Int) * x + dot ds xs
  | _, _ => 0

/-- The source offset of the n-th element, when the source has it, and its destination offset. -/
def Copy.elem (c : Copy) (n : Nat) : Option Nat × Nat :=
  let ds := digits (c.dst.ext.take c.dims) (n % c.rowLen)
  let row := (c.rows.bind (fun rs => rs[n / c.rowLen]?)).getD (0, 0)
  let rowOff (x : Shape) (r : Nat) : Int := if c.rows.isSome then (r : Int) * (x.str[x.ndim - 1]?.getD 0) else 0
  let srcExt := (c.src.ext.take c.srcDims) ++ List.replicate 5 1
  let valid := (ds.zip srcExt).all (fun (d, e) => decide (d < e)) && (c.rows.isNone || decide (row.1 < c.src.ext[c.src.ndim - 1]?.getD 0))
  let addr (x : Shape) (r : Nat) (k : Nat) : Nat :=
    wrapI ((x.base.toNat : Int) + rowOff x r + dot ds (x.str.take k)) 64
  (if valid then some (addr c.src row.1 c.srcDims) else none, addr c.dst row.2 c.dims)

/-- The bytes a missing source element gives: PAD, twice for 16 bytes (07 R183). -/
def padBytes (x : Shape) : List Byte := (leBytes 8 x.pad.toNat ++ leBytes 8 x.pad.toNat).take x.esz

/-- The places of n bytes of a side: keys, or the failures of a global address (17 R355). -/
def sideKeys (s : State) (ctx cluster core : Nat) (x : Shape) (kind a n : Nat) (at_ : Nat) : Except (Nat × PFault) (List (Nat × Nat)) × State :=
  match x.space with
  | 0 => xlatePieces s ctx false ⟨kind, 0, 0⟩ (pages a n)
  | 2 => (.ok [(keyAb (coreKey cluster at_) a, n)], s)
  | 3 => (.ok [(keyAb (coreKey cluster x.core) a, n)], s)
  | _ => (.ok [(keyWb (coreKey cluster core) a, n)], s)

/-- Bytes read, each either what stands there or, where this copy has written, unpredictably what stood there before (07 R183). -/
def readShadow (s : State) (c : Copy) (ps : List (Nat × Nat)) : List Byte × State :=
  let now := readPieces s.mem ps
  let keys := ps.flatMap (fun (k, n) => (List.range n).map (k + ·))
  if keys.any (fun k => c.shadow.any (fun (k', _) => k' == k)) then
    let (n, s') := s.fresh
    if n % 2 = 0 then (now, s')
    else ((keys.zip now).map (fun (k, b) => ((c.shadow.find? (fun (k', _) => k' == k)).map Prod.snd).getD b), s')
  else (now, s)

/-- The cells as they stand, for those not yet recorded. -/
def shadowOf (s : State) (c : Copy) (cells : List Host.Cell) : List Host.Cell :=
  (cells.filter (fun (k, _) => !c.shadow.any (fun (k', _) => k' == k))).map (fun (k, _) => (k, s.mem.get k))

/-- Element n of a copy delivered whole to a core of the cluster, or the failure it meets (04 R116, R117). -/
def deliverTo (s : State) (c : Copy) (n core : Nat) : Except (Nat × PFault) (State × Copy) :=
  let (src, dst) := c.elem n
  let len := c.dst.esz
  let got : Except (Nat × PFault) (List Byte × State) :=
    match src with
    | none => .ok (padBytes c.src, s)
    | some a =>
      match sideKeys s c.ctx c.cluster c.core c.src 0 a len c.core with
      | (.error e, _) => .error e
      | (.ok ps, s1) =>
        let (bs, s2) := readShadow s1 c ps
        .ok (if c.src.space = 0 then s2.wild c.pkt (bytesFrom a len) bs else bs, s2)
  match got with
  | .error e => .error e
  | .ok (bs, s1) =>
    match sideKeys s1 c.ctx c.cluster c.core c.dst 1 dst len core with
    | (.error e, _) => .error e
    | (.ok ps, s2) => let cells := cellsOf ps bs; .ok (s2.storeCells cells, { c with shadow := c.shadow ++ shadowOf s2 c cells })

/-- The next element of the i-th target of a CPYM delivered; pos is how many every target has (07 R191). -/
def deliverAt (s : State) (c : Copy) (i core : Nat) : Except (Nat × PFault) (State × Copy) :=
  let n := c.ats[i]?.getD 0
  match deliverTo s c n core with
  | .error e => .error e
  | .ok (s', c') => let ats := modAt c.ats i (fun _ => n + 1); .ok (s', { c' with ats := ats, pos := ats.foldl min (n + 1) })

/-- The next element of a copy delivered, or the failure it meets. A CPYM delivers to one of its cores, unpredictably which (04 R118); it
meets a failure when the core furthest behind does. -/
def deliver (s : State) (c : Copy) : Except (Nat × PFault) (State × Copy) :=
  match c.targets with
  | none =>
    (match deliverTo s c c.pos c.core with
     | .error e => .error e
     | .ok (s', c') => .ok (s', { c' with pos := c.pos + 1 }))
  | some cores =>
    let left := (cores.zipIdx).filter (fun (_, i) => decide (c.ats[i]?.getD 0 < c.total))
    match s.choose left, left.find? (fun (_, i) => c.ats[i]?.getD 0 == c.pos) with
    | (some (core, i), s1), some (core', i') =>
      (match deliverAt s1 c i core with
       | .ok r => .ok r
       | .error _ => deliverAt s1 c i' core')
    | _, _ => .ok (s, c)

/-! ### Channels -/

def State.chan (s : State) (id : Nat) : Chan := (s.chans.find? (fun c => c.id == id)).getD { id := id }

def State.putChan (s : State) (c : Chan) : State := { s with chans := c :: s.chans.filter (fun x => x.id != c.id) }

/-- A copy replaced by its newer self. -/
def State.putCopy (s : State) (c : Copy) : State :=
  { s with copies := modFirst (fun x => x.chan == c.chan && x.seq == c.seq) (fun _ => c) s.copies }

/-- Copies of a channel not yet completed, oldest first; those at rest are in no channel (16 R337). -/
def State.openCopies (s : State) (chan : Nat) : List Copy := s.copies.filter (fun c => c.chan == chan && !c.done && !c.rest)

/-- The core channel a form names. -/
def chanOf (w : Wick) (o : OpX) : Nat := w.info.coreId * 4 + o.flags.toNat % 4

/-- The token of a copy (07 R187). -/
def copyToken (w : Wick) (ch seq : Nat) : Word :=
  BitVec.ofNat 64 (seq % 2 ^ 32 + ch % 4 * 2 ^ 32 + w.info.core % 64 * 2 ^ 34 + w.info.cluster % 8 * 2 ^ 40)

/-! ### Band slots -/

/-- The band of a form's BSLOT (07 R186). -/
def slotBand (w : Wick) (o : OpX) : Option BandRef := w.info.bands[fld o.flags.toNat 2 2]?

/-- The wick is the producer of one of its bands. -/
def producer (s : State) (w : Wick) : Bool :=
  w.info.bands.any (fun r => match s.findBand r.band with
    | some b => b.prod == r.pos
    | none => false)

/-- Copy rights (01 R34, R36): the producer of no band, 0x15; no band in the slot, 0x14; not its producer, 0x15. -/
def copyRights (s : State) (w : Wick) (o : OpX) : Nat ⊕ Band :=
  if !producer s w then .inl 0x15
  else
    match slotBand w o with
    | none => .inl 0x14
    | some r =>
      match s.findBand r.band with
      | none => .inl 0x14
      | some b => if b.prod = r.pos then .inr b else .inl 0x15

/-! ### Issue of a copy (07 R187) -/

/-- The window check of every byte a side touches at these offsets (07 R187, step 5): 0x10 or 0x11. -/
def sideCheck (b : Band) (x : Shape) (cores : List Nat) (a n : Nat) : Option Nat :=
  match x.space with
  | 0 => if a + n > 2 ^ 57 then some 0x10 else none
  | 6 => if a + n > 2 ^ 23 then some 0x10 else none
  | _ =>
    if a + n > 2 ^ 20 then some 0x10
    else if cores.all (fun c => b.win > 0 && b.cores.contains c && decide (b.off ≤ a) && decide (a + n ≤ b.off + 4096 * b.win)) then none
    else some 0x11

/-- The cores a side's AB bytes lie on. -/
def sideCores (c : Copy) (x : Shape) (isDst : Bool) : List Nat :=
  if x.space = 3 then [x.core]
  else match c.targets with
    | some l => if isDst then l else [c.core]
    | none => [c.core]

/-- The row of element n is written: its destination row is in range (07 R190). -/
def Copy.rowIn (c : Copy) (n : Nat) : Bool :=
  match c.rows with
  | some rs => decide (((rs[n / c.rowLen]?).getD (0, 0)).2 < c.dst.ext[c.dst.ndim - 1]?.getD 0)
  | none => true

/-- 07 R187, step 5, over all elements: the first cause in the order range, window, with its address. Of a row that is dropped the source
counts. -/
def rangeCheck (b : Band) (c : Copy) : Option (Nat × Nat) :=
  let fails := (List.range c.total).flatMap (fun n =>
    let (src, dst) := c.elem n
    let one (x : Shape) (isDst : Bool) (a : Nat) : List (Nat × Nat) := ((sideCheck b x (sideCores c x isDst) a c.dst.esz).map (fun cs => (cs, a))).toList
    (src.map (one c.src false)).getD [] ++ (if c.rowIn n then one c.dst true dst else []))
  match fails.find? (fun (cs, _) => cs == 0x10) with
  | some x => some x
  | none => fails.head?

/-- The selected rows of CPYG (07 R189): their sources with the destination rows they take, and how many were selected. -/
def gatherRows (src dst : Shape) (mask : Nat) : List (Nat × Nat) × Nat :=
  let sel := (List.range (src.ext[src.ndim - 1]?.getD 0)).filter (fun j => mask.testBit j)
  ((sel.zipIdx).take (dst.ext[dst.ndim - 1]?.getD 0), sel.length)

/-- Every source row of CPYS with the destination row its index names (07 R190). -/
def listRows (src : Shape) (list : Nat) : List (Nat × Nat) :=
  (List.range (src.ext[src.ndim - 1]?.getD 0)).map (fun j => (j, fld list (32 * j) 32))

/-- The rows of CPYS that are written: those whose destination is in range. -/
def scatterRows (src dst : Shape) (list : Nat) : List (Nat × Nat) :=
  (listRows src list).filter (fun (_, r) => decide (r < dst.ext[dst.ndim - 1]?.getD 0))

/-- The forms of a copy. -/
inductive CopyForm where
  | plain | gather | scatter | multicast
  deriving DecidableEq, Repr

/-- ARRIVE's barrier, when the form has it. -/
def arriveOf (o : OpX) : Option Nat := if o.flags.getLsbD 4 then some (fld o.flags.toNat 5 4) else none

/-- The handle of CALLBACK (07 R186). -/
def callbackOf (w : Wick) (o : OpX) : Option (Word × BitVec 32) :=
  if o.flags.getLsbD 10 then some (w.rdK (fld o.flags.toNat 11 4), o.imm) else none

/-- The copy the checked records make. -/
def mkCopy (s : State) (w : Wick) (o : OpX) (form : CopyForm) (b : Band) (src dst : Shape) (aux : Nat) : Copy :=
  let chan := chanOf w o
  let base : Copy :=
    { chan := chan, seq := (s.chan chan).seq + 1, uid := w.info.uid, pkt := w.info.pkt, rank := w.info.rank, ctx := w.info.ctx,
      cluster := w.info.cluster, core := w.info.core, band := b.uid, batch := w.books.batch.toNat, src := src, dst := dst,
      flags := o.flags.toNat, arrive := arriveOf o, detach := o.flags.getLsbD 9, callback := callbackOf w o }
  match form with
  | .plain => base
  | .gather =>
    let (rows, n) := gatherRows src dst aux
    { base with rows := some rows, gather := true, count := rows.length, overflow := decide (n > rows.length) }
  | .scatter =>
    let rows := scatterRows src dst aux
    let n := src.ext[src.ndim - 1]?.getD 0
    { base with rows := some rows, count := n - rows.length, dropBit := decide (rows.length < n) }
  | .multicast =>
    let named := (List.range 64).filter (fun c => aux.testBit c)
    let held := named.filter (fun c => b.win > 0 && b.cores.contains c)
    let lost := named.filter (fun c => !(b.win > 0 && b.cores.contains c))
    { base with targets := some held, ats := held.map (fun _ => 0), dropped := lost.foldl (fun m c => m + 2 ^ c) 0, dropBit := !lost.isEmpty }

/-- The bytes of the bitmask or index list a form reads (07 R189, R190). -/
def auxLen (form : CopyForm) (src : Shape) : Nat :=
  let rows := src.ext[src.ndim - 1]?.getD 0
  match form with
  | .gather => (rows + 7) / 8
  | .scatter => 4 * rows
  | _ => 0

/-! ### Phases (07 R196) -/

/-- The companion word of a phase. -/
def Barrier.comp (b : Barrier) (phase : BitVec 32) : BitVec 32 := if phase.getLsbD 0 then b.comp1 else b.comp0

def Barrier.setComp (b : Barrier) (phase x : BitVec 32) : Barrier := if phase.getLsbD 0 then { b with comp1 := x } else { b with comp0 := x }

/-- The open phase completes when its arrivals are in (07 R196). -/
def Barrier.tryPhase (b : Barrier) : Barrier :=
  if b.arrw = b.expw ∧ b.arrt = b.expt then
    { b with phase := b.phase + 1, arrw := 0, arrt := 0, isst := 0 }.setComp (b.phase + 1) 0
  else b

def Band.barrier (b : Band) (n : Nat) : Barrier := b.barriers[n]?.getD {}

def Band.setBarrier (b : Band) (n : Nat) (x : Barrier) : Band := { b with barriers := b.barriers.setIfInBounds n x }

/-! ### The completion of a copy (07 R188, R198) -/

/-- The arrival of a copy: CPYG's count is added first (07 R189, R198). -/
def Barrier.arriveCopy (b : Barrier) (c : Copy) : Barrier :=
  let b1 := if c.gather then b.setComp b.phase (b.comp b.phase + BitVec.ofNat 32 c.count) else b
  { b1 with arrt := b1.arrt + 1 }.tryPhase

/-- A copy completes and arrives. -/
def completeCopy (s : State) (c : Copy) : State :=
  let s1 := s.putCopy { c with done := true, shadow := [] }
  let s2 := match c.arrive with
    | some n => s1.modBand c.band (fun b => b.setBarrier n ((b.barrier n).arriveCopy c))
    | none => s1
  let s3 := if c.chan ≥ 2048 then s2.modPacket c.pkt (fun p => { p with ended := true }) else s2
  updateBands s3 c.pkt

/-! ### Acceptance -/

/-- A barrier's arrival rule for a copy (07 R198). -/
def Barrier.roomForCopy (b : Barrier) : Bool := decide (b.isst < b.expt)

/-- A copy with a zero mask delivers nothing and completes at once, whatever its channel holds (07 R191). -/
def Copy.atOnce (c : Copy) : Bool := c.targets == some [] && c.dropped == 0

/-- The copy joins its batch and channel, and its references are taken (07 R187). -/
def acceptCopy (s : State) (w : Wick) (cx : Cx) (o : OpX) (c : Copy) : Eff :=
  let s1 := s.putChan { s.chan c.chan with seq := c.seq }
  let s2 := { s1 with copies := s1.copies ++ [c] }
  let s3 := match c.arrive with
    | some n => s2.modBand c.band (fun b => { b with barriers := b.barriers.setIfInBounds n (let x := b.barriers[n]?.getD {}; { x with isst := x.isst + 1 }) })
    | none => s2
  let s4 := match c.callback with
    | some (h, _) => s3.addRef c.ctx h 1
    | none => s3
  let s5 := s4.putWick (w.wrS cx.f o.d.toNat (copyToken w (o.flags.toNat % 4) c.seq))
  .next (if c.atOnce then completeCopy s5 c else s5)

/-- Steps 4 to 6 of 07 R187, and the callback's checks (07 R192, 13 R265). -/
def checkCopy (s : State) (w : Wick) (cx : Cx) (o : OpX) (form : CopyForm) (b : Band) (src dst : Shape) (aux : Nat) : Eff :=
  if form = .multicast ∧ (aux &&& (s.retired[w.info.cluster]?.getD 0).toNat) ≠ 0 then .trap { cause := 0x16, val := BitVec.ofNat 64 aux }
  else
    let c := { mkCopy s w o form b src dst aux with list := (w.rdS cx.f o.c.toNat).toNat }
    match rangeCheck b (if form = .scatter then { c with rows := some (listRows src aux) } else c) with
    | some (cause, a) => .trap { cause := cause, val := BitVec.ofNat 64 a }
    | none =>
      match c.arrive with
      | some n =>
        if !(b.barriers[n]?.getD {}).roomForCopy then .trap { cause := 0x18, val := BitVec.ofNat 64 n } else callbackCheck s w cx o c
      | none => callbackCheck s w cx o c
where
  callbackCheck (s : State) (w : Wick) (cx : Cx) (o : OpX) (c : Copy) : Eff :=
    match c.callback with
    | none => acceptCopy s w cx o c
    | some (h, _) =>
      if !s.handleValid c.ctx h then .trap { cause := 0x1C, val := h }
      else if !s.refRoom c.ctx h 1 then .trap { cause := 0x1E, val := h }
      else acceptCopy s w cx o c

/-- CPY, CPYG, CPYS and CPYM at issue (07 R187). Of a source record that is itself malformed no bitmask or list can be sized, and none is
read. -/
def copyBody (s : State) (w : Wick) (cx : Cx) (o : OpX) (form : CopyForm) : Eff :=
  if cx.act = 0 then .next s
  else
    match copyRights s w o with
    | .inl c => .trap { cause := c }
    | .inr b =>
      if (s.openCopies (chanOf w o)).length ≥ 64 then .wait 5
      else
        let a := (w.rdS cx.f o.a.toNat).toNat
        let d := (w.rdS cx.f o.b.toNat).toNat
        let x := (w.rdS cx.f o.c.toNat).toNat
        withRecord s w cx a 64 (fun s1 r1 =>
          withRecord s1 w cx d 64 (fun s2 r2 =>
            let src := parseShape r1
            let dst := parseShape r2
            let bad : Option (Nat × Nat) :=
              if !shapeOk r1 then some (0x13, a) else if !shapeOk r2 then some (0x13, d)
              else if src.esz != dst.esz || txInvalid w dst || decide (shapeBytes dst > 2 ^ 36) || (form == .multicast && dst.space != 2) then some (0x13, d)
              else if a % 8 != 0 then some (0x12, a) else if d % 8 != 0 then some (0x12, d) else none
            let checked (s3 : State) (aux : Nat) : Eff :=
              match bad with
              | some (c, v) => .trap { cause := c, val := BitVec.ofNat 64 v }
              | none => checkCopy s3 w cx o form b src dst aux
            if (form = .gather ∨ form = .scatter) ∧ shapeOk r1 then withRecord s2 w cx x (auxLen form src) checked [(a, 64), (d, 64)]
            else checked s2 x)
            ((a, 64) :: (if (form = .gather ∨ form = .scatter) ∧ shapeOk r1 then [(x, auxLen form (parseShape r1))] else [])))
          [(d, 64)]

def execCpy (h : Hdr) (o : OpX) (s : State) : Host.Outcome State Fault Refusal := wickStep (.cpy h o) s (fun s w cx => copyBody s w cx o .plain)
def execCpyg (h : Hdr) (o : OpX) (s : State) : Host.Outcome State Fault Refusal := wickStep (.cpyg h o) s (fun s w cx => copyBody s w cx o .gather)
def execCpys (h : Hdr) (o : OpX) (s : State) : Host.Outcome State Fault Refusal := wickStep (.cpys h o) s (fun s w cx => copyBody s w cx o .scatter)
def execCpym (h : Hdr) (o : OpX) (s : State) : Host.Outcome State Fault Refusal := wickStep (.cpym h o) s (fun s w cx => copyBody s w cx o .multicast)

/-! ### CPYST (07 R193) -/

/-- What CPYST answers of a token. -/
def cpystVal (s : State) (w : Wick) (sub : Nat) (tok : Word) : Nat :=
  let t := tok.toNat
  let seq := fld t 0 32
  let chan := w.info.coreId * 4 + fld t 32 2
  let newest := (s.chan chan).seq
  if fld t 34 6 != w.info.core || fld t 40 3 != w.info.cluster || fld t 43 21 != 0 || seq = 0 || seq > newest then 0
  else if newest - seq > 64 then (if sub = 0 then 1 else 0)
  else
    match s.copies.find? (fun c => c.chan == chan && c.seq == seq) with
    | none => if sub = 0 then 1 else 0
    | some c =>
      match sub with
      | 0 => (if c.done then 1 else 0) + (if c.stopped then 2 else 0) + (if c.dropBit then 4 else 0) + (if c.overflow then 8 else 0)
      | 1 => if c.targets.isSome then c.dropped else 0
      | _ => if c.rows.isSome then c.count else 0

def execCpyst (h : Hdr) (o : OpX) (s : State) : Host.Outcome State Fault Refusal :=
  wickStep (.cpyst h o) s (fun s w cx =>
    once cx s (.next (s.putWick (w.wrS cx.f o.d.toNat (BitVec.ofNat 64 (cpystVal s w h.sub.toNat (w.rdS cx.f o.a.toNat)))))))

/-! ### Batches and write pointers (07 R194, R195, R200) -/

/-- Copies of a wick's batches up to n are all complete. -/
def batchesDone (s : State) (uid n : Nat) : Bool := (s.copies.filter (fun c => c.uid == uid && decide (c.batch ≤ n))).all (fun c => c.done)

/-- Sealed batches of the wick with a copy still open. -/
def openBatches (s : State) (w : Wick) : Nat :=
  (((s.copies.filter (fun c => c.uid == w.info.uid && !c.done && decide (c.batch ≤ w.books.lastSeal.toNat))).map Copy.batch).eraseDups).length

def sealBody (s : State) (w : Wick) (cx : Cx) (o : OpX) : Eff :=
  if cx.act = 0 then .next s
  else if openBatches s w ≥ 16 then .wait 5
  else
    let n := w.books.batch
    let w' := w.wrS cx.f o.d.toNat (n.setWidth 64)
    .next (s.putWick { w' with books := { w'.books with batch := n + 1, lastSeal := n } })

def execSeal (h : Hdr) (o : OpX) (s : State) : Host.Outcome State Fault Refusal := wickStep (.seal h o) s (fun s w cx => sealBody s w cx o)

def waitbBody (s : State) (w : Wick) (cx : Cx) (h : Hdr) (o : OpX) : Eff :=
  let n := if h.sub = 0 then (w.rdS cx.f o.a.toNat).toNat else o.imm.toNat
  if cx.act = 0 ∨ batchesDone s w.info.uid (min n w.books.lastSeal.toNat) then .next s else .wait 5

def execWaitb (h : Hdr) (o : OpX) (s : State) : Host.Outcome State Fault Refusal := wickStep (.waitb h o) s (fun s w cx => waitbBody s w cx h o)

def waitwpBody (s : State) (w : Wick) (cx : Cx) (h : Hdr) (o : OpX) : Eff :=
  let n := if h.sub = 0 then (w.rdS cx.f o.a.toNat).toNat else o.imm.toNat
  if cx.act = 0 ∨ (s.chan (chanOf w o)).wp ≥ n then .next s else .wait 6

def execWaitwp (h : Hdr) (o : OpX) (s : State) : Host.Outcome State Fault Refusal := wickStep (.waitwp h o) s (fun s w cx => waitwpBody s w cx h o)

def chrstBody (s : State) (w : Wick) (cx : Cx) (o : OpX) : Eff :=
  if cx.act = 0 then .next s
  else
    match copyRights s w o with
    | .inl c => .trap { cause := c }
    | .inr _ =>
      let id := chanOf w o
      if (s.openCopies id).isEmpty then .next (s.putChan { s.chan id with wp := 0 }) else .wait 5

def execChrst (h : Hdr) (o : OpX) (s : State) : Host.Outcome State Fault Refusal := wickStep (.chrst h o) s (fun s w cx => chrstBody s w cx o)

/-! ### The channel's steps (04 R116, R117, 07 R188, 17 R360) -/

/-- The copy a channel works on: the oldest that is not complete. -/
def State.headCopy (s : State) (chan : Nat) : Option Copy := (s.openCopies chan).head?

/-- A channel from which nothing will come now: its oldest copy has stopped, or it has none. -/
def State.channelStopped (s : State) (chan : Nat) : Bool :=
  match s.headCopy chan with
  | some c => c.stopped && !c.due
  | none => true

/-- One element delivered; the write pointer advances by ESZ for each that is delivered everywhere (04 R116, 07 R191). A channel whose copy stops or is done does nothing. -/
def deliverStep (s : State) (chan : Nat) : State :=
  match s.headCopy chan with
  | none => s
  | some c =>
    if c.stopped || c.pos ≥ c.total || (2048 ≤ chan && ((s.findPacket c.pkt).map (fun p => s.partStopped p.part)).getD false) then s
    else
      match deliver s c with
      | .error _ => s
      | .ok (s', c') =>
        let k := s'.chan chan
        (s'.putCopy c').putChan { k with wp := k.wp + (c'.pos - c.pos) * c.dst.esz }

def execEvCopyElementDelivery (chan : Nat) (s : State) : Host.Outcome State Fault Refusal := .next (deliverStep s chan)

/-- The token of a copy as its fault record names it. -/
def Copy.token (c : Copy) : Nat := c.seq % 2 ^ 32 + c.chan % 4 * 2 ^ 32 + c.core % 64 * 2 ^ 34 + c.cluster % 8 * 2 ^ 40


/-- A copy whose next element faults stops there and a record is written (04 R117). -/
def copyStop (s : State) (chan : Nat) : State :=
  match s.headCopy chan with
  | none => s
  | some c =>
    if c.stopped || c.pos ≥ c.total then s
    else
      match deliver s c with
      | .ok _ => s
      | .error (va, p) =>
        let k := s.chan chan
        let s' := (s.putCopy { c with stopped := true, stopVa := va }).putChan { k with faults := k.faults + 1 }
        let isDst := (match c.elem c.pos with
          | (some a, _) => !(decide (a ≤ va) && decide (va < a + c.dst.esz) && c.src.space == 0)
          | (none, _) => true)
        postFaults s' c.ctx [engineRec s' 3 c.ctx (if isDst then 1 else 0) va c.token chan (k.faults + 1) p]

def execEvCopyFaultStop (chan : Nat) (s : State) : Host.Outcome State Fault Refusal := .next (copyStop s chan)

end Sys2Proof.Machine
end

