-- ==== Sys2Proof/Machine/Barrier.lean ====
section
/-! DEFINITION. The barrier forms, and the completion of copies (spec/07_memory_copy_and_barriers.md R188, R192, R196 to R199;
spec/13_closures_interrupts_services.md R269; spec/17_translation_and_faults.md R360). -/

namespace Sys2Proof.Machine

/-! ### Barriers of a form (07 R186, R196) -/

/-- BAR of the FLAGS layout (07 R186). -/
def barOf (o : OpX) : Nat := fld o.flags.toNat 5 4

/-- The place of a barrier in LASTARR (16 R329). -/
def lastIdx (o : OpX) : Nat := 16 * fld o.flags.toNat 2 2 + barOf o

/-- LASTARR: none, or the phase of the latest BARV (07 R196). -/
def Wick.lastArr (w : Wick) (i : Nat) : Option (BitVec 32) :=
  let x := w.books.lastArr[i]?.getD 0
  if x = 0xFFFFFFFFFFFFFFFF then none else some (x.setWidth 32)

/-- The band of the slot, or the band-rights trap (01 R34). -/
def withBand (s : State) (w : Wick) (o : OpX) (go : Band → Eff) : Eff :=
  match slotBand w o with
  | none => .trap { cause := 0x14 }
  | some r =>
    match s.findBand r.band with
    | none => .trap { cause := 0x14 }
    | some b => go b

/-! ### The forms (07 R197 to R199) -/

/-- BINIT (07 R197). -/
def binitBody (s : State) (w : Wick) (cx : Cx) (o : OpX) : Eff :=
  if !wickWide w cx then .trap { cause := 0x0A }
  else
    withBand s w o (fun b =>
      let a := (w.rdS cx.f o.a.toNat).toNat
      let x := b.barrier (barOf o)
      let expw := fld a 0 9
      let expt := fld a 16 9
      if fld a 9 7 ≠ 0 ∨ fld a 25 39 ≠ 0 ∨ x.arrw ≠ 0 ∨ x.arrt ≠ 0 ∨ x.isst ≠ 0 ∨ expw = 0 ∨ expw > 256 ∨ expt > 256 then
        .trap { cause := 0x17, val := BitVec.ofNat 64 (barOf o) }
      else .next (s.modBand b.uid (fun b => b.setBarrier (barOf o) { x with expw := expw, expt := expt, comp0 := 0, comp1 := 0 })))

def execBinit (h : Hdr) (o : OpX) (s : State) : Host.Outcome State Fault Refusal := wickStep (.binit h o) s (fun s w cx => binitBody s w cx o)

/-- BARV (07 R198). -/
def barvBody (s : State) (w : Wick) (cx : Cx) (o : OpX) : Eff :=
  if !wickWide w cx then .trap { cause := 0x0A }
  else
    withBand s w o (fun b =>
      let x := b.barrier (barOf o)
      if w.lastArr (lastIdx o) = some x.phase ∨ x.arrw = x.expw then .trap { cause := 0x18, val := BitVec.ofNat 64 (barOf o) }
      else
        let s1 := s.modBand b.uid (fun b => b.setBarrier (barOf o) { x with arrw := x.arrw + 1 }.tryPhase)
        .next (s1.putWick { w with books := { w.books with lastArr := w.books.lastArr.setIfInBounds (lastIdx o) (x.phase.setWidth 64) } }))

def execBarv (h : Hdr) (o : OpX) (s : State) : Host.Outcome State Fault Refusal := wickStep (.barv h o) s (fun s w cx => barvBody s w cx o)

/-- The phase a BWAIT waits to see completed: that of the wick's arrival, or that open at the issue (07 R199). -/
def waitedPhase (w : Wick) (f i : Nat) (x : Barrier) : BitVec 32 :=
  match w.lastArr i with
  | some p => p
  | none =>
    match (w.frag f).wait.bwait with
    | some (j, p) => if j = i then p else x.phase
    | none => x.phase

/-- BWAIT (07 R199). -/
def bwaitBody (s : State) (w : Wick) (cx : Cx) (o : OpX) : Eff :=
  if !wickWide w cx then .trap { cause := 0x0A }
  else
    withBand s w o (fun b =>
      let x := b.barrier (barOf o)
      let p := waitedPhase w cx.f (lastIdx o) x
      let waits (v : Option (Nat × BitVec 32)) : Wick := w.modWait cx.f (fun x => { x with bwait := v })
      if x.phase ≠ p then .next (s.putWick (waits none)) else .stay (s.putWick ((waits (some (lastIdx o, p))).stalled 4)))

def execBwait (h : Hdr) (o : OpX) (s : State) : Host.Outcome State Fault Refusal := wickStep (.bwait h o) s (fun s w cx => bwaitBody s w cx o)

/-- BTEST (07 R199): SUB 0 the condition, 1 the companion word, 2 the phase. -/
def btestBody (s : State) (w : Wick) (cx : Cx) (h : Hdr) (o : OpX) : Eff :=
  if cx.act = 0 then .next s
  else
    withBand s w o (fun b =>
      let x := b.barrier (barOf o)
      let last := w.lastArr (lastIdx o)
      let w' := match h.sub.toNat with
        | 0 => w.wrQ cx.f o.d.toNat (match last with
          | some p => x.phase != p
          | none => false)
        | 1 => w.wrS cx.f o.d.toNat ((x.comp (last.getD x.phase)).setWidth 64)
        | _ => w.wrS cx.f o.d.toNat (x.phase.setWidth 64)
      .next (s.putWick w'))

def execBtest (h : Hdr) (o : OpX) (s : State) : Host.Outcome State Fault Refusal := wickStep (.btest h o) s (fun s w cx => btestBody s w cx h o)

/-! ### Callbacks (07 R188, R192) -/

/-- The callback wick of a completed copy (13 R269): nothing while there is no room for it. -/
def startCallback (s : State) (c : Copy) : State :=
  match c.callback, s.findRun c.pkt with
  | some (h, imm), some p =>
    match p.launch with
    | none => s
    | some l =>
      if p.cancelled then (s.release c.ctx h).putCopy { c with callback := none }
      else if s.heldBack p then s
      else
        let st := { plainStart p l c.rank .callback (s.handleEntry c.ctx h).pc with
          k15 := h, sregs := [(0, imm.setWidth 64), (1, BitVec.ofNat 64 c.token)] }
        match startAlone s st (s.openCores c.ctx st.ng) with
        | some s' => s'.putCopy { c with callback := none }
        | none => s
  | _, _ => s

/-- A channel's oldest copy completes when every element is delivered; a callback that is due starts. -/
def copyCompletion (s : State) (chan : Nat) : State :=
  let s1 := match s.headCopy chan with
    | some c => if !c.stopped && !c.rest && c.pos ≥ c.total then completeCopy s c else s
    | none => s
  match s1.copies.find? (fun c => c.chan == chan && c.done && c.callback.isSome) with
  | some c => startCallback s1 c
  | none => s1

def execEvCopyCompletion (chan : Nat) (s : State) : Host.Outcome State Fault Refusal := .next (copyCompletion s chan)

end Sys2Proof.Machine
end

