-- ==== Sys2Proof/Machine/Quant.lean ====
section
/-! DEFINITION. Quantisation commands and their engine (spec/07_memory_copy_and_barriers.md R202 to R205). -/

namespace Sys2Proof.Machine

/-! ### The command record (07 R203) -/

def qRows (r : Nat) : Nat := fld r 192 32
def qCols (r : Nat) : Nat := fld r 224 32
def qSrcKind (r : Nat) : Nat := fld r 320 2
def qFmt (r : Nat) : Nat := fld r 323 2
/-- AXIS: blocks run down a column. -/
def qDown (r : Nat) : Bool := r.testBit 337

/-- 07 R203: the fields, their ranges and the three conditions. -/
def quantOk (r : Nat) : Bool :=
  let rows := qRows r
  let cols := qCols r
  fld r 338 174 == 0 && qSrcKind r != 3 && qFmt r != 3 && decide (1 ≤ rows) && decide (rows ≤ 65536) && decide (1 ≤ cols) && decide (cols ≤ 65536)
    && (if qDown r then rows % 32 == 0 else cols % 32 == 0)
    && (qSrcKind r != 0 || (decide (rows ≤ 128) && decide (cols ≤ 128) && fld r 256 32 == 0 && fld r 2 62 == 0))

/-- The blocks of a command (07 R204). -/
def qBlocks (r : Nat) : Nat := qRows r * qCols r / 32

/-- Row and column of element j of block b, blocks in ascending row and column (07 R204). -/
def qElem (r b j : Nat) : Nat × Nat :=
  if qDown r then (32 * (b / qCols r) + j, b % qCols r) else (b / (qCols r / 32), 32 * (b % (qCols r / 32)) + j)

/-- The address of a block's scale byte (07 R204). -/
def qScaleAddr (r b : Nat) : Nat :=
  let base := fld r 128 64
  if qDown r then base + b / qCols r * qCols r + b % qCols r else base + b / (qCols r / 32) * (qCols r / 32) + b % (qCols r / 32)

/-! ### The computation (07 R204) -/

/-- ceil(log2 (n / d)) of a positive rational. -/
def ceilLog2 (n d : Nat) : Int :=
  let e := log2Rat n d
  let exact : Bool := match e with
    | .ofNat j => d * 2 ^ j == n
    | .negSucc j => d == n * 2 ^ (j + 1)
  if exact then e else e + 1

/-- FMAX of a format. -/
def qFmax (fmt : Nat) : Nat :=
  match fmt with
  | 0 => 448 | 1 => 57344 | _ => 2

/-- The larger of two magnitudes. -/
def ratMax (a b : Nat × Nat) : Nat × Nat := if a.1 * b.2 < b.1 * a.2 then b else a

/-- The exponent e of a block of finite values. -/
def qExp (fmt : Nat) (xs : List Ex) : Int :=
  let amax := xs.foldl (fun m x => match x with
    | .num _ n d => ratMax m (n, d)
    | _ => m) (0, 1)
  if amax.1 = 0 then 0 else max (ceilLog2 amax.1 (amax.2 * qFmax fmt)) (-127)

/-- The code of x / 2^e. -/
def qCode (fmt : Nat) (e : Int) (x : Ex) : Nat :=
  let y := (exMul x (scaleMag false 1 (-e))).1
  match fmt with
  | 0 => (rnd fE4M3 .rne true false 0 y).pat
  | 1 => (rnd fE5M2 .rne true false 0 y).pat
  | _ => encDY8 y.rat.1 y.rat.2

/-- The scale byte, the 32 codes, and whether a NaN or an infinity was seen. -/
def qBlock (fmt : Nat) (xs : List Ex) : Nat × List Nat × Bool :=
  if xs.any (fun x => x.isNan || x.isInf) then
    (0xFF, xs.map (fun _ => match fmt with
      | 0 => 0x7F | 1 => 0x7E | _ => 0x08), true)
  else
    let e := qExp fmt xs
    ((e + 127).toNat, xs.map (qCode fmt e), false)

/-! ### One block of a command -/

/-- The source elements, or the failure met; a render target of the command's own pass gives free values (14 R297). -/
def qSource (s : State) (q : Quant) (b : Nat) : List Nat → Except (Nat × PFault) (List Ex) × State
  | [] => (.ok [], s)
  | j :: js =>
    let r := q.record
    let (row, col) := qElem r b j
    let got : Except (Nat × PFault) Ex × State :=
      if qSrcKind r = 0 then
        (.ok (dec fF32 false (s.mem.read (keyCb (coreKey q.cluster (fld r 325 6)) (fld r 0 2 * 0x10000 + (row * 128 + col) * 4)) 4)), s)
      else
        let n := if qSrcKind r = 1 then 4 else 2
        let va := (fld r 0 64 + row * fld r 256 32 + col * n) % 2 ^ 64
        match xlatePieces s q.ctx false ⟨0, 0, 0⟩ (pages va n) with
        | (.error e, s') => (.error e, s')
        | (.ok ps, s') => (.ok (dec (if n = 4 then fF32 else fBF16) false (s'.wildVal q.pkt va n (leVal (readPieces s'.mem ps)))), s')
    match got with
    | (.error e, s') => (.error e, s')
    | (.ok x, s1) =>
      match qSource s1 q b js with
      | (.error e, s') => (.error e, s')
      | (.ok xs, s') => (.ok (x :: xs), s')

/-- The places of a block's 32 output bytes and its scale byte; a WB byte past the buffer has none (log 118). -/
def qPlaces (s : State) (q : Quant) (b : Nat) : List Nat → List (Nat × Nat) → Except (Nat × PFault) (List (Nat × Nat)) × State
  | [], acc =>
    match xlatePieces s q.ctx false ⟨1, 0, 0⟩ [(qScaleAddr q.record b % 2 ^ 64, 1)] with
    | (.error e, s') => (.error e, s')
    | (.ok ps, s') => (.ok (acc ++ ps), s')
  | j :: js, acc =>
    let r := q.record
    let (row, col) := qElem r b j
    let a := fld r 64 64 + row * fld r 288 32 + col
    if r.testBit 322 then qPlaces s q b js (acc ++ [(keyWb (coreKey q.cluster (fld r 331 6)) a, if a < 2 ^ 23 then 1 else 0)])
    else
      match xlatePieces s q.ctx false ⟨1, 0, 0⟩ [(a % 2 ^ 64, 1)] with
      | (.error e, s') => (.error e, s')
      | (.ok ps, s') => qPlaces s' q b js (acc ++ ps)

/-- A block performed whole, or the failure it meets, a read (0) or a write (1). -/
def qStep (s : State) (q : Quant) : Except (Nat × Nat × PFault) (State × Quant) :=
  match qSource s q q.block (List.range 32) with
  | (.error (va, p), _) => .error (0, va, p)
  | (.ok xs, s1) =>
    match qPlaces s1 q q.block (List.range 32) [] with
    | (.error (va, p), _) => .error (1, va, p)
    | (.ok ps, s2) =>
      let (scale, codes, special) := qBlock (qFmt q.record) xs
      let cells := ((ps.zip (codes ++ [scale])).filter (fun ((_, n), _) => n != 0)).map (fun ((k, _), x) => (k, BitVec.ofNat 8 x))
      .ok (s2.storeCells cells,
           { q with block := q.block + 1, special := q.special || special })

/-- The blocks of a command up to the first that fails. -/
def qRun (s : State) (q : Quant) : Nat → State × Quant × Option (Nat × Nat × PFault)
  | 0 => (s, q, none)
  | n + 1 =>
    if q.block ≥ qBlocks q.record then (s, q, none)
    else
      match qStep s q with
      | .error e => (s, q, some e)
      | .ok (s', q') => qRun s' q' n

/-! ### The engine -/

def State.putQuant (s : State) (q : Quant) : State :=
  { s with quants := modFirst (fun (x : Quant) => x.cluster == q.cluster && x.seq == q.seq) (fun _ => q) s.quants }

/-- The command a cluster's engine works on: its oldest that is not at rest (16 R337). -/
def State.headQuant (s : State) (cluster : Nat) : Option Quant := s.quants.find? (fun q => q.cluster == cluster && !q.done && !q.rest)

/-- The token of a command (07 R202). -/
def quantToken (cluster seq : Nat) : Nat := seq % 2 ^ 48 + at_ (cluster % 8) 48

/-- The engine finishes a command's blocks. -/
def quantComplete (s : State) (cluster : Nat) : State :=
  match s.headQuant cluster with
  | none => s
  | some q =>
    if q.stopped || q.rest then s
    else
      match qRun s q (qBlocks q.record + 1) with
      | (s', q', none) => updateBands (s'.putQuant { q' with done := true }) q.pkt
      | (_, _, some _) => s

def execEvQuantCommandComplete (cluster : Nat) (s : State) : Host.Outcome State Fault Refusal := .next (quantComplete s cluster)

/-- The engine stops at a page that fails and a record is written (07 R205). -/
def quantStop (s : State) (cluster : Nat) : State :=
  match s.headQuant cluster with
  | none => s
  | some q =>
    if q.stopped || q.rest then s
    else
      match qRun s q (qBlocks q.record + 1) with
      | (_, _, none) => s
      | (s', q', some (acc, va, p)) =>
        let n := s'.quantFaults[cluster]?.getD 0 + 1
        let s2 := { s'.putQuant { q' with stopped := true, stopVa := va } with quantFaults := s'.quantFaults.setIfInBounds cluster n }
        postFaults s2 q.ctx [engineRec s2 4 q.ctx acc va q.token cluster n p]

def execEvQuantFaultStop (cluster : Nat) (s : State) : Host.Outcome State Fault Refusal := .next (quantStop s cluster)

/-! ### QSUB and QWAIT (07 R202) -/

/-- The matrix instructions a core has accepted (09 R214). -/
def State.matrixSeq (s : State) (core : Nat) : Nat := ((s.matrices.find? (fun m => m.core == core)).map Matrix.seq).getD 0

def qsubBody (s : State) (w : Wick) (cx : Cx) (o : OpX) : Eff :=
  let cl := w.info.cluster
  let va := (w.rdS cx.f o.a.toNat).toNat
  if cx.act = 0 then .next s
  else if (s.quants.filter (fun (q : Quant) => q.cluster == cl && !q.done && !q.rest)).length ≥ 64 then .wait 5
  else if va % 8 ≠ 0 then .trap { cause := 0x12, val := BitVec.ofNat 64 va }
  else
    withRecord s w cx va 64 (fun s' r =>
      if !quantOk r then .trap { cause := 0x13, val := BitVec.ofNat 64 va }
      else
        let seq := s'.quantSeq[cl]?.getD 0 + 1
        let q : Quant := { cluster := cl, seq := seq, pkt := w.info.pkt, rank := w.info.rank, uid := w.info.uid, ctx := w.info.ctx, record := r,
                           token := quantToken cl seq, core := w.info.coreId, after := s'.matrixSeq (coreKey cl (fld r 325 6)) }
        let s2 := { s' with quantSeq := s'.quantSeq.setIfInBounds cl seq, quants := s'.quants ++ [q] }
        .next (s2.putWick (w.wrS cx.f o.d.toNat (BitVec.ofNat 64 (quantToken cl seq)))))

def execQsub (h : Hdr) (o : OpX) (s : State) : Host.Outcome State Fault Refusal := wickStep (.qsub h o) s (fun s w cx => qsubBody s w cx o)

def qwaitBody (s : State) (w : Wick) (cx : Cx) (o : OpX) : Eff :=
  let t := (w.rdS cx.f o.a.toNat).toNat
  let cl := w.info.cluster
  let seq := fld t 0 48
  let ans (n : Nat) : Eff := .next (s.putWick (w.wrS cx.f o.d.toNat (BitVec.ofNat 64 n)))
  if cx.act = 0 then .next s
  else if fld t 48 3 ≠ cl ∨ fld t 51 13 ≠ 0 ∨ seq = 0 ∨ seq > s.quantSeq[cl]?.getD 0 then ans 2
  else
    match s.quants.find? (fun q => q.cluster == cl && q.seq == seq) with
    | none => ans 0
    | some q => if q.done then ans (if q.special then 1 else 0) else .wait 5

def execQwait (h : Hdr) (o : OpX) (s : State) : Host.Outcome State Fault Refusal := wickStep (.qwait h o) s (fun s w cx => qwaitBody s w cx o)

/-- A CB tile that a command holds until its source is read (07 R205). -/
def quantHolds (s : State) (cluster core tile : Nat) : Bool :=
  s.quants.any (fun q => q.cluster == cluster && !q.done && qSrcKind q.record == 0 && fld q.record 325 6 == core && fld q.record 0 2 == tile)

/-- A matrix instruction accepted after the command, which waits on the tile it names (07 R205). -/
def quantBars (s : State) (core tile seq : Nat) : Bool :=
  s.quants.any (fun q => !q.done && qSrcKind q.record == 0 && coreKey q.cluster (fld q.record 325 6) == core && fld q.record 0 2 == tile
    && decide (q.after < seq))

end Sys2Proof.Machine
end

