-- ==== Sys2Proof/Machine/Matrix.lean ====
section
/-! DEFINITION. The matrix engine (spec/09_matrix_engine.md): the issue of its instructions, their execution in order, streaming,
sparsity and the co-operative multiply; LDC and STC, which wait on held tiles (spec/04_memory_and_ordering.md R93). -/

namespace Sys2Proof.Machine

/-! ### Cores -/

def State.matrix (s : State) (core : Nat) : Matrix := (s.matrices.find? (fun m => m.core == core)).getD { core := core }

def State.putMatrix (s : State) (m : Matrix) : State := { s with matrices := m :: s.matrices.filter (fun x => x.core != m.core) }

/-- An instruction of a core changed. -/
def State.modMInstr (s : State) (core seq : Nat) (f : MInstr → MInstr) : State :=
  let m := s.matrix core
  s.putMatrix { m with queue := modFirst (fun i => i.seq == seq) f m.queue }

/-- The instruction that executes next: the oldest not completed (09 R208). -/
def Matrix.head (m : Matrix) : Option MInstr := m.queue.find? (fun i => !i.done && !i.rest)

/-- Whether an instruction names a tile. -/
def MInstr.namesTile (i : MInstr) : Bool :=
  match i.kind with
  | .mzeroLat | .mldw => false
  | _ => true

/-- A tile held by a matrix instruction (09 R208) or a quantisation command (07 R205). -/
def State.tileHeld (s : State) (cluster core tile : Nat) : Bool :=
  (s.matrix (coreKey cluster core)).queue.any (fun i => !i.done && i.namesTile && i.tile == tile) || quantHolds s cluster core tile

/-! ### LDC and STC (04 R93, 07 R167) -/

/-- An access of some lane wholly inside a held tile. -/
def heldAccess (s : State) (w : Wick) (n : Nat) (ls : List (Nat × Nat)) : Bool :=
  ls.any (fun (_, ea) => ea / 0x10000 == (ea + n - 1) / 0x10000 && s.tileHeld w.info.cluster w.info.core (ea / 0x10000))

/-- A lane that would be held waits before its traps are looked for (DESIGN CHOICE, log 119). -/
def execLdc (h : Hdr) (o : OpM) (s : State) : Host.Outcome State Fault Refusal :=
  wickStep (.ldc h o) s (fun s w cx =>
    if heldAccess s w o.sz.bytes (laneList w cx o (fun _ => 0)) then .wait 1 else loadBody s w cx o (fun _ => 0))

def execStc (h : Hdr) (o : OpM) (s : State) : Host.Outcome State Fault Refusal :=
  wickStep (.stc h o) s (fun s w cx =>
    if heldAccess s w o.sz.bytes (laneList w cx o (fun _ => 0)) then .wait 1
    else storeBody s w cx o (laneList w cx o (fun _ => 0)) (storeData w o) false)

/-! ### Formats (09 R211) -/

/-- Bytes of an A and of a B element. -/
def esA (sub : Nat) : Nat := if sub = 0 ∨ sub = 1 ∨ sub = 4 then 2 else 1
def esB (sub : Nat) : Nat := if sub = 0 ∨ sub = 1 then 2 else 1

/-- κ: the depth of the weight latch (09 R211, R214). -/
def kappa (sub : Nat) : Nat :=
  match sub with
  | 0 | 1 => 64 | 4 => 256 | _ => 128

/-- The element format of A as the A-bypass latch names it: 0 BF16, 1 binary16, 2 E4M3, 3 E5M2, 5 i8. -/
def fmtA (sub : Nat) : Nat := if sub = 4 then 0 else sub

/-- DEC of an A element by its format code. -/
def decElem (fmt x : Nat) : Ex :=
  match fmt with
  | 0 => dec fBF16 false x
  | 1 => dec fF16 false x
  | 2 => dec fE4M3 false x
  | 3 => dec fE5M2 false x
  | 4 => decDY8 x
  | _ => exOfInt (sextN x 8)

/-- The format a drain writes to the latch (09 R222), as fmtA codes it. -/
def drainFmt (sub : Nat) : Nat :=
  match sub with
  | 1 => 0 | 2 => 1 | 3 => 2 | 4 => 3 | _ => 5

/-- Bytes of a drained element (09 R222). -/
def drainEs (sub : Nat) : Nat :=
  match sub with
  | 0 | 5 => 4 | 1 | 2 => 2 | _ => 1

/-! ### The shape word (09 R210) -/

def shM (x : Nat) : Nat := 16 * fld x 0 4
def shN (x : Nat) : Nat := 16 * fld x 4 4
def shKb (x : Nat) : Nat := fld x 8 16
def shSm (x : Nat) : Nat := 4 * 2 ^ fld x 24 3
def shSn (x : Nat) : Nat := fld x 27 6
def shPitch (x : Nat) : Nat := fld x 40 16

def mqOk (x : Nat) : Bool := decide (1 ≤ fld x 0 4) && decide (fld x 0 4 ≤ 8)
def nqOk (x : Nat) : Bool := decide (1 ≤ fld x 4 4) && decide (fld x 4 4 ≤ 8)

/-- The fields above KB that a form leaves unused are zero. -/
def shRest (x : Nat) (sparse pitch : Bool) : Bool :=
  (sparse || fld x 24 9 == 0) && fld x 33 7 == 0 && (pitch || fld x 40 16 == 0) && fld x 56 8 == 0

/-- The shape word of MMA, MMAS and MMAC (09 R210, R214, R218, R221). -/
def mmaShapeOk (kind : MKind) (sub x : Nat) (abyp wlat : Bool) : Bool :=
  let k := 32 * shKb x
  mqOk x && nqOk x && decide (1 ≤ shKb x) && shRest x (kind == .mmas) false
    && (!abyp || decide (k ≤ 128)) && (!wlat || decide (k ≤ kappa sub))
    && (match kind with
        | .mmas =>
          decide (fld x 24 3 < 5) && decide (1 ≤ shSn x) && decide (shSn x ≤ shSm x / 2) && k % shSm x == 0
            && (k / shSm x * shSn x * esB sub) % 4 == 0
        | .mmac => shKb x % 4 == 0
        | _ => true)

/-- The shape word of MDRAIN (09 R222). -/
def drainShapeOk (sub x : Nat) (byp rowm : Bool) : Bool :=
  mqOk x && nqOk x && shKb x == 0 && shRest x false rowm
    && (if rowm then shPitch x % 4 == 0 && decide (shN x * drainEs sub ≤ shPitch x) else shN x % 32 == 0)
    && (!byp || shN x % 32 == 0)

/-- The shape word of MLDW (09 R224). -/
def mldwShapeOk (sub x : Nat) : Bool :=
  fld x 0 4 == 0 && nqOk x && decide (1 ≤ shKb x) && decide (32 * shKb x ≤ kappa sub) && shRest x false false

/-! ### Checks at issue -/

/-- The trap of the scale registers ns (09 R213): one at or beyond v248, else one outside the two ranges. Each register is held against
the ranges by itself, so with NG = 128 a run may go from v127 to v128 (DEDUCED, log entry 134). -/
def scaleFault (ng : Nat) (ns : List Nat) : Option Nat :=
  if ns.any (fun n => decide (248 ≤ n)) then some 0x05
  else if ns.any (fun n => decide (ng ≤ n) && decide (n < 128)) then some 0x06
  else none

/-- The registers from first on, as captured at issue. -/
def captured (w : Wick) (first kb : Nat) : List VReg := (List.range kb).map (fun j => w.rdV (first + j))

/-- The ranges of an operand: its alignment, then the first offset and length of each run of bytes, from its address on. -/
abbrev Operand := Nat × List (Nat × Nat)

/-- Addresses of A in the AB and of B in the WB, each absent where the form takes none: alignment, range, window, in the order of 09
R212. The value is the operand's address. -/
def operandFault (s : State) (w : Wick) (a b : Option Operand) : Option (Nat × Nat) :=
  let addr (rs : List (Nat × Nat)) : Nat := (rs.head?.map Prod.fst).getD 0
  let check (c : Nat) (bad : Operand → Bool) (y : Option Operand) : Option (Nat × Nat) :=
    match y with
    | some o => if bad o then some (c, addr o.2) else none
    | none => none
  let misaligned (o : Operand) : Bool := addr o.2 % o.1 != 0
  let beyond (lim : Nat) (o : Operand) : Bool := o.2.any (fun (x, n) => decide (x + n > lim))
  let outside (o : Operand) : Bool := o.2.any (fun (x, n) => !inWindows (windows s w w.info.core) x n)
  [check 0x12 misaligned a, check 0x12 misaligned b, check 0x10 (beyond (2 ^ 20)) a, check 0x10 (beyond (2 ^ 23)) b, check 0x11 outside a].findSome? id

/-- Bytes from b to the last byte of B (09 R212): rows of 512 bytes, 4 × N used in each. -/
def spanB (rows n : Nat) : Nat := if rows = 0 then 0 else (rows - 1) * 512 + 4 * n

/-- Rows of the WB that compressed B and its metadata take (09 R218). -/
def sparseRows (sub k sm sn : Nat) : Nat :=
  let f := 32 / sm.log2
  k / sm * sn * esB sub / 4 + cdiv (k / sm * sn) f

/-- The 32 instructions a core's engine accepts (09 R208). -/
def engineFull (m : Matrix) : Bool := decide ((m.queue.filter (fun i => !i.done && !i.rest)).length ≥ 32)

/-- The token of an instruction (09 R214). -/
def matrixToken (cluster core seq : Nat) : Nat := seq % 2 ^ 32 + at_ (core % 64) 32 + at_ (cluster % 8) 38

/-- Completed instructions whose state no token within 256 can ask for and which are reported are forgotten (09 R225). -/
def purge (m : Matrix) : List MInstr :=
  m.queue.filter (fun i => !i.done || (i.failed && !i.reported) || decide (m.seq ≤ i.seq + 256))

/-- A checked instruction enters the engine: its token, its place in the order, the descriptors it leaves (09 R208, R216, R224). -/
def enterMatrix (s : State) (w : Wick) (cx : Cx) (o : OpX) (i : MInstr) (desc : Matrix → Matrix) : Eff :=
  let core := w.info.coreId
  let m := s.matrix core
  if engineFull m then .wait 7
  else
    let seq := m.seq + 1
    let token := matrixToken w.info.cluster w.info.core seq
    let i' := { i with seq := seq, token := token, uid := w.info.uid, pkt := w.info.pkt, rank := w.info.rank, ctx := w.info.ctx }
    let m' := desc { m with seq := seq }
    let s1 := s.putMatrix { m' with queue := purge m' ++ [i'] }
    .next (s1.putWick (w.wrS cx.f o.d.toNat (BitVec.ofNat 64 token)))

/-- An instruction's fields from its FLAGS, SUB and shape word. -/
def baseInstr (k : MKind) (h : Hdr) (o : OpX) (x : Nat) : MInstr :=
  let f := o.flags
  { seq := 0, uid := 0, pkt := 0, rank := 0, ctx := 0, kind := k, sub := h.sub.toNat, tile := fld f.toNat 0 2, m := shM x, n := shN x,
    kb := shKb x, abyp := f.getLsbD 2, wlat := f.getLsbD 3, scl := f.getLsbD 4, strm := f.getLsbD 5, ch := fld f.toNat 6 2,
    byp := f.getLsbD 8, rowm := f.getLsbD 9, satd := f.getLsbD 10, bsel := fld o.imm.toNat 0 8, sm := shSm x, sn := shSn x, pitch := shPitch x }

/-- The trap of the scale registers of a form, when it takes scales: both its runs are looked at for each cause (09 R213, 05 R136). -/
def scalesFault (w : Wick) (o : OpX) (kb : Nat) : Option Nat :=
  if o.flags.getLsbD 4 then
    scaleFault w.info.ng ((List.range kb).map (fun j => fld o.imm.toNat 8 8 + j) ++ (List.range kb).map (fun j => fld o.imm.toNat 16 8 + j))
  else none

/-- MMA, MMAS and MMAC after the convergence check (09 R215, R216, R218, R221). Without STRM a nonzero s[A][63:20] leaves a beyond the AB:
the address-range trap, after the alignment (DEDUCED, log entry 134: 09 R212 says that it must be zero and names no trap). -/
def mmaIssue (s : State) (w : Wick) (cx : Cx) (h : Hdr) (o : OpX) (k : MKind) (band : Option (Band × Nat)) : Eff :=
  let x := (w.rdS cx.f o.c.toNat).toNat
  let sub := h.sub.toNat
  let i := baseInstr k h o x
  let kk := 32 * i.kb
  let m := s.matrix w.info.coreId
  match scalesFault w o i.kb with
  | some c => .trap { cause := c }
  | none =>
    if !mmaShapeOk k sub x i.abyp i.wlat then .trap { cause := 0x19 }
    else if i.abyp && m.adesc != some (fmtA sub, i.m, kk) then .trap { cause := 0x19 }
    else if i.wlat && m.wdesc != some (sub, kk, i.n) then .trap { cause := 0x19 }
    else
      let sA := (w.rdS cx.f o.a.toNat).toNat
      let a := if i.strm then fld sA 0 20 else sA
      let b := (w.rdS cx.f o.b.toNat).toNat
      let kbA := if k = .mmac then i.kb / 4 else i.kb
      let rows := if k = .mmas then sparseRows sub kk i.sm i.sn else kk * esB sub / 4
      match operandFault s w (if i.abyp then none else some (512, [(a, kbA * i.m * 32 * esA sub)])) (if i.wlat then none else some (512, [(b, spanB rows i.n)])) with
      | some (c, v) => .trap { cause := c, val := BitVec.ofNat 64 v }
      | none =>
        let i1 := { i with a := a, b := b, wcount := fld sA 20 44,
                           sa := if i.scl then captured w (fld o.imm.toNat 8 8) i.kb else [],
                           sb := if i.scl then captured w (fld o.imm.toNat 16 8) i.kb else [] }
        match band with
        | none => enterMatrix s w cx o i1 id
        | some (bd, pos) =>
          let turn := bd.mmacs[pos]?.getD 0
          if engineFull m then .wait 7
          else
            let s1 := s.modBand bd.uid (fun b => { b with mmacs := b.mmacs.setIfInBounds pos (turn + 1) })
            enterMatrix s1 w cx o { i1 with band := bd.uid, pos := pos, turn := turn } id

def mmaBody (s : State) (w : Wick) (cx : Cx) (h : Hdr) (o : OpX) (k : MKind) : Eff :=
  if !wickWide w cx then .trap { cause := 0x0A } else mmaIssue s w cx h o k none

def execMma (h : Hdr) (o : OpX) (s : State) : Host.Outcome State Fault Refusal := wickStep (.mma h o) s (fun s w cx => mmaBody s w cx h o .mma)
def execMmas (h : Hdr) (o : OpX) (s : State) : Host.Outcome State Fault Refusal := wickStep (.mmas h o) s (fun s w cx => mmaBody s w cx h o .mmas)

/-- MMAC: the band of slot BSLOT, bits 12 and 11 of FLAGS, has 16 members and PLACE SPREAD (09 R221). Its
checks stand right after the convergence check, before those of the scales, the shape and the addresses (DEDUCED, log entry 134). -/
def mmacBody (s : State) (w : Wick) (cx : Cx) (h : Hdr) (o : OpX) : Eff :=
  if !wickWide w cx then .trap { cause := 0x0A }
  else
    match w.info.bands[fld o.flags.toNat 11 2]? with
    | none => .trap { cause := 0x14 }
    | some r =>
      match s.findBand r.band with
      | none => .trap { cause := 0x14 }
      | some b => if b.members.length ≠ 16 ∨ b.place ≠ 1 then .trap { cause := 0x19 } else mmaIssue s w cx h o .mmac (some (b, r.pos))

def execMmac (h : Hdr) (o : OpX) (s : State) : Host.Outcome State Fault Refusal := wickStep (.mmac h o) s (fun s w cx => mmacBody s w cx h o)

/-- MZERO (09 R223). -/
def mzeroBody (s : State) (w : Wick) (cx : Cx) (h : Hdr) (o : OpX) (lat : Bool) : Eff :=
  if !wickWide w cx then .trap { cause := 0x0A }
  else
    let i := baseInstr (if lat then .mzeroLat else .mzero) h o 0
    enterMatrix s w cx o i (fun m => if lat then { m with adesc := none, wdesc := none } else m)

def execMzero (h : Hdr) (o : OpX) (s : State) : Host.Outcome State Fault Refusal := wickStep (.mzero h o) s (fun s w cx => mzeroBody s w cx h o false)
def execMzeroLat (h : Hdr) (o : OpX) (s : State) : Host.Outcome State Fault Refusal := wickStep (.mzeroLat h o) s (fun s w cx => mzeroBody s w cx h o true)

/-- The bytes a drain writes from its address on: its rows, or its blocks without a gap (09 R222). -/
def drainRuns (i : MInstr) (a : Nat) : List (Nat × Nat) :=
  let es := drainEs i.sub
  if i.rowm then (List.range i.m).map (fun r => (a + r * i.pitch, i.n * es)) else [(a, i.m * i.n * es)]

/-- MDRAIN (09 R222). -/
def mdrainBody (s : State) (w : Wick) (cx : Cx) (h : Hdr) (o : OpX) : Eff :=
  let x := (w.rdS cx.f o.c.toNat).toNat
  let i := baseInstr .mdrain h o x
  if !wickWide w cx then .trap { cause := 0x0A }
  else
    match scalesFault w o 1 with
    | some c => .trap { cause := c }
    | none =>
      if !drainShapeOk i.sub x i.byp i.rowm then .trap { cause := 0x19 }
      else
        let a := (w.rdS cx.f o.a.toNat).toNat
        match operandFault s w (if i.byp then none else some (if i.rowm then 4 else 512, drainRuns i a)) none with
        | some (c, v) => .trap { cause := c, val := BitVec.ofNat 64 v }
        | none =>
          let i1 := { i with a := a, sa := if i.scl then captured w (fld o.imm.toNat 8 8) 1 else [],
                             sb := if i.scl then captured w (fld o.imm.toNat 16 8) 1 else [] }
          enterMatrix s w cx o i1 (fun m => if i.byp then { m with adesc := some (drainFmt i.sub, i.m, i.n) } else m)

def execMdrain (h : Hdr) (o : OpX) (s : State) : Host.Outcome State Fault Refusal := wickStep (.mdrain h o) s (fun s w cx => mdrainBody s w cx h o)

/-- MLDW (09 R224). -/
def mldwBody (s : State) (w : Wick) (cx : Cx) (h : Hdr) (o : OpX) : Eff :=
  let x := (w.rdS cx.f o.c.toNat).toNat
  let i := baseInstr .mldw h o x
  let b := (w.rdS cx.f o.b.toNat).toNat
  if !wickWide w cx then .trap { cause := 0x0A }
  else if !mldwShapeOk i.sub x then .trap { cause := 0x19 }
  else
    match operandFault s w none (some (512, [(b, spanB (32 * i.kb * esB i.sub / 4) i.n)])) with
    | some (c, v) => .trap { cause := c, val := BitVec.ofNat 64 v }
    | none => enterMatrix s w cx o { i with b := b } (fun m => { m with wdesc := some (i.sub, 32 * i.kb, i.n) })

def execMldw (h : Hdr) (o : OpX) (s : State) : Host.Outcome State Fault Refusal := wickStep (.mldw h o) s (fun s w cx => mldwBody s w cx h o)

/-! ### Execution (09 R208, R215 to R219, R222 to R224) -/

/-- An element of the tile (04 R93). -/
def tileKey (core t m n : Nat) : Nat := keyCb core (t * 0x10000 + (m * 128 + n) * 4)

/-- The pattern of A(m, k): from the latch, or from the AB of a core, kbLoc being the K-block's place there (09 R212). -/
def elemA (s : State) (i : MInstr) (mx : Matrix) (core a kbLoc m k : Nat) : Nat :=
  let es := esA i.sub
  if i.abyp then
    match mx.alatch with
    | some l => (l.elems[m * l.cols + k]?).getD 0
    | none => 0
  else s.mem.read (keyAb core (a + (kbLoc * i.m + m) * 32 * es + k % 32 * es)) es

/-- The pattern of B's element in row k and column n at b (09 R212). -/
def elemB (s : State) (core sub b k n : Nat) : Nat :=
  s.mem.read (keyWb core (b + k * esB sub / 4 * 512 + 4 * n + k * esB sub % 4)) (esB sub)

/-- Metadata field number j of column n (09 R218). -/
def metaField (s : State) (core : Nat) (i : MInstr) (n j : Nat) : Nat :=
  let bits := i.sm.log2
  let f := 32 / bits
  let rows := 32 * i.kb / i.sm * i.sn * esB i.sub / 4
  fld (s.mem.read (keyWb core (i.b + (rows + j / f) * 512 + 4 * n)) 4) (bits * (j % f)) bits

/-- The indices of group g of a column rise strictly (09 R219). -/
def groupOk (s : State) (core : Nat) (i : MInstr) (n g : Nat) : Bool :=
  (List.range (i.sn - 1)).all (fun j => decide (metaField s core i n (g * i.sn + j) < metaField s core i n (g * i.sn + j + 1)))

/-- The first group with a column that is not legal, and the lowest such column (09 R219). -/
def badGroup (s : State) (core : Nat) (i : MInstr) : Option (Nat × Nat) :=
  if i.kind = .mmas then
    (List.range (32 * i.kb / i.sm)).findSome? (fun g => ((List.range i.n).find? (fun n => !groupOk s core i n g)).map (fun n => (g, n)))
  else none

/-- The pattern of B(k, n), or none where the metadata names no element. -/
def elemBk (s : State) (core : Nat) (i : MInstr) (mx : Matrix) (k n : Nat) : Option Nat :=
  if i.kind = .mmas then
    let g := k / i.sm
    ((List.range i.sn).find? (fun j => metaField s core i n (g * i.sn + j) == k % i.sm)).map (fun j => elemB s core i.sub i.b (g * i.sn + j) n)
  else if i.wlat then
    some (match mx.wlatch with
      | some l => (l.elems[k * l.cols + n]?).getD 0
      | none => 0)
  else some (elemB s core i.sub i.b k n)

/-- The scale byte of a row or column in a register (03 R82). -/
def scaleByte (r : VReg) (mn off : Nat) : Nat := fld ((r.lane (mn % 32)).toNat) (8 * ((mn / 32 + off) % 4)) 8

/-- SA(m, kb) and SB(n, kb). -/
def MInstr.scaleA (i : MInstr) (m kb : Nat) : Nat :=
  if i.scl then scaleByte (i.sa[kb]?.getD (.u 0)) m (fld i.bsel 0 2) else 0x7F

def MInstr.scaleB (i : MInstr) (n kb : Nat) : Nat :=
  if i.scl then scaleByte (i.sb[kb]?.getD (.u 0)) n (fld i.bsel 2 2) else 0x7F

/-- The flags of MFLAGS (09 R225). -/
def mIV : Nat := 1
def mOF : Nat := 2
def mNANIN : Nat := 4
def mSATD : Nat := 8

/-- The exact block sum S of products, with its special cases (03 R83). -/
def blockSum (ps : List (Ex × Ex)) : Ex :=
  let xs := ps.map (fun (a, b) => (exMul a b).1)
  let pinf := xs.any (fun x => x.isInf && !x.isNeg)
  let ninf := xs.any (fun x => x.isInf && x.isNeg)
  if xs.any Ex.isNan || (pinf && ninf) then .nan false
  else if pinf then .inf false
  else if ninf then .inf true
  else xs.foldl (fun acc x => (exAdd .rne acc x).1) (.zero false)

/-- One element accumulated over one K-block in floating point: acc and the flags (03 R83). A NaN in the accumulator is no input element
here: it raises neither IV nor NANIN (DESIGN CHOICE, log entry 134: 09 R225 does not say). -/
def accFloat (c : Nat) (ps : List (Ex × Ex)) (sa sb : Ex) : Nat × Nat :=
  let nanin := ps.any (fun (a, b) => a.isNan || b.isNan) || sa.isNan || sb.isNan
  let s := (exMul (exMul (blockSum ps) sa).1 sb).1
  let t : Rounded := match s with
    | .zero _ => Rounded.mk 0 0
    | x => rnd fF32 .rne false false 0 x
  let accIn := dec fF32 false c
  let r := rndF fF32 .rne false false 0 (exAdd .rne accIn (dec fF32 false t.pat))
  let nanOut := (dec fF32 false r.pat).isNan
  let of := t.fl &&& flOF != 0 || r.fl &&& flOF != 0
  (r.pat, (if nanOut && !nanin && !accIn.isNan then mIV else 0) ||| (if of then mOF else 0) ||| (if nanin then mNANIN else 0))

/-- The new element of tile and flags over K-block kb (03 R83, R84). aAt gives A's pattern at (m, k). -/
def accElem (s : State) (core : Nat) (i : MInstr) (mx : Matrix) (aAt : Nat → Nat → Nat) (m n kb : Nat) : Nat × Nat :=
  let c := s.mem.read (tileKey core i.tile m n) 4
  let ks := (List.range 32).map (fun j => 32 * kb + j)
  if i.sub = 5 then
    let sum := ks.foldl (fun (acc : Int) k => acc + (match elemBk s core i mx k n with
      | some b => sextN (aAt m k) 8 * sextN b 8
      | none => 0)) 0
    (wrapI (sextN c 32 + sum) 32, 0)
  else
    let ps := ks.filterMap (fun k => (elemBk s core i mx k n).map (fun b => (decElem (fmtA i.sub) (aAt m k), decElem i.sub b)))
    accFloat c ps (decE8M0 (i.scaleA m kb)) (decE8M0 (i.scaleB n kb))

/-- A K-block accumulated into the whole tile. -/
def accBlock (s : State) (core : Nat) (i : MInstr) (aAt : Nat → Nat → Nat) (kb : Nat) : State × Nat :=
  let mx := s.matrix core
  let all := (List.range i.m).flatMap (fun m => (List.range i.n).map (fun n => ((m, n), accElem s core i mx aAt m n kb)))
  ({ s with mem := all.foldl (fun mem ((m, n), (x, _)) => mem.write (tileKey core i.tile m n) 4 x) s.mem }, all.foldl (fun f (_, (_, g)) => f ||| g) 0)

/-- A read by this instruction from its own core. -/
def ownA (s : State) (core : Nat) (i : MInstr) (m k : Nat) : Nat := elemA s i (s.matrix core) core i.a (k / 32) m k

/-- The K-blocks the tile takes: all, or those before the first illegal group (09 R219). -/
def kLimit (s : State) (core : Nat) (i : MInstr) : Nat :=
  match badGroup s core i with
  | some (g, _) => min i.kb (g * i.sm / 32)
  | none => i.kb

/-- K-blocks accumulated from kdone on, at most fuel of them. -/
def accBlocks (s : State) (core : Nat) (i : MInstr) (lim : Nat) : Nat → State × MInstr
  | 0 => (s, i)
  | fuel + 1 =>
    if i.kdone ≥ lim then (s, i)
    else
      let (s', f) := accBlock s core i (ownA s core i) i.kdone
      accBlocks s' core { i with kdone := i.kdone + 1, flags := i.flags ||| f } lim fuel

/-- The record of a FAILED MMAS (09 R220). -/
def sparseRecord (tok : Nat) (i : MInstr) (g n : Nat) : Nat :=
  tok + at_ n 64 + at_ (g % 2 ^ 16) 72 + at_ i.tile 88 + at_ (i.kdone % 2 ^ 16) 96

/-- A drained element: its pattern and flags (09 R222). -/
def drainElem (i : MInstr) (c m n : Nat) : Nat × Nat :=
  let sA := decE8M0 (i.scaleA m 0)
  let sB := decE8M0 (i.scaleB n 0)
  match i.sub with
  | 5 => (c, 0)
  | 6 =>
    if sA.isNan || sB.isNan then (0, mIV ||| mNANIN)
    else
      let v := (exMul (exMul (exOfInt (sextN c 32)) sA).1 sB).1
      let (p, q) := v.rat
      -- round to nearest, ties to even
      let fl := p / (q : Int)
      let rem := 2 * (p % (q : Int))
      let x := if rem > (q : Int) ∨ (rem = (q : Int) ∧ fl % 2 = 1) then fl + 1 else fl
      (narrowI true i.satd 8 x, if x < -128 ∨ x > 127 then mSATD else 0)
  | _ =>
    let f := match i.sub with
      | 0 => fF32 | 1 => fBF16 | 2 => fF16 | 3 => fE4M3 | _ => fE5M2
    let x := dec fF32 false c
    let nanin := x.isNan || sA.isNan || sB.isNan
    let y := (exMul (exMul x sA).1 sB).1
    let r := rnd f .rne i.satd false 0 y
    let out := dec f false r.pat
    let of := r.fl &&& flOF != 0
    (r.pat, (if (out.isNan && !nanin) || sA.isNan || sB.isNan then mIV else 0) ||| (if of then mOF else 0) ||| (if nanin then mNANIN else 0)
      ||| (if i.satd && (of || (y.isInf && !out.isInf)) then mSATD else 0))

/-- The destination of (m, n) in the AB (09 R222). -/
def drainAddr (i : MInstr) (m n : Nat) : Nat :=
  let es := drainEs i.sub
  if i.rowm then i.a + m * i.pitch + n * es else i.a + (n / 32 * i.m + m) * 32 * es + n % 32 * es

/-- MDRAIN executed. -/
def runDrain (s : State) (core : Nat) (i : MInstr) : State × MInstr :=
  let all := (List.range i.m).flatMap (fun m => (List.range i.n).map (fun n => ((m, n), drainElem i (s.mem.read (tileKey core i.tile m n) 4) m n)))
  let i' := { i with flags := all.foldl (fun f (_, (_, g)) => f ||| g) 0 }
  if i.byp then
    (s.putMatrix { s.matrix core with alatch := some ⟨drainFmt i.sub, i.m, i.n, all.map (fun (_, (x, _)) => x)⟩ }, i')
  else
    ({ s with mem := all.foldl (fun mem ((m, n), (x, _)) => mem.write (keyAb core (drainAddr i m n)) (drainEs i.sub) x) s.mem }, i')

/-- MLDW executed (09 R224). -/
def runMldw (s : State) (core : Nat) (i : MInstr) : State :=
  let k := 32 * i.kb
  let elems := (List.range k).flatMap (fun r => (List.range i.n).map (fun n => elemB s core i.sub i.b r n))
  s.putMatrix { s.matrix core with wlatch := some ⟨i.sub, k, i.n, elems⟩ }

/-- What executing the head does when nothing keeps it: the new state and the instruction, or none while it must wait. -/
def runMatrix (s : State) (core : Nat) (i : MInstr) : Option (State × MInstr) :=
  match i.kind with
  | .mzero => some ({ s with mem := s.mem.wipe (keyCb core (i.tile * 0x10000)) 0x10000 }, i)
  | .mzeroLat => some (s.putMatrix { s.matrix core with alatch := none, wlatch := none }, i)
  | .mldw => some (runMldw s core i, i)
  | .mdrain => some (runDrain s core i)
  | .mmac => if i.computed then some (s, i) else none
  | .mma | .mmas =>
    let lim := kLimit s core i
    let fin (s : State) (i : MInstr) : State × MInstr :=
      match badGroup s core i with
      | some (g, n) => (s, { i with failed := true, record := sparseRecord i.token i g n })
      | none => (s, i)
    if i.strm then
      -- the group that fails is met when its K-block's bytes have come (09 R217, R219)
      let need := i.wcount + (i.kdone + 1) * i.m * 32 * esA i.sub
      if i.kdone < lim then none
      else if i.kdone < i.kb && (s.chan (core * 4 + i.ch)).wp < need then none
      else some (fin s i)
    else
      let (s1, i1) := accBlocks s core i lim (i.kb + 1)
      some (fin s1 i1)

/-- A matrix instruction completes: its flags join MFLAGS, and its tile is released (09 R208, R215). -/
def finishMatrix (s : State) (core : Nat) (i : MInstr) : State :=
  let s1 := s.modMInstr core i.seq (fun _ => { i with done := true })
  let s2 := s1.modWick i.uid (fun w => { w with books := { w.books with mflags := w.books.mflags ||| BitVec.ofNat 4 i.flags } })
  let s3 := { s2 with packets := s2.packets.map (fun (p : Packet) =>
    -- the wick has exited: no MWAIT will report it (09 R220)
    if p.id == i.pkt && i.failed && (s2.findWick i.uid).isNone then
      { p with mfail := match p.mfail with
        | some a => some (if i.record % 2 ^ 64 < a % 2 ^ 64 then i.record else a)
        | none => some i.record }
    else p) }
  updateBands s3 i.pkt

/-- The instruction that executes next waits: it is at rest, or its tile is held by a later QSUB's source (07 R205). -/
def headWaits (s : State) (core : Nat) (i : MInstr) : Bool := i.rest || (i.namesTile && quantBars s core i.tile i.seq)

/-- A command of a cancelled launch that waits for what will not come is abandoned (19 R383): the bytes of a channel that has stopped at a
fault, or whose copies are over; the MMACs of members that have not issued theirs, their wicks having ended. -/
def MInstr.abandoned (i : MInstr) (s : State) (core : Nat) : Bool :=
  ((s.findPacket i.pkt).map Packet.cancelled).getD false
    && ((i.strm && decide ((s.chan (core * 4 + i.ch)).wp < i.wcount + (i.kdone + 1) * i.m * 32 * esA i.sub) && s.channelStopped (core * 4 + i.ch))
      || (i.kind == .mmac
        && decide ((s.matrices.flatMap (fun m => m.queue.filter (fun j => j.kind == .mmac && j.band == i.band && j.turn == i.turn))).length < 16)))

def matrixComplete (s : State) (core : Nat) : State :=
  match (s.matrix core).head with
  | none => s
  | some i =>
    if headWaits s core i then s
    else
      match runMatrix s core i with
      | none => if i.abandoned s core then finishMatrix s core i else s
      | some (s', i') => finishMatrix s' core i'

def execEvMatrixInstructionComplete (core : Nat) (s : State) : Host.Outcome State Fault Refusal := .next (matrixComplete s core)

/-! ### Streaming (09 R217) -/

/-- A streaming instruction at the head accumulates its next K-block once the write pointer has reached its bytes. -/
def streamBlock (s : State) (core : Nat) : State :=
  match (s.matrix core).head with
  | none => s
  | some i =>
    let need := i.wcount + (i.kdone + 1) * i.m * 32 * esA i.sub
    if headWaits s core i || !i.strm || i.kdone ≥ kLimit s core i || (s.chan (core * 4 + i.ch)).wp < need then s
    else
      let (s', f) := accBlock s core i (ownA s core i) i.kdone
      s'.modMInstr core i.seq (fun i => { i with kdone := i.kdone + 1, flags := i.flags ||| f })

def execEvStreamingKBlock (core : Nat) (s : State) : Host.Outcome State Fault Refusal := .next (streamBlock s core)

/-! ### The co-operative multiply (09 R221) -/

/-- The members' instructions of one co-operative instruction, by core. -/
def coMembers (s : State) (band turn : Nat) : List (Nat × MInstr) :=
  s.matrices.flatMap (fun m => (m.queue.filter (fun i => i.kind == .mmac && i.band == band && i.turn == turn)).map (fun i => (m.core, i)))

/-- Each core computes its block over the full K: K-block kb of row block r comes from the member at (r, kb mod 4). -/
def coCompute (s : State) (ms : List (Nat × MInstr)) (core : Nat) (i : MInstr) : Nat → Nat → State × Nat
  | 0, _ => (s, 0)
  | fuel + 1, kb =>
    if kb ≥ i.kb then (s, 0)
    else
      let src := ms.find? (fun (_, j) => j.pos == i.pos / 4 * 4 + kb % 4)
      let aAt (m k : Nat) : Nat := match src with
        | some (c, j) => elemA s j (s.matrix c) c j.a (kb / 4) m k
        | none => 0
      let (s1, f) := accBlock s core i aAt kb
      let (s2, g) := coCompute s1 ms core i fuel (kb + 1)
      (s2, f ||| g)

/-- The least turn of a band whose instance is not computed. -/
def coTurn (s : State) (band : Nat) : Option Nat :=
  let open_ := s.matrices.flatMap (fun m => (m.queue.filter (fun i => i.kind == .mmac && i.band == band && !i.computed && !i.done)).map MInstr.turn)
  open_.foldl (fun m t => match m with
    | none => some t
    | some x => some (min x t)) none

def rendezvous (s : State) (band : Nat) : State :=
  match coTurn s band with
  | none => s
  | some t =>
    let ms := coMembers s band t
    if ms.length ≠ 16 ∨ ms.any (fun (c, i) => headWaits s c i || (s.matrix c).head.map MInstr.seq != some i.seq) then s
    else
      match ms.head? with
      | none => s
      | some (_, i0) =>
        if ms.all (fun (_, i) => i.sub == i0.sub && i.m == i0.m && i.n == i0.n && i.kb == i0.kb && i.scl == i0.scl) then
          ms.foldl (fun s' (c, i) =>
            -- every core reads the buffers as they stand before the multiply
            let (s1, f) := coCompute { s with mem := s'.mem } ms c i (i.kb + 1) 0
            { s' with mem := s1.mem }.modMInstr c i.seq (fun i => { i with computed := true, kdone := i.kb, flags := f })) s
        else
          -- a FAILED instance has completed and released its tile (09 R228)
          ms.foldl (fun s' (c, i) =>
            finishMatrix s' c { i with computed := true, failed := true, record := i.token }) s

def execEvMmacRendezvous (band : Nat) (s : State) : Host.Outcome State Fault Refusal := .next (rendezvous s band)

/-! ### Waiting and status (09 R220, R225) -/

/-- The sequence number a token of this core names, when the core has reached it; modulo 2^32 within a span of 2^31. -/
def tokenSeq (m : Matrix) (w : Wick) (t : Nat) : Option Nat :=
  let back := (m.seq + 2 ^ 32 - fld t 0 32) % 2 ^ 32
  if fld t 32 6 = w.info.core ∧ fld t 38 3 = w.info.cluster ∧ fld t 41 23 = 0 ∧ back < 2 ^ 31 ∧ back < m.seq then some (m.seq - back) else none

/-- The trap of a FAILED instruction (16 R326). -/
def failedTrap (i : MInstr) : TrapInfo :=
  if i.kind = .mmac then { cause := 0x19, val := BitVec.ofNat 64 i.record }
  else { cause := 0x1A, val := BitVec.ofNat 64 i.record, val2 := BitVec.ofNat 64 (i.record / 2 ^ 64) }

def mwaitBody (s : State) (w : Wick) (cx : Cx) (h : Hdr) (o : OpX) : Eff :=
  let core := w.info.coreId
  let m := s.matrix core
  let upto := if h.sub = 0 then tokenSeq m w (w.rdS cx.f o.a.toNat).toNat else none
  let mine := m.queue.filter (fun i => i.uid == w.info.uid && (match upto with
    | some q => decide (i.seq ≤ q)
    | none => true))
  if !wickWide w cx then .trap { cause := 0x0A }
  else if mine.any (fun i => !i.done) then .wait 7
  else
    match mine.find? (fun i => i.failed && !i.reported) with
    | some i => .stay (raiseTrap (s.modMInstr core i.seq (fun i => { i with reported := true })) w cx (failedTrap i))
    | none => .next s

def execMwait (h : Hdr) (o : OpX) (s : State) : Host.Outcome State Fault Refusal := wickStep (.mwait h o) s (fun s w cx => mwaitBody s w cx h o)

/-- MSTAT.STAT (09 R225). -/
def mstatVal (s : State) (w : Wick) (t : Nat) : Nat :=
  let core := w.info.coreId
  let m := s.matrix core
  match tokenSeq m w t with
  | none => 0
  | some q =>
    if q + 256 < m.seq then 1
    else
      match m.queue.find? (fun i => i.seq == q) with
      | none => 1
      | some i =>
        let waits := i.strm && !i.done && (m.head.map MInstr.seq == some i.seq) && decide (i.kdone < i.kb)
          && decide ((s.chan (core * 4 + i.ch)).wp < i.wcount + (i.kdone + 1) * i.m * 32 * esA i.sub)
        (if i.done then 1 else 0) + (if i.failed then 2 else 0) + (if waits then 4 else 0)

def mstatBody (s : State) (w : Wick) (cx : Cx) (h : Hdr) (o : OpX) : Eff :=
  if cx.act = 0 then .next s
  else if h.sub = 0 then .next (s.putWick (w.wrS cx.f o.d.toNat (BitVec.ofNat 64 (mstatVal s w (w.rdS cx.f o.a.toNat).toNat))))
  else if (s.matrix w.info.coreId).queue.any (fun i => i.uid == w.info.uid && !i.done) then .wait 7
  else
    let w' := w.wrS cx.f o.d.toNat (w.books.mflags.setWidth 64)
    .next (s.putWick (if h.sub = 2 then { w' with books := { w'.books with mflags := 0 } } else w'))

def execMstat (h : Hdr) (o : OpX) (s : State) : Host.Outcome State Fault Refusal := wickStep (.mstat h o) s (fun s w cx => mstatBody s w cx h o)

end Sys2Proof.Machine
end

