-- ==== Sys2Proof/Machine/Entity.lean ====
section
/-! DEFINITION. The entity-component table store (spec/11_entity_store.md): its records, the entity instructions, and the
application, compaction and query phases of its engine. -/

namespace Sys2Proof.Machine

/-! ### Accesses to a world's records (11 R237, 17 R423) -/

/-- What an access of a world's record meets: a page that fails, with the access, or a malformed record. -/
inductive EErr where
  | page (kind va : Nat) (p : PFault)
  | malf (addr : Nat)
  deriving DecidableEq, Repr

/-- A sequence of accesses, all of them or none. -/
abbrev EM := StateT State (Except EErr)

/-- Who accesses: the context, whether the user bit is ignored (17 R351), and the packet the access is for. -/
structure EAcc where
  ctx : Nat
  sl : Bool
  pkt : Nat
  deriving DecidableEq, Repr

/-- Bytes read: those of a render target of the packet's own pass are free values (14 R297). -/
def eRd (c : EAcc) (va n : Nat) : EM Nat := fun s =>
  match xlatePieces s c.ctx c.sl ⟨0, 0, 0⟩ (pages va n) with
  | (.error (a, p), _) => .error (.page 0 a p)
  | (.ok ps, s') => .ok (s'.wildVal c.pkt va n (leVal (readPieces s'.mem ps)), s')

def eWr (c : EAcc) (va n v : Nat) : EM Unit := fun s =>
  match xlatePieces s c.ctx c.sl ⟨1, 0, 0⟩ (pages va n) with
  | (.error (a, p), _) => .error (.page 1 a p)
  | (.ok ps, s') => .ok ((), s'.storePieces ps (leBytes n v))

def eMalf (addr : Nat) : EM α := fun _ => .error (.malf addr)

/-- A byte whose last write by anything else than a table store fell in a time in which this world was named (11 R230, log 120). -/
def State.softByte (s : State) (ctx world k : Nat) : Bool :=
  match (s.older.past.filter (fun x => x.key == k && !s.older.stored.contains (x.key, x.time))).getLast? with
  | none => false
  | some x => s.older.worlds.any (fun n => n.ctx == ctx && n.addr == world && decide (n.since ≤ x.time) && n.until_.all (fun t => decide (x.time < t)))

/-- Software's last write of some byte of an entry of a world's structure, m bytes at ent, is one it made while the world was named (11 R230,
log 120). -/
def State.softEntry (s : State) (c : EAcc) (world ent m : Nat) : Bool :=
  !s.older.past.isEmpty && (match xlatePieces s c.ctx c.sl ⟨0, 0, 0⟩ (pages ent m) with
    | (.error _, _) => false
    | (.ok ps, _) => ps.any (fun (k, len) => (List.range len).any (fun j => s.softByte c.ctx world (k + j))))

/-- Bytes of an entry of a world's structure, which is m bytes at ent: free values while it is software's. -/
def eEnt (c : EAcc) (world ent m va n : Nat) : EM Nat := do
  let v ← eRd c va n
  fun s => .ok (if s.softEntry c world ent m then leVal ((bytesFrom va n).map (Config.worldByte s.free)) else v, s)

/-- What a table store writes: no write of software (11 R230). -/
def eSt (c : EAcc) (va n v : Nat) : EM Unit := fun s =>
  match xlatePieces s c.ctx c.sl ⟨1, 0, 0⟩ (pages va n) with
  | (.error (a, p), _) => .error (.page 1 a p)
  | (.ok ps, s') =>
    let keys := ps.flatMap (fun (k, len) => (List.range len).map (fun j => (k + j, s'.now)))
    .ok ((), { s' with mem := writePieces s'.mem ps (leBytes n v), older := { s'.older with stored := s'.older.stored ++ keys } })

/-- The first answer of a search. -/
def eFind (f : α → EM (Option β)) : List α → EM (Option β)
  | [] => pure none
  | x :: xs => do
    match ← f x with
    | some y => pure (some y)
    | none => eFind f xs

/-! ### Records (11 R230, R231) -/

/-- The fields of a world record that software writes, with its address. -/
structure World where
  acc : EAcc
  base : Nat
  wid : Nat
  ncomp : Nat
  ntab : Nat
  dirbase : Nat
  dircap : Nat
  freebase : Nat
  compbase : Nat
  tabbase : Nat
  cqbase : Nat
  cqcap : Nat
  logbase : Nat
  logcap : Nat
  deriving DecidableEq, Repr

/-- LOGCAP is a power of two from 2^6 to 2^31. -/
def logcapOk (n : Nat) : Bool := (List.range 26).any (fun k => n == 2 ^ (k + 6))

/-- The record of a world (11 R230). -/
def readWorld (acc : EAcc) (base : Nat) : EM World := do
  let r ← eEnt acc base base 256 base 256
  let ok := base % 256 == 0 && fld r 19 5 == 0 && fld r 41 23 == 0 && fld r 224 32 == 0 && fld r 737 1311 == 0
    && decide (1 ≤ fld r 8 11) && decide (fld r 8 11 ≤ 1024) && decide (1 ≤ fld r 24 17) && decide (fld r 24 17 ≤ 65536)
    && fld r 64 12 == 0 && fld r 128 32 != 0 && fld r 512 32 != 0 && logcapOk (fld r 640 32)
  if !ok then eMalf base
  else pure {
    acc := acc, base := base, wid := fld r 0 8, ncomp := fld r 8 11, ntab := fld r 24 17, dirbase := fld r 64 64,
    dircap := fld r 128 32, freebase := fld r 256 64, compbase := fld r 320 64, tabbase := fld r 384 64,
    cqbase := fld r 448 64, cqcap := fld r 512 32, logbase := fld r 576 64, logcap := fld r 640 32 }

/-- The HW fields of a world record, by byte: NEXTIDX, FREETOP, CQCNT, CHGSEQ, SYNCNO, COMPACT. -/
def World.get (x : World) (off : Nat) : EM Nat := eEnt x.acc x.base x.base 256 (x.base + off) 4
def World.set (x : World) (off v : Nat) : EM Unit := eSt x.acc (x.base + off) 4 v

def oNextidx : Nat := 20
def oFreetop : Nat := 24
def oCqcnt : Nat := 68
def oChgseq : Nat := 84
def oSyncno : Nat := 88
def oCompact : Nat := 92

/-- An entry of the world's structure: n bytes. -/
def World.entry (x : World) (va n : Nat) : EM Nat := eEnt x.acc x.base va n va n

/-- A column: component, address, LESZ. -/
structure Column where
  comp : Nat
  base : Nat
  lesz : Nat
  deriving DecidableEq, Repr

/-- A table: its descriptor, and the columns once they have been read. -/
structure Table where
  num : Nat
  addr : Nat
  ncol : Nat
  clist : Nat
  hbase : Nat
  lbase : Nat
  cap : Nat
  cols : List Column := []
  deriving DecidableEq, Repr

/-- LESZ of a component (11 R231). -/
def readComp (x : World) (c : Nat) : EM Nat := do
  let r ← eRd x.acc (x.compbase + 8 * c) 8
  if fld r 4 60 ≠ 0 ∨ fld r 0 4 > 8 then eMalf (x.compbase + 8 * c) else pure (fld r 0 4)

/-- COMP and BASE of entry j of a column list; lo is the least COMP that may stand there. -/
def readCol (x : World) (clist j lo : Nat) : EM (Nat × Nat) := do
  let r ← x.entry (clist + 16 * j) 16
  let c := fld r 0 16
  if fld r 16 48 ≠ 0 ∨ c < lo ∨ c ≥ x.ncomp then eMalf (clist + 16 * j) else pure (c, fld r 64 64)

/-- A column with the element size its component gives; its BASE is aligned to that. -/
def sizeCol (x : World) (clist j c base : Nat) : EM Column := do
  let z ← readComp x c
  if base % 2 ^ z ≠ 0 then eMalf (clist + 16 * j) else pure ⟨c, base, z⟩

/-- The column list, in strictly ascending COMP order; lo is the least COMP that may come next. -/
def readCols (x : World) (clist : Nat) : Nat → Nat → List Nat → EM (List Column)
  | _, _, [] => pure []
  | j, lo, _ :: rest => do
    let (c, base) ← readCol x clist j lo
    let k ← sizeCol x clist j c base
    let cs ← readCols x clist (j + 1) (c + 1) rest
    pure (k :: cs)

/-- The components of a column list. -/
def readSet (x : World) (clist : Nat) : Nat → Nat → List Nat → EM (List Nat)
  | _, _, [] => pure []
  | j, lo, _ :: rest => do
    let (c, _) ← readCol x clist j lo
    let cs ← readSet x clist (j + 1) (c + 1) rest
    pure (c :: cs)

/-- The column of a component: no more of the list is read than finds it. -/
def searchCol (x : World) (clist comp : Nat) : Nat → Nat → List Nat → EM (Option Column)
  | _, _, [] => pure none
  | j, lo, _ :: rest => do
    let (c, base) ← readCol x clist j lo
    if c = comp then
      let k ← sizeCol x clist j c base
      pure (some k)
    else if comp < c then pure none
    else searchCol x clist comp (j + 1) (c + 1) rest

/-- A table descriptor alone (11 R231). -/
def readDesc (x : World) (t : Nat) : EM Table := do
  let a := x.tabbase + 64 * t
  let r ← x.entry a 64
  let ncol := fld r 0 6
  let cap := fld r 256 32
  let ok := fld r 6 58 == 0 && fld r 352 160 == 0 && decide (ncol ≤ 32) && cap % 32 == 0 && decide (cap ≤ 2 ^ 28)
    && decide (fld r 288 32 ≤ cap) && decide (fld r 320 32 ≤ fld r 288 32)
  if !ok then eMalf a
  else pure { num := t, addr := a, ncol := ncol, clist := fld r 64 64, hbase := fld r 128 64, lbase := fld r 192 64, cap := cap }

/-- A table descriptor with its columns. -/
def readTable (x : World) (t : Nat) : EM Table := do
  let tb ← readDesc x t
  let cols ← readCols x tb.clist 0 0 (List.range tb.ncol)
  pure { tb with cols := cols }

/-- The components of a table. -/
def tableSet (x : World) (t : Nat) : EM (List Nat) := do
  let tb ← readDesc x t
  readSet x tb.clist 0 0 (List.range tb.ncol)

/-- The column of a component in a table, if it has one. -/
def findCol (x : World) (t comp : Nat) : EM (Option Column) := do
  let tb ← readDesc x t
  searchCol x tb.clist comp 0 0 (List.range tb.ncol)

/-- ROWS and LIVE of a table. -/
def Table.rows (x : World) (t : Table) : EM Nat := eEnt x.acc x.base t.addr 64 (t.addr + 36) 4
def Table.setRows (x : World) (t : Table) (v : Nat) : EM Unit := eSt x.acc (t.addr + 36) 4 v
def Table.live (x : World) (t : Table) : EM Nat := eEnt x.acc x.base t.addr 64 (t.addr + 40) 4
def Table.setLive (x : World) (t : Table) (v : Nat) : EM Unit := eSt x.acc (t.addr + 40) 4 v

def Table.col (t : Table) (c : Nat) : Option Column := t.cols.find? (fun k => k.comp == c)

/-! ### The directory (11 R232 to R234) -/

/-- A directory entry: GEN, STATE, TABLE, ROW. -/
structure DirEntry where
  gen : Nat
  state : Nat
  table : Nat
  row : Nat
  deriving DecidableEq, Repr

/-- A directory entry; a reserved field that is not zero makes it malformed (00 R12). -/
def readDir (x : World) (i : Nat) : EM DirEntry := do
  let r ← x.entry (x.dirbase + 16 * i) 16
  if fld r 26 6 ≠ 0 ∨ fld r 48 16 ≠ 0 ∨ fld r 92 36 ≠ 0 then eMalf (x.dirbase + 16 * i) else pure ⟨fld r 0 24, fld r 24 2, fld r 32 16, fld r 64 28⟩

def writeDir (x : World) (i : Nat) (e : DirEntry) : EM Unit :=
  eSt x.acc (x.dirbase + 16 * i) 16 (e.gen % 2 ^ 24 + at_ (e.state % 4) 24 + at_ (e.table % 2 ^ 16) 32 + at_ (e.row % 2 ^ 28) 64)

/-- The fields of a handle (11 R233). -/
def ehIndex (h : Nat) : Nat := fld h 0 32
def ehGen (h : Nat) : Nat := fld h 32 24
def ehWorld (h : Nat) : Nat := fld h 56 8
def mkEh (wid gen idx : Nat) : Nat := idx % 2 ^ 32 + at_ (gen % 2 ^ 24) 32 + at_ (wid % 256) 56

/-- The entry of a valid handle (11 R233). -/
def resolveHandle (x : World) (h : Nat) : EM (Option DirEntry) := do
  if ehWorld h ≠ x.wid ∨ ehIndex h ≥ x.dircap then pure none
  else
    let e ← readDir x (ehIndex h)
    pure (if e.gen = ehGen h ∧ e.state = 2 then some e else none)

/-- An index reserved: the top of the free stack, or NEXTIDX; none when the directory is full (11 R234). -/
def reserve (x : World) : EM (Option Nat) := do
  let top ← x.get oFreetop
  if top > 0 then
    let i ← x.entry (x.freebase + 4 * (top - 1)) 4
    let e ← readDir x i
    writeDir x i { e with state := 1 }
    x.set oFreetop (top - 1)
    pure (some (mkEh x.wid e.gen i))
  else
    let i ← x.get oNextidx
    if i ≥ x.dircap then pure none
    else
      writeDir x i ⟨1, 1, 0, 0⟩
      x.set oNextidx (i + 1)
      pure (some (mkEh x.wid 1 i))

/-- An index freed: GEN increments and it is pushed, or it retires (11 R234). -/
def freeIndex (x : World) (i : Nat) : EM Unit := do
  let e ← readDir x i
  if e.gen = 0xFFFFFF then writeDir x i { e with state := 3 }
  else
    let top ← x.get oFreetop
    eSt x.acc (x.freebase + 4 * top) 4 i
    writeDir x i { e with gen := e.gen + 1, state := 0 }
    x.set oFreetop (top + 1)

/-! ### Queued changes (11 R238 to R240, R244) -/

/-- A change number taken: CHGSEQ increments, skipping 0xFFFF_FFFF (11 R239). -/
def takeChange (x : World) : EM Nat := do
  let n ← x.get oChgseq
  x.set oChgseq (if n + 1 ≥ 0xFFFFFFFF then 0 else n + 1)
  pure n

/-- A log entry written (11 R244). -/
def writeLog (x : World) (chg status reason : Nat) : EM Unit := do
  let sync ← x.get oSyncno
  eSt x.acc (x.logbase + 8 * (chg % x.logcap)) 8 (chg + at_ status 32 + at_ reason 40 + at_ (sync % 2 ^ 16) 48)

/-- A queue entry (11 R240). -/
structure Change where
  kind : Nat
  order : Nat
  rank : Nat
  lane : Nat
  iseq : Nat
  chg : Nat
  handle : Nat
  arg : Nat
  lseq : Nat
  deriving DecidableEq, Repr

def Change.image (c : Change) : Nat :=
  c.kind % 16 + at_ (c.order % 2 ^ 16) 16 + at_ (c.rank % 2 ^ 24) 32 + at_ (c.lane % 32) 56 + at_ (c.iseq % 2 ^ 16) 64
    + at_ (c.chg % 2 ^ 32) 96 + at_ (c.handle % 2 ^ 64) 128 + at_ (c.arg % 2 ^ 16) 192 + at_ (c.lseq % 2 ^ 32) 208

def parseChange (r : Nat) : Change :=
  ⟨fld r 0 4, fld r 16 16, fld r 32 24, fld r 56 5, fld r 64 16, fld r 96 32, fld r 128 64, fld r 192 16, fld r 208 32⟩

/-- A queue entry read: reserved fields are zero and KIND is one of the four (00 R12). -/
def readChange (x : World) (i : Nat) : EM Change := do
  let a := x.cqbase + 32 * i
  let r ← eRd x.acc a 32
  if fld r 0 4 > 3 ∨ fld r 4 12 ≠ 0 ∨ fld r 61 3 ≠ 0 ∨ fld r 80 16 ≠ 0 ∨ fld r 240 16 ≠ 0 then eMalf a else pure (parseChange r)

/-- The queue has room (11 R238, R239). -/
def queueRoom (x : World) : EM Bool := do
  let n ← x.get oCqcnt
  pure (decide (n < x.cqcap))

/-- An entry appended (11 R240). -/
def enqueue (x : World) (c : Change) : EM Unit := do
  let n ← x.get oCqcnt
  eSt x.acc (x.cqbase + 32 * n) 32 c.image
  x.set oCqcnt (n + 1)

/-- ECRT for a lane (11 R238): with the queue full no index is reserved, so the queue is asked first. -/
def createLane (x : World) (mk : Nat → Nat → Change) : EM (Nat × Nat) := do
  let chg ← takeChange x
  if ← queueRoom x then
    match ← reserve x with
    | some h => enqueue x (mk chg h); pure (h, chg)
    | none => writeLog x chg 5 10; pure (0, chg)
  else writeLog x chg 5 9; pure (0, chg)

/-- EDEL, EADD and EREM for a lane (11 R239). -/
def changeLane (x : World) (mk : Nat → Change) : EM Nat := do
  let chg ← takeChange x
  if ← queueRoom x then enqueue x (mk chg); pure chg
  else writeLog x chg 5 9; pure chg

/-! ### Rows (11 R248) -/

/-- Live bit r of a table. -/
def liveBit (x : World) (t : Table) (r : Nat) : EM Bool := do
  let v ← eRd x.acc (t.lbase + 4 * (r / 32)) 4
  pure (v.testBit (r % 32))

def setLiveBit (x : World) (t : Table) (r : Nat) (on : Bool) : EM Unit := do
  let a := t.lbase + 4 * (r / 32)
  let v ← eRd x.acc a 4
  eSt x.acc a 4 (setFld v (r % 32) 1 (if on then 1 else 0))

/-- The rows of a live word below a bound, in ascending order, that are live or that are holes. -/
def wordRows (v word rows : Nat) (live : Bool) : List Nat :=
  ((List.range 32).filter (fun b => decide (32 * word + b < rows) && v.testBit b == live)).map (fun b => 32 * word + b)

/-- The lowest hole below ROWS. -/
def lowestHole (x : World) (t : Table) (rows : Nat) : EM (Option Nat) :=
  eFind (fun i => do
    let v ← eRd x.acc (t.lbase + 4 * i) 4
    pure (wordRows v i rows false).head?) (List.range ((rows + 31) / 32))

/-- The highest live row below ROWS. -/
def highestLive (x : World) (t : Table) (rows : Nat) : EM (Option Nat) :=
  eFind (fun i => do
    let v ← eRd x.acc (t.lbase + 4 * i) 4
    pure (wordRows v i rows true).getLast?) (List.range ((rows + 31) / 32)).reverse

/-- Where a row is placed: the lowest hole, or ROWS below CAP. -/
def freeRow (x : World) (t : Table) : EM (Option Nat) := do
  let rows ← t.rows x
  match ← lowestHole x t rows with
  | some r => pure (some r)
  | none => pure (if rows < t.cap then some rows else none)

/-- A row's columns: copied from the source table's, or zeroed. -/
def fillCols (x : World) (row : Nat) (src : Option (Table × Nat)) : List Column → EM Unit
  | [] => pure ()
  | c :: cs => do
    let n := 2 ^ c.lesz
    let v ← match src.bind (fun (t, r) => (t.col c.comp).map (fun k => k.base + r * 2 ^ k.lesz)) with
      | some a => eRd x.acc a n
      | none => pure 0
    eSt x.acc (c.base + row * n) n v
    fillCols x row src cs

/-- A row placed: columns, handle, live bit, ROWS and LIVE. -/
def placeRow (x : World) (t : Table) (row h : Nat) (src : Option (Table × Nat)) : EM Unit := do
  fillCols x row src t.cols
  eSt x.acc (t.hbase + 8 * row) 8 h
  let rows ← t.rows x
  t.setRows x (max rows (row + 1))
  setLiveBit x t row true
  let n ← t.live x
  t.setLive x (n + 1)

/-- A row removed; a hole left at the top lowers ROWS. -/
def dropRow (x : World) (t : Table) (row : Nat) : EM Unit := do
  setLiveBit x t row false
  let n ← t.live x
  t.setLive x (n - 1)
  let rows ← t.rows x
  match ← highestLive x t rows with
  | some k => t.setRows x (k + 1)
  | none => t.setRows x 0

/-! ### The instructions (11 R236, R237) -/

/-- A per-lane form: what fails keeps the other lanes' results (11 R237). -/
def eLanes (f : Nat → EM α) : List Nat → State → List (Nat × α) → List (Nat × Nat × Nat × PFault) →
    Except Nat (State × List (Nat × α) × List (Nat × Nat × Nat × PFault))
  | [], s, vs, bad => .ok (s, vs, bad)
  | i :: is_, s, vs, bad =>
    match f i s with
    | .ok (v, s') => eLanes f is_ s' (vs ++ [(i, v)]) bad
    | .error (.page k a p) => eLanes f is_ s vs (bad ++ [(i, k, a, p)])
    | .error (.malf a) => .error a

/-- The outcome of lanes with what each failed, and the bytes that they would touch (17 R356), as far as memory says which. -/
def eFault (s : State) (done : Mask) (bad : List (Nat × Nat × Nat × PFault)) (whole : Bool) (foot : List (Nat × Nat × Nat)) : Eff :=
  .fault s done (bad.map (fun (i, _, a, p) => (i, a, p))) ⟨(bad.head?.map (fun (_, k, _, _) => k)).getD 0, 0, 0⟩
    (foot ++ bad.map (fun (i, _, a, _) => (i, a, 1))) whole

/-- What a sequence of reads answers, if they all succeed: where a form's further accesses lie. -/
def eAsk (f : EM (List (Nat × Nat))) (s : State) : List (Nat × Nat) :=
  match f s with
  | .ok (l, _) => l
  | .error _ => []

/-- The bytes of a column list, and of the component descriptor read with it. -/
def colSpans (x : World) (t comp : Nat) (s : State) : List (Nat × Nat) :=
  (x.tabbase + 64 * t, 64) :: eAsk (do
    let tb ← readDesc x t
    pure [(tb.clist, 16 * tb.ncol), (x.compbase + 8 * comp, 8)]) s

/-- HRES for a lane: the directory entry, and under ADDR the table's descriptor and column (11 R241). -/
def hresSpans (x : World) (loc : Bool) (handle comp : Nat) (s : State) : List (Nat × Nat) :=
  if ehWorld handle ≠ x.wid ∨ ehIndex handle ≥ x.dircap then []
  else (x.dirbase + 16 * ehIndex handle, 16) ::
    (if loc then []
     else
      match resolveHandle x handle s with
      | .ok (some e, _) => colSpans x e.table comp s
      | _ => [])

/-- ESTAT for a lane: its log entry (11 R244). -/
def estatSpans (x : World) (chg : Nat) : List (Nat × Nat) := [(x.logbase + 8 * (chg % x.logcap), 8)]

/-- The queue entry, or the log entry when the queue is full, that the j-th of the lanes still to come would write, and what an ECRT reads
and writes for its index (11 R234, R238 to R240). -/
def changeSpans (x : World) (create : Bool) (j : Nat) (s : State) : List (Nat × Nat) :=
  eAsk (do
    let n ← x.get oCqcnt
    let chg ← x.get oChgseq
    if n + j < x.cqcap then pure [(x.cqbase + 32 * (n + j), 32)] else pure (estatSpans x (chg + j))) s
  ++ (if create then eAsk (do
    let top ← x.get oFreetop
    let next ← x.get oNextidx
    if j < top then pure [(x.freebase + 4 * (top - 1 - j), 4)] else pure [(x.dirbase + 16 * (next + (j - top)), 16)]) s
  ++ eAsk (do
    let top ← x.get oFreetop
    if j < top then
      let i ← x.entry (x.freebase + 4 * (top - 1 - j)) 4
      pure [(x.dirbase + 16 * i, 16)]
    else pure []) s else [])

/-- The world record of the launch (11 R229). -/
def worldAddr (s : State) (w : Wick) : Nat := ((s.launchOf w).map (fun l => l.fld 640 64)).getD 0

/-- Checks 1 of 11 R237, then the world's record; lanes is the mask a failure names. -/
def withWorld (s : State) (w : Wick) (cx : Cx) (lanes : Mask) (go : State → World → Eff) : Eff :=
  if cx.act = 0 then .next s
  else if worldAddr s w = 0 then .trap { cause := 0x1B, mask := lanes }
  else
    match readWorld ⟨w.info.ctx, cx.sl, w.info.pkt⟩ (worldAddr s w) s with
    | .error (.malf a) => .trap { cause := 0x13, val := BitVec.ofNat 64 a }
    | .error (.page k a p) =>
      if lanes = 0 then eFault s 0 [(0, k, a, p)] true [(0, worldAddr s w, 256)]
      else eFault s 0 ((lanesOf lanes).map (fun i => (i, k, a, p))) false ((lanesOf lanes).map (fun i => (i, worldAddr s w, 256)))
    | .ok (x, s') => go s' x

/-- A form that acts once: its scalar result. It reads the world's record and these bytes, and waits behind logged ones (17 R356). -/
def entityOnce (w : Wick) (cx : Cx) (o : OpX) (s : State) (x : World) (spans : List (Nat × Nat)) (f : EM Nat) : Eff :=
  if !cx.sl && w.touchesLog ((x.base, 256) :: spans) then .wait 12
  else
  match f s with
  | .error (.malf a) => .trap { cause := 0x13, val := BitVec.ofNat 64 a }
  | .error (.page k a p) => eFault s 0 [(0, k, a, p)] true (((x.base, 256) :: spans).map (fun (a, n) => (0, a, n)))
  | .ok (v, s') => .next (s'.putWick (w.wrS cx.f o.d.toNat (BitVec.ofNat 64 v)))

/-- The active lanes whose operand is not below a limit (11 R237, check 2). -/
def laneOver (w : Wick) (cx : Cx) (r : BitVec 8) (limit : Nat) : Mask :=
  maskOf (fun i => cx.act.getLsbD i && decide (((w.rdV r.toNat).lane i).toNat % 2 ^ 16 ≥ limit))

/-- A per-lane form with n result registers from D; the values of a lane are the registers' lanes. A lane reads the world's record and the
bytes that spans gives for it, the j-th of those that act; it waits behind logged ones (17 R356). -/
def entityLanes (w : Wick) (cx : Cx) (o : OpX) (n : Nat) (s : State) (x : World) (spans : Nat → Nat → State → List (Nat × Nat))
    (f : Nat → EM (List Nat)) (more : Wick → Mask → List (Nat × List Nat) → Wick) : Eff :=
  let foot (s : State) (ls : List Nat) : List (Nat × Nat × Nat) :=
    ls.zipIdx.flatMap (fun (i, j) => ((x.base, 256) :: spans i j s).map (fun (a, n) => (i, a, n)))
  if !cx.sl && w.touchesLog ((foot s (lanesOf cx.act)).map Prod.snd) then .wait 12
  else
  match eLanes f (lanesOf cx.act) s [] [] with
  | .error a => .trap { cause := 0x13, val := BitVec.ofNat 64 a }
  | .ok (s', vs, bad) =>
    let done := maskOf (fun i => vs.any (fun (j, _) => j == i))
    let val (i k : Nat) : Lane := BitVec.ofNat 32 (((vs.find? (fun (j, _) => j == i)).bind (fun (_, l) => l[k]?)).getD 0)
    let w1 := (List.range n).foldl (fun (w : Wick) k => w.wrV cx.live done (o.d.toNat + k) (VReg.ofLanes (fun i => val i k))) w
    let s2 := s'.putWick (more w1 done vs)
    if bad.isEmpty then .next s2 else eFault s2 done bad false (foot s2 (bad.map (fun (i, _) => i)))

/-- A narrow destination of a G result is a shape fault (02 R55). -/
def narrowDest (cx : Cx) (d n : Nat) : Bool := cx.act != 0 && (List.range n).any (fun k => narrow (d + k))

/-- The change a lane queues. -/
def laneChange (s : State) (w : Wick) (kind lane chg handle arg : Nat) : Change :=
  let o := w.info.originOf lane
  { kind := kind, order := ((s.launchOf w).map (fun l => l.fld 16 16)).getD 0, rank := o.rank, lane := o.lane,
    iseq := w.books.iseq.toNat, chg := chg, handle := handle, arg := arg, lseq := w.info.lseq.toNat }

/-- ISEQ counts a change instruction (11 R239). -/
def Wick.countChange (w : Wick) : Wick := { w with books := { w.books with iseq := w.books.iseq + 1 } }

/-- The handle of lane i in the pair at r. -/
def laneHandle (w : Wick) (r : BitVec 8) (i : Nat) : Nat := rdLane w .i64 r.toNat i

def ecrtBody (s : State) (w : Wick) (cx : Cx) (o : OpX) : Eff :=
  if narrowDest cx o.d.toNat 3 then .trap { cause := 0x07 }
  else
    withWorld s w cx cx.act (fun s1 x =>
      let bad := laneOver w cx o.a x.ntab
      if bad ≠ 0 then .trap { cause := 0x1B, mask := bad }
      else
        entityLanes w cx o 3 s1 x (fun _ j s => changeSpans x true j s) (fun i => do
          let t := ((w.rdV o.a.toNat).lane i).toNat % 2 ^ 16
          let (h, chg) ← createLane x (fun chg h => laneChange s w 0 i chg h t)
          pure [h % 2 ^ 32, h / 2 ^ 32, chg]) (fun w _ _ => w.countChange))

def execEcrt (h : Hdr) (o : OpX) (s : State) : Host.Outcome State Fault Refusal := wickStep (.ecrt h o) s (fun s w cx => ecrtBody s w cx o)

/-- EDEL (1), EADD (2) and EREM (3). -/
def changeBody (s : State) (w : Wick) (cx : Cx) (o : OpX) (kind : Nat) : Eff :=
  if narrowDest cx o.d.toNat 1 then .trap { cause := 0x07 }
  else
    withWorld s w cx cx.act (fun s1 x =>
      let bad := if kind = 1 then 0 else laneOver w cx o.b x.ncomp
      if bad ≠ 0 then .trap { cause := 0x1B, mask := bad }
      else
        entityLanes w cx o 1 s1 x (fun _ j s => changeSpans x false j s) (fun i => do
          let arg := if kind = 1 then 0 else ((w.rdV o.b.toNat).lane i).toNat % 2 ^ 16
          let chg ← changeLane x (fun chg => laneChange s w kind i chg (laneHandle w o.a i) arg)
          pure [chg]) (fun w _ _ => w.countChange))

def execEdel (h : Hdr) (o : OpX) (s : State) : Host.Outcome State Fault Refusal := wickStep (.edel h o) s (fun s w cx => changeBody s w cx o 1)
def execEadd (h : Hdr) (o : OpX) (s : State) : Host.Outcome State Fault Refusal := wickStep (.eadd h o) s (fun s w cx => changeBody s w cx o 2)
def execErem (h : Hdr) (o : OpX) (s : State) : Host.Outcome State Fault Refusal := wickStep (.erem h o) s (fun s w cx => changeBody s w cx o 3)

/-- HRES for a lane (11 R241): the result pair and whether the handle resolved. -/
def hresLane (x : World) (loc : Bool) (handle comp : Nat) : EM (List Nat) := do
  match ← resolveHandle x handle with
  | none => pure [0, 0, 0]
  | some e =>
    if loc then pure [e.table, e.row, 1]
    else
      match ← findCol x e.table comp with
      | none => pure [0, 0, 0]
      | some c => let a := (c.base + e.row * 2 ^ c.lesz) % 2 ^ 64; pure [a % 2 ^ 32, a / 2 ^ 32, 1]

def hresBody (s : State) (w : Wick) (cx : Cx) (h : Hdr) (o : OpX) : Eff :=
  let loc := h.sub == 1
  if narrowDest cx o.d.toNat 2 then .trap { cause := 0x07 }
  else
    withWorld s w cx cx.act (fun s1 x =>
      let bad := if loc then 0 else laneOver w cx o.b x.ncomp
      if bad ≠ 0 then .trap { cause := 0x1B, mask := bad }
      else
        let comp (i : Nat) : Nat := ((w.rdV o.b.toNat).lane i).toNat % 2 ^ 16
        entityLanes w cx o 2 s1 x (fun i _ s => hresSpans x loc (laneHandle w o.a i) (comp i) s)
          (fun i => hresLane x loc (laneHandle w o.a i) (comp i))
          (fun w done vs => w.wrP (o.c.toNat % 16) done (maskOf (fun i => vs.any (fun (j, l) => j == i && l[2]? == some 1)))))

def execHres (h : Hdr) (o : OpX) (s : State) : Host.Outcome State Fault Refusal := wickStep (.hres h o) s (fun s w cx => hresBody s w cx h o)

/-- ESTAT (11 R244); a log entry whose reserved field is not zero is malformed (00 R12). -/
def estatLane (x : World) (chg : Nat) : EM (List Nat) := do
  let a := x.logbase + 8 * (chg % x.logcap)
  let e ← eRd x.acc a 8
  if fld e 35 5 ≠ 0 then eMalf a else pure [if fld e 0 32 = chg then fld e 32 3 + at_ (fld e 40 8) 8 + at_ (fld e 48 16) 16 else 0]

def estatBody (s : State) (w : Wick) (cx : Cx) (o : OpX) : Eff :=
  if narrowDest cx o.d.toNat 1 then .trap { cause := 0x07 }
  else
    withWorld s w cx cx.act (fun s1 x =>
      let chg (i : Nat) : Nat := ((w.rdV o.a.toNat).lane i).toNat
      entityLanes w cx o 1 s1 x (fun i _ _ => estatSpans x (chg i)) (fun i => estatLane x (chg i)) (fun w _ _ => w))

def execEstat (h : Hdr) (o : OpX) (s : State) : Host.Outcome State Fault Refusal := wickStep (.estat h o) s (fun s w cx => estatBody s w cx o)

/-- ECOL (11 R242). -/
def ecolBody (s : State) (w : Wick) (cx : Cx) (h : Hdr) (o : OpX) : Eff :=
  let t := (w.rdS cx.f o.a.toNat).toNat % 2 ^ 16
  let c := (w.rdS cx.f o.b.toNat).toNat % 2 ^ 16
  withWorld s w cx 0 (fun s1 x =>
    if t ≥ x.ntab ∨ (h.sub = 0 ∧ c ≥ x.ncomp) then .trap { cause := 0x1B }
    else
      entityOnce w cx o s1 x (if h.sub = 0 then colSpans x t c s1 else [(x.tabbase + 64 * t, 64)]) (do
        if h.sub = 0 then
          let k ← findCol x t c
          pure ((k.map Column.base).getD 0)
        else
          let tb ← readDesc x t
          pure (if h.sub = 1 then tb.hbase else tb.lbase)))

def execEcol (h : Hdr) (o : OpX) (s : State) : Host.Outcome State Fault Refusal := wickStep (.ecol h o) s (fun s w cx => ecolBody s w cx h o)

/-- ECNT (11 R242). -/
def ecntBody (s : State) (w : Wick) (cx : Cx) (h : Hdr) (o : OpX) : Eff :=
  let t := (w.rdS cx.f o.a.toNat).toNat % 2 ^ 16
  withWorld s w cx 0 (fun s1 x =>
    if h.sub ≠ 3 ∧ t ≥ x.ntab then .trap { cause := 0x1B }
    else
      entityOnce w cx o s1 x (if h.sub = 3 then [] else [(x.tabbase + 64 * t, 64)]) (do
        if h.sub = 3 then x.get oSyncno
        else
          let tb ← readDesc x t
          match h.sub.toNat with
          | 0 => tb.live x
          | 1 => tb.rows x
          | _ => pure tb.cap))

def execEcnt (h : Hdr) (o : OpX) (s : State) : Host.Outcome State Fault Refusal := wickStep (.ecnt h o) s (fun s w cx => ecntBody s w cx h o)

/-! ### Queries (11 R243, R249) -/

/-- A query record: required and excluded components. -/
structure Query where
  req : List Nat
  exc : List Nat
  deriving DecidableEq, Repr

def readQuery (x : World) (a : Nat) : EM Query := do
  let r ← eRd x.acc a 32
  let nreq := fld r 192 4
  let nexc := fld r 196 3
  let req := elems 16 8 r
  let exc := elems 16 4 (r >>> 128)
  let ok := fld r 199 57 == 0 && decide (nreq ≤ 8) && decide (nexc ≤ 4) && (req.drop nreq).all (· == 0) && (exc.drop nexc).all (· == 0)
    && ((req.take nreq) ++ (exc.take nexc)).all (fun c => decide (c < x.ncomp))
  if !ok then eMalf a else pure ⟨req.take nreq, exc.take nexc⟩

/-- A component set has every REQ and no EXC. -/
def Query.finds (q : Query) (set : List Nat) : Bool := q.req.all (fun c => set.contains c) && q.exc.all (fun c => !set.contains c)

/-- EQRY: the first table from lo on; B is where the search begins, not a table operand. -/
def queryFrom (x : World) (q : Query) (lo : Nat) : EM Nat := do
  let r ← eFind (fun t => do
    let set ← tableSet x t
    pure (if q.finds set then some t else none)) ((List.range (x.ntab - lo)).map (· + lo))
  pure (r.getD 0xFFFFFFFF)

/-- The descriptors and column lists that an EQRY reads (17 R356). -/
def querySpans (x : World) (a lo : Nat) (s : State) : List (Nat × Nat) :=
  let last := match (do let q ← readQuery x a; queryFrom x q lo : EM Nat) s with
    | .ok (t, _) => min (t + 1) x.ntab
    | .error _ => x.ntab
  ((List.range (last - lo)).map (· + lo)).flatMap (fun t => (x.tabbase + 64 * t, 64) :: eAsk (do
    let tb ← readDesc x t
    pure [(tb.clist, 16 * tb.ncol)]) s)

def eqryBody (s : State) (w : Wick) (cx : Cx) (o : OpX) : Eff :=
  let a := (w.rdS cx.f o.a.toNat).toNat
  withWorld s w cx 0 (fun s1 x =>
    if a % 8 ≠ 0 then .trap { cause := 0x12, val := BitVec.ofNat 64 a }
    else if a + 32 > 2 ^ 57 then .trap { cause := 0x10, val := BitVec.ofNat 64 a }
    else
      let lo := (w.rdS cx.f o.b.toNat).toNat % 2 ^ 32
      entityOnce w cx o s1 x ((a, 32) :: querySpans x a lo s1) (do
        let q ← readQuery x a
        queryFrom x q lo))

def execEqry (h : Hdr) (o : OpX) (s : State) : Host.Outcome State Fault Refusal := wickStep (.eqry h o) s (fun s w cx => eqryBody s w cx o)

/-- The tables of a query launch, taken when it starts (11 R249). -/
def queryTables (acc : EAcc) (world krec : Nat) : EM (List QueryTable) := do
  let x ← readWorld acc world
  let q ← readQuery x krec
  let ts ← (List.range x.ntab).mapM (fun t => do
    let set ← tableSet x t
    pure (if q.finds set then [({ table := t } : QueryTable)] else []))
  pure ts.flatten

/-- The snapshot of a block and the addresses of the required columns there. -/
def blockOf (x : World) (krec table b : Nat) : EM (Nat × List (Nat × Nat)) := do
  let q ← readQuery x krec
  let t ← readDesc x table
  let v ← eRd x.acc (t.lbase + 4 * b) 4
  let cols ← q.req.mapM (fun c => do
    match ← findCol x table c with
    | some k => pure (k.base + 32 * b * 2 ^ k.lesz, 2 ^ k.lesz)
    | none => pure (0, 0))
  pure (v, cols)

/-- What a wick of a query launch starts with (01 R38, 11 R249). -/
def queryStart (p : Packet) (l : Launch) (table b snap : Nat) (cols : List (Nat × Nat)) : Start :=
  { launchStart p l l.nextRank .query (BitVec.ofNat 64 (l.fld 128 64)) with
    mask := BitVec.ofNat 32 snap
    sregs := [(0, BitVec.ofNat 64 table), (1, BitVec.ofNat 64 (32 * b)), (2, BitVec.ofNat 64 (popN 32 snap))]
    vregs := (cols.zipIdx).map (fun (c, j) => (128 + j, .a (BitVec.ofNat 32 c.1) (BitVec.ofNat 32 c.2)))
      ++ [(136, .a (BitVec.ofNat 32 (32 * b)) 1)] }

/-- The launch of a packet changed. -/
def State.modLaunch (s : State) (pkt : Nat) (f : Launch → Launch) : State :=
  s.modPacket pkt (fun p => { p with launch := p.launch.map f })

/-- The next of a query launch's tables, with the block due next plus one. -/
def Launch.dueTable (l : Launch) : Option QueryTable := (l.query.getD []).find? (fun q => q.next != some 0)

def setDue (l : Launch) (table n : Nat) : Launch :=
  { l with query := l.query.map (fun qs => modFirst (fun q => q.table == table) (fun q => { q with next := some n }) qs) }

/-- The next block of a query launch is dispatched; nothing happens while a wick has no room. -/
def dispatchBlock (s : State) (p : Packet) (l : Launch) (q : QueryTable) : State :=
  let acc : EAcc := ⟨p.ctx, true, p.id⟩
  let stop (e : EErr) : State := match e with
    | .page k a f => onStop s p.ctx (packetWork p.id 1) k a (fun s => storeFault s p.ctx p.die k a f)
    | .malf _ => s.modPacket p.id (fun p => { p with status := 1, cancelled := true })
  match q.next with
  | none =>
    match (do let x ← readWorld acc (l.fld 640 64); let t ← readDesc x q.table; t.rows x) s with
    | .error e => stop e
    | .ok (rows, s1) => s1.modLaunch p.id (fun l => setDue l q.table (if rows = 0 then 0 else (rows - 1) / 32 + 1))
  | some n =>
    match (do let x ← readWorld acc (l.fld 640 64); blockOf x (l.fld 704 64) q.table (n - 1)) s with
    | .error e => stop e
    | .ok ((snap, cols), s1) =>
      if snap = 0 then s1.modLaunch p.id (fun l => setDue l q.table (n - 1))
      else
        let st := queryStart p l q.table (n - 1) snap cols
        match startAlone s1 st (s1.openCores p.ctx st.ng) with
        | none => s
        | some s2 => s2.modLaunch p.id (fun l => { setDue l q.table (n - 1) with nextRank := l.nextRank + 1 })

def queryDispatch (s : State) (pkt : Nat) : State :=
  match s.findPacket pkt with
  | none => s
  | some p =>
    match p.launch with
    | none => s
    | some l =>
      if !p.started || p.cancelled || s.heldBack p || s.isStopped p.ctx (packetWork p.id 1) then s
      else
        match l.dueTable with
        | some q => dispatchBlock s p l q
        | none => s

def execEvQueryBlockDispatch (pkt : Nat) (s : State) : Host.Outcome State Fault Refusal := .next (queryDispatch s pkt)

/-! ### The application phase (11 R245 to R248) -/

/-- The order of changes (11 R246), as one number. -/
def Change.key (c : Change) : Nat := c.iseq + at_ c.lane 16 + at_ c.rank 24 + at_ c.lseq 48 + at_ c.order 80

/-- A change put in its place. -/
def insertChange (c : Change) : List Change → List Change
  | [] => [c]
  | d :: ds => if c.key < d.key then c :: d :: ds else d :: insertChange c ds

def sortChanges (l : List Change) : List Change := l.foldl (fun acc c => insertChange c acc) []

/-- The queue in application order. -/
def readQueue (x : World) : EM (List Change) := do
  let n ← x.get oCqcnt
  let es ← (List.range n).mapM (readChange x)
  pure (sortChanges es)

/-- The lowest table with exactly this component set that has room: none there at all, or none with room (11 R247, R248). -/
def targetTable (x : World) (set : List Nat) : EM (Bool × Option (Table × Nat)) := do
  let rec go (found : Bool) : List Nat → EM (Bool × Option (Table × Nat))
    | [] => pure (found, none)
    | t :: ts => do
      let tb ← readTable x t
      if tb.cols.map Column.comp = set then
        match ← freeRow x tb with
        | some r => pure (true, some (tb, r))
        | none => go true ts
      else go found ts
  go false (List.range x.ntab)

/-- A component put in its place. -/
def insertComp (c : Nat) : List Nat → List Nat
  | [] => [c]
  | d :: ds => if c < d then c :: d :: ds else d :: insertComp c ds

/-- An add or a remove of an entity in table t at row r (11 R247). -/
def moveEntity (x : World) (c : Change) (e : DirEntry) : EM Unit := do
  let t ← readTable x e.table
  let comps := t.cols.map Column.comp
  let has := comps.contains c.arg
  if c.kind = 2 ∧ has then writeLog x c.chg 4 6
  else if c.kind ≠ 2 ∧ !has then writeLog x c.chg 3 5
  else
    match ← targetTable x (if c.kind = 2 then insertComp c.arg comps else comps.filter (· != c.arg)) with
    | (false, _) => writeLog x c.chg 3 7
    | (true, none) => writeLog x c.chg 5 8
    | (true, some (tb, r)) =>
      let hd ← eRd x.acc (t.hbase + 8 * e.row) 8
      placeRow x tb r hd (some (t, e.row))
      dropRow x t e.row
      writeDir x (ehIndex c.handle) { e with table := tb.num, row := r }
      writeLog x c.chg 1 0

/-- One change (11 R247): the handles made and those that were LIVE at the start and are now deleted. -/
def applyChange (x : World) (c : Change) (made dead : List Nat) : EM (List Nat × List Nat) := do
  let i := ehIndex c.handle
  if c.kind = 0 then
    let t ← readTable x c.arg
    match ← freeRow x t with
    | none => freeIndex x i; writeLog x c.chg 5 8; pure (made, dead)
    | some r =>
      placeRow x t r c.handle none
      let e ← readDir x i
      writeDir x i { e with state := 2, table := c.arg, row := r }
      writeLog x c.chg 1 0
      pure (c.handle :: made, dead)
  else if ehWorld c.handle ≠ x.wid ∨ i ≥ x.dircap then writeLog x c.chg 2 1; pure (made, dead)
  else if dead.contains c.handle then (if c.kind = 1 then writeLog x c.chg 4 4 else writeLog x c.chg 2 4); pure (made, dead)
  else
    let e ← readDir x i
    if e.gen ≠ ehGen c.handle then writeLog x c.chg 2 2; pure (made, dead)
    else if e.state ≠ 2 then writeLog x c.chg 2 3; pure (made, dead)
    else if c.kind = 1 then
      let t ← readTable x e.table
      dropRow x t e.row
      freeIndex x i
      writeLog x c.chg 1 0
      pure (made, if made.contains c.handle then dead else c.handle :: dead)
    else
      moveEntity x c e
      pure (made, dead)

/-- The records of a world a sync needs, read before anything is applied: a malformed one ends it (11 R231). -/
def checkWorld (acc : EAcc) (base : Nat) : EM Unit := do
  let x ← readWorld acc base
  (List.range x.ntab).forM (fun t => do let _ ← readTable x t; pure ())

/-- Those and the records its changes need: the queue's entries and the directory entries they name. -/
def checkSync (acc : EAcc) (base : Nat) : EM Unit := do
  checkWorld acc base
  let x ← readWorld acc base
  let q ← readQueue x
  q.forM (fun c => if ehIndex c.handle < x.dircap then do let _ ← readDir x (ehIndex c.handle); pure () else pure ())

/-- The end of application: the queue is empty, SYNCNO counts, and compaction begins (11 R245). -/
def endApplication (x : World) : EM Unit := do
  x.set oCqcnt 0
  let n ← x.get oSyncno
  x.set oSyncno ((n + 1) % 2 ^ 32)
  x.set oCompact 1

/-! ### The moves of compaction (11 R250) -/

/-- The next pair of a table: the lowest hole below the highest live row. -/
def nextMove (x : World) (t : Table) : EM (Option (Nat × Nat)) := do
  let rows ← t.rows x
  match ← lowestHole x t rows, ← highestLive x t rows with
  | some h, some k => pure (if h < k then some (h, k) else none)
  | _, _ => pure none

/-- The next table from this one on that has a move; the tables passed get ROWS := LIVE. -/
def findMove (x : World) : List Nat → EM (Option (Table × Nat × Nat))
  | [] => pure none
  | t :: ts => do
    let tb ← readTable x t
    match ← nextMove x tb with
    | some (h, k) => pure (some (tb, h, k))
    | none =>
      let n ← tb.live x
      tb.setRows x n
      findMove x ts

/-- A move (11 R250). -/
def moveRow (x : World) (t : Table) (h k : Nat) : EM Unit := do
  fillCols x h (some (t, k)) t.cols
  let hd ← eRd x.acc (t.hbase + 8 * k) 8
  eSt x.acc (t.hbase + 8 * h) 8 hd
  setLiveBit x t h true
  let e ← readDir x (ehIndex hd)
  writeDir x (ehIndex hd) { e with row := h }
  setLiveBit x t k false

/-! ### What a sync needs -/

/-- Every move of the compaction, at most n of them. -/
def allMoves (x : World) : Nat → EM Unit
  | 0 => pure ()
  | n + 1 => do
    match ← findMove x (List.range x.ntab) with
    | none => pure ()
    | some (t, h, k) =>
      moveRow x t h k
      allMoves x n

/-- The whole of both phases, to meet every record that they read; a table has as many moves as live rows at most. -/
def rehearse (acc : EAcc) (base : Nat) : EM Unit := do
  let x ← readWorld acc base
  let q ← readQueue x
  let _ ← q.foldlM (fun (made, dead) c => applyChange x c made dead) ([], [])
  endApplication x
  let live ← (List.range x.ntab).mapM (fun t => do let tb ← readDesc x t; tb.live x)
  allMoves x live.sum

/-- What is checked before anything is applied: a sync that reads a malformed record, in whichever phase, has no effect (00 R12, 11 R231).
What the phases read later than the first records is looked at as memory stands; while memory holds poison that is left to the phases, whose
reads of it are errors of their own (20 R402, log 136). -/
def syncCheck (acc : EAcc) (base : Nat) : EM Unit := fun s =>
  match checkSync acc base s with
  | .error e => .error e
  | .ok r =>
    match (if s.poison.isEmpty then rehearse acc base s else .ok ((), s)) with
    | .error (.malf a) => .error (.malf a)
    | _ => .ok r

/-- A launch names this world. -/
def Packet.namesWorld (p : Packet) (ctx base : Nat) : Bool :=
  p.ctx == ctx && (match p.launch with
    | some l => l.fld 640 64 == base
    | none => false)

/-- Another sync of the world is in its compaction, or comes before this one. -/
def State.syncBefore (s : State) (p : Packet) (base : Nat) : Bool :=
  s.packets.any (fun q => decide (q.id < p.id) && q.ctx == p.ctx && !q.ended && (match q.sync with
    | some y => y.world == base
    | none => false))

/-- The conditions of 11 R245 on the start of application. -/
def syncReady (s : State) (p : Packet) (y : Sync) : Bool :=
  p.started && !s.syncBefore p y.world && s.packets.all (fun q => !(decide (q.id < p.id) && q.namesWorld p.ctx y.world))

/-- A packet's sync changed. -/
def State.putSync (s : State) (pkt : Nat) (y : Sync) : State := s.modPacket pkt (fun p => { p with sync := some y })

/-- A page that fails stops the engine (17 R423); a malformed record ends the packet (11 R231). -/
def syncStop (s : State) (p : Packet) (e : EErr) : State :=
  match e with
  | .page k a f => onStop s p.ctx (packetWork p.id 0) k a (fun s => storeFault s p.ctx p.die k a f)
  | .malf _ => s.modPacket p.id (fun p => { p with status := 1, ended := true })

/-- The application: first what it needs is checked, then each step applies one change, and after the last the phase ends (11 R245, R246). -/
def applicationPhase (s : State) (pkt : Nat) : State :=
  match s.findPacket pkt with
  | none => s
  | some p =>
    match p.sync with
    | none => s
    | some y =>
      let acc : EAcc := ⟨p.ctx, true, p.id⟩
      if p.ended || y.stuck || s.isStopped p.ctx (packetWork p.id 0) || y.phase ≥ 2 || !syncReady s p y || s.partStopped p.part then s
      else
        match (if y.phase = 0 then syncCheck acc y.world s else .ok ((), s)) with
        | .error e => syncStop s p e
        | .ok (_, s1) =>
          match (do let x ← readWorld acc y.world; let q ← readQueue x; pure (x, q)) s1 with
          | .error e => syncStop s1 p e
          | .ok ((x, q), s2) =>
            match q.drop y.applied with
            | c :: _ =>
              (match applyChange x c y.made y.dead s2 with
               | .error e => syncStop (s2.putSync pkt { y with phase := 1 }) p e
               | .ok ((made, dead), s3) => s3.putSync pkt { y with phase := 1, applied := y.applied + 1, made := made, dead := dead })
            | [] =>
              match endApplication x s2 with
              | .error e => syncStop (s2.putSync pkt { y with phase := 1 }) p e
              | .ok (_, s3) => s3.putSync pkt { y with phase := 2, table := 0 }

def execEvApplicationPhase (pkt : Nat) (s : State) : Host.Outcome State Fault Refusal := .next (applicationPhase s pkt)

/-! ### Compaction (11 R250, R251) -/

/-- 11 R251 for one launch that holds a read lease: k's block has been dispatched to it, or h's has not. -/
def leaseAllows (l : Launch) (table h k : Nat) : Bool :=
  match (l.query.getD []).find? (fun q => q.table == table) with
  | some q =>
    (match q.next with
     | some n => decide (k / 32 ≥ n) || decide (h / 32 < n)
     | none => true)
  | none => true

/-- 11 R251: every lease allows the move. -/
def moveAllowed (s : State) (ctx base table h k : Nat) : Bool :=
  s.packets.all (fun q => match q.launch with
    | some l => !(q.namesWorld ctx base && l.record.testBit 5) || leaseAllows l table h k
    | none => true)

/-- One move, made once every lease allows it; without one the phase ends. -/
def compactionMove (s : State) (pkt : Nat) : State :=
  match s.findPacket pkt with
  | none => s
  | some p =>
    match p.sync with
    | none => s
    | some y =>
      if p.ended || y.stuck || s.isStopped p.ctx (packetWork p.id 0) || y.phase ≠ 2 || s.partStopped p.part then s
      else
        match (do
          let x ← readWorld ⟨p.ctx, true, p.id⟩ y.world
          let m ← findMove x ((List.range (x.ntab - y.table)).map (· + y.table))
          pure (x, m)) s with
        | .error e => syncStop s p e
        | .ok ((x, some (t, h, k)), s1) =>
          let s2 := s1.putSync pkt { y with table := t.num }
          if !moveAllowed s2 p.ctx y.world t.num h k then s2
          else
            match moveRow x t h k s2 with
            | .error e => syncStop s2 p e
            | .ok (_, s3) => s3
        | .ok ((x, none), s1) =>
          match x.set oCompact 0 s1 with
          | .error e => syncStop s1 p e
          | .ok (_, s2) => s2.modPacket pkt (fun p => { p with sync := some { y with phase := 3 }, ended := true })

def execEvCompactionMove (pkt : Nat) (s : State) : Host.Outcome State Fault Refusal := .next (compactionMove s pkt)

end Sys2Proof.Machine
end

