-- ==== Sys2Proof/Machine/Closure.lean ====
section
/-! DEFINITION. The closure forms (spec/13_closures_interrupts_services.md R258 to R268). -/

namespace Sys2Proof.Machine

/-! ### Lanes that leave (14 R299) -/

/-- Lanes of the issuing fragment leave their wick; the others go on at the sequential successor. -/
def leaveLanes (s : State) (w : Wick) (cx : Cx) (i : Instr) (lanes : Mask) : Eff :=
  let w1 := ((w.popPorts i).setPc cx (pcNext cx.pc)).modFrag cx.f (fun g => { g with lru := s.now })
  .stay (s.putWick (w1.retire cx.f lanes))

/-- 14 R299: NG is at least 24 and no set bit of the live mask names v(NG) or above. -/
def liveMaskOk (w : Wick) (imm : BitVec 32) : Bool :=
  decide (24 ≤ w.info.ng) && (List.range 16).all (fun j => !imm.getLsbD j || decide (j < w.info.ng))

/-! ### Capture (13 R259, R263) -/

/-- The slots a captured vector takes: one for U and A, BASE low and STRIDE high (02 R52), 16 for G with lane 0 first. -/
def VReg.slots : VReg → List Word
  | .u v => [v.setWidth 64]
  | .a b st => [st ++ b]
  | .g l => (List.range 16).map (fun j => ((l[2 * j + 1]?.getD 0) ++ (l[2 * j]?.getD 0) : BitVec 64))

/-- All the slots of an entry, in order (13 R259). -/
def EnvEntry.allSlots (x : EnvEntry) : List Word := x.slots ++ x.vecs.flatMap VReg.slots

/-- A run of registers lies in v0–v(NG−1) or in v128–v247. -/
def runOk (w : Wick) (first n : Nat) : Bool :=
  decide (first + n ≤ min w.info.ng 128) || (decide (128 ≤ first) && decide (first + n ≤ 248))

/-- The scalars SMASK names, ascending. -/
def captScalars (w : Wick) (f smask : Nat) : List Word := ((List.range 8).filter (fun j => smask.testBit j)).map (fun j => w.rdS f (32 + j))

/-- The issuing wick's private area (13 R263, 04 R90). -/
def inPrivate (w : Wick) (a : Nat) : Bool :=
  let lo := w.info.pbase.toNat + w.info.rank * 32 * w.info.psize
  decide (lo ≤ a) && decide (a < lo + 32 * w.info.psize)

/-- The target of a CAPT's IMM32, read as TGT (13 R262). -/
def captTarget (cx : Cx) (imm : BitVec 32) : Word :=
  BitVec.ofNat 64 (pcLine cx.pc) + ((imm.extractLsb' 3 29).signExtend 64) * 64 + BitVec.ofNat 64 (12 * (imm.toNat % 8))

def captBody (s : State) (w : Wick) (cx : Cx) (h : Hdr) (o : OpX) : Eff :=
  let smask := fld o.flags.toNat 0 8
  let nv := fld o.flags.toNat 8 3
  let byref := o.flags.getLsbD 11
  let vecs := (List.range nv).map (fun j => w.rdV (o.a.toNat + j))
  let addr := w.rdS cx.f o.b.toNat
  let slots := (if byref then [addr] else []) ++ captScalars w cx.f smask
  let size := 8 * (slots.length + (vecs.flatMap VReg.slots).length)
  if cx.act = 0 then .next s
  else if nv > 0 && !runOk w o.a.toNat nv then .trap { cause := 0x06 }
  else if size > 224 then .trap { cause := 0x1E }
  else if byref && !inPrivate w addr.toNat then .trap { cause := 0x1E }
  else
    let core := w.info.coreId
    match (List.range 512).find? (fun e => !(s.envAt core e).used) with
    | none =>
      if h.sub = 1 then .trap { cause := 0x1F }
      else .next (s.putWick ((w.wrK o.d.toNat 0).wrQ cx.f o.c.toNat false))
    | some e =>
      let d := (w.frag cx.f).cd
      let x : EnvEntry :=
        { core := core, entry := e, pc := captTarget cx o.imm, refcnt := 1, gen := (s.envAt core e).gen, smask := BitVec.ofNat 8 smask,
          byref := byref, ownlive := true, used := true, owner := w.info.uid, depth := d,
          fgen := if d ≥ 1 then w.regs.fgen[d - 1]?.getD 0 else 0, slots := slots, vecs := vecs }
      let hd := mkHandle e w.info.core (s.logCluster w.info.ctx w.info.cluster) x.gen.toNat
      .next ((s.putEnv x).putWick ((w.wrK o.d.toNat hd).wrQ cx.f o.c.toNat true))

def execCapt (h : Hdr) (o : OpX) (s : State) : Host.Outcome State Fault Refusal := wickStep (.capt h o) s (fun s w cx => captBody s w cx h o)

/-! ### Calls (13 R267) -/

/-- The frame a closure is called in: link, depth, KLINK, KFRAME and k15. -/
def Wick.applyFrame (w : Wick) (f link : Nat) (ret handle : Word) : Wick :=
  let d := (w.frag f).cd
  let w1 := (w.wrS f link ret).modFrag f (fun g => { g with cd := d + 1 })
  let w2 := { w1 with regs := { w1.regs with klink := w1.regs.klink.setIfInBounds d (w.rdK 15), kframe := w1.regs.kframe.setIfInBounds d true } }
  w2.wrK 15 handle

/-- APPLY (13 R267): convergence, depth, handle, references, then the target, whose failure undoes the whole. -/
def applyBody (s : State) (w : Wick) (cx : Cx) (o : OpX) : Eff :=
  let hd := w.rdK o.a.toNat
  if !wickWide w cx then .trap { cause := 0x0A }
  else if (w.frag cx.f).cd ≥ 16 then .trap { cause := 0x0B }
  else
    match s.handleFault w.info.ctx hd true with
    | some c => .trap { cause := c, val := hd }
    | none =>
      if !s.refRoom w.info.ctx hd 1 then .trap { cause := 0x1E, val := hd }
      else
        let t := (s.handleEntry w.info.ctx hd).pc
        match checkTarget s w.info.coreId w.info.ctx cx.sl t with
        | (.bad, _) => .trap { cause := 0x03, val := t }
        | (.noLine p, s') => .fetchFault s' (pcLine t) p
        | (.ok, s') => .jump ((s'.addRef w.info.ctx hd 1).putWick (w.applyFrame cx.f o.d.toNat (pcNext cx.pc) hd)) t

def execApply (h : Hdr) (o : OpX) (s : State) : Host.Outcome State Fault Refusal := wickStep (.apply h o) s (fun s w cx => applyBody s w cx o)

/-- The handle of lane i in the pair at A (13 R268). -/
def pairHandle (w : Wick) (o : OpX) (i : Nat) : Word := BitVec.ofNat 64 (rdLane w .i64 o.a.toNat i)

/-- The checks of APPLY.V on its lanes: stale before dangling (16 R326), then the references (13 R265). -/
def applyVCheck (s : State) (c : Nat) (hd : Nat → Word) (lanes : List Nat) : Option TrapInfo :=
  let same (i : Nat) : Nat := (lanes.filter (fun j => hd j == hd i)).length
  (handleTrap 0x1C hd (lanes.filter (fun i => s.handleFault c (hd i) true == some 0x1C))).orElse (fun _ =>
    (handleTrap 0x1D hd (lanes.filter (fun i => s.handleFault c (hd i) true == some 0x1D))).orElse (fun _ =>
      handleTrap 0x1E hd (lanes.filter (fun i => !s.refRoom c (hd i) (same i)))))

/-- APPLY.V (13 R268): the lanes leave as KIND 4 records, which are final at once. -/
def applyVBody (s : State) (w : Wick) (cx : Cx) (i : Instr) (o : OpX) : Eff :=
  let hd := pairHandle w o
  let lanes := lanesOf cx.act
  if cx.act = 0 then .next s
  else if !liveMaskOk w o.imm then .trap { cause := 0x06 }
  else
    match applyVCheck s w.info.ctx hd lanes with
    | some t => .trap t
    | none =>
      match s.pushConts w lanes 4 (fun _ => pcNext cx.pc) hd (o.imm.setWidth 16) with
      | none => .wait 8
      | some (s1, recs) =>
        let s2 := lanes.foldl (fun s l => s.addRef w.info.ctx (hd l) 1) s1
        let s3 := recs.foldl (fun s (_, u) => s.finalize u (Vector.replicate 4 0)) s2
        leaveLanes s3 w cx i cx.act

def execApplyV (h : Hdr) (o : OpX) (s : State) : Host.Outcome State Fault Refusal :=
  wickStep (.applyV h o) s (fun s w cx => applyVBody s w cx (.applyV h o) o)

/-! ### References (13 R264) -/

def kdupBody (s : State) (w : Wick) (cx : Cx) (o : OpX) : Eff :=
  let hd := w.rdK o.a.toNat
  if cx.act = 0 then .next s
  else if !s.handleValid w.info.ctx hd then .trap { cause := 0x1C, val := hd }
  else if !s.refRoom w.info.ctx hd 1 then .trap { cause := 0x1E, val := hd }
  else .next ((s.addRef w.info.ctx hd 1).putWick (w.wrK o.d.toNat hd))

def execKdup (h : Hdr) (o : OpX) (s : State) : Host.Outcome State Fault Refusal := wickStep (.kdup h o) s (fun s w cx => kdupBody s w cx o)

def krelBody (s : State) (w : Wick) (cx : Cx) (o : OpX) : Eff :=
  let hd := w.rdK o.a.toNat
  if cx.act = 0 ∨ hd = 0 then .next s
  else if !s.handleValid w.info.ctx hd then .trap { cause := 0x1C, val := hd }
  else .next ((s.release w.info.ctx hd).putWick (w.wrK o.a.toNat 0))

def execKrel (h : Hdr) (o : OpX) (s : State) : Host.Outcome State Fault Refusal := wickStep (.krel h o) s (fun s w cx => krelBody s w cx o)

/-- KMOV: 0 moves, 1 to a scalar, 2 from a scalar; nothing is checked or counted. -/
def kmovRun (w : Wick) (cx : Cx) (h : Hdr) (o : OpX) : Wick :=
  match h.sub.toNat with
  | 0 => if o.a = o.d then w.wrK o.a.toNat 0 else (w.wrK o.d.toNat (w.rdK o.a.toNat)).wrK o.a.toNat 0
  | 1 => w.wrS cx.f o.d.toNat (w.rdK o.a.toNat)
  | _ => w.wrK o.d.toNat (w.rdS cx.f o.a.toNat)

def execKmov (h : Hdr) (o : OpX) (s : State) : Host.Outcome State Fault Refusal :=
  wickStep (.kmov h o) s (fun s w cx => once cx s (.next (s.putWick (kmovRun w cx h o))))

/-! ### Reading the captured values (13 R266) -/

def kldBody (s : State) (w : Wick) (cx : Cx) (h : Hdr) (o : OpX) : Eff :=
  let hd := w.rdK 15
  let j := o.imm.toNat
  if cx.act = 0 then .next s
  else if !s.handleValid w.info.ctx hd then .trap { cause := 0x1C, val := hd }
  else
    let x := s.handleEntry w.info.ctx hd
    if h.sub = 0 then
      match x.allSlots[j]? with
      | some v => .next (s.putWick (w.wrS cx.f o.d.toNat v))
      | none => .trap { cause := 0x1E, val := hd }
    else
      match x.vecs[j]? with
      | some v => writeVec s w cx [(o.d.toNat, v)]
      | none => .trap { cause := 0x1E, val := hd }

def execKld (h : Hdr) (o : OpX) (s : State) : Host.Outcome State Fault Refusal := wickStep (.kld h o) s (fun s w cx => kldBody s w cx h o)

def krefBody (s : State) (w : Wick) (cx : Cx) (o : OpX) : Eff :=
  let hd := w.rdK 15
  if cx.act = 0 then .next s
  else
    match s.handleFault w.info.ctx hd true with
    | some c => .trap { cause := c, val := hd }
    | none =>
      let x := s.handleEntry w.info.ctx hd
      if !x.byref then .trap { cause := 0x1E, val := hd }
      else .next (s.putWick (w.wrS cx.f o.d.toNat (x.slots[0]?.getD 0)))

def execKref (h : Hdr) (o : OpX) (s : State) : Host.Outcome State Fault Refusal := wickStep (.kref h o) s (fun s w cx => krefBody s w cx o)

end Sys2Proof.Machine
end

