-- ==== Sys2Proof/Machine/Interrupt.lean ====
section
/-! DEFINITION. User-level interrupts (spec/13_closures_interrupts_services.md R270 to R275): the interrupt block, sends and
their merging, the interrupt forms and delivery. -/

namespace Sys2Proof.Machine

/-! ### The interrupt block (13 R270) -/

/-- The block's address, and how the Ocris accesses it (17 R423). -/
def State.uiBlock (s : State) (c : Nat) : Nat := s.ctxReg c 0x0D
def uiAcc (c : Nat) : EAcc := ⟨c, true, 0⟩

/-- A wick's own instruction accesses a block, a ring or a descriptor so: a read inside its pass of a target of that pass is a free value
(14 R297, log 105). -/
def Wick.uiAcc (w : Wick) : EAcc := ⟨w.info.ctx, true, w.info.pkt⟩

/-- A 64-bit word of a context's block. -/
def uiRd (c : EAcc) (blk off : Nat) : EM Nat := eRd c (blk + off) 8
def uiWr (c : EAcc) (blk off v : Nat) : EM Unit := eWr c (blk + off) 8 v

def oPend : Nat := 0
def oMask : Nat := 8
def oWake : Nat := 16
def oLamp : Nat := 40
def oHandler : Nat := 48
def oPerm : Nat := 56
def oInsvc : Nat := 64
def oPayload (v : Nat) : Nat := 256 + 8 * v

/-- The block's reserved fields are zero (00 R12, log 121). -/
def uiGood (c : EAcc) (blk : Nat) : EM Bool := do
  let r ← eRd c blk 1024
  pure (fld r 376 7 == 0 && fld r 513 1535 == 0 && fld r 6144 2048 == 0)

/-- A block that is not malformed (00 R12). -/
def uiCheck (c : EAcc) (blk : Nat) : EM Unit := do if ← uiGood c blk then pure () else eMalf blk

/-- The merge mode of a vector. -/
def uiMode (c : EAcc) (blk v : Nat) : EM Nat := do
  let lo ← uiRd c blk 24
  let hi ← uiRd c blk 32
  pure (fld (lo + at_ hi 64) (2 * v) 2)

/-- A permission entry matches a sender and grants a vector (13 R271); one with a nonzero reserved field matches none (log 121). -/
def permits (e : Nat) (who : Sender) (v : Nat) : Bool :=
  fld e 2 14 == 0 && e.testBit (64 + v) && (match who with
    | .ctx c => fld e 0 2 == 1 && fld e 16 16 == c
    | .host p => fld e 0 2 == 2 && fld e 32 20 == p
    | .peer n c => fld e 0 2 == 3 && fld e 52 12 == n && fld e 16 16 == c
    | .loss => false)

/-- 13 R271: some entry of the table permits the send; the notice of a lost node needs none (20 R410). -/
def permitted (c : EAcc) (blk : Nat) (who : Sender) (v : Nat) : EM Bool := do
  match who with
  | .loss => pure true
  | _ =>
    let base ← uiRd c blk oPerm
    let t ← eRd c base 1024
    pure ((elems 128 64 t).any (fun e => permits e who v))

/-- A merge woke a descheduled context: its groups' restore is raised one class (13 R275, 19 R388). -/
def State.wake (s : State) (c : Nat) : State :=
  { s with groups := s.groups.map (fun (g : Group) => if g.ctx == c then (match g.stage with
    | .descheduled _ => { g with boost := true }
    | _ => g) else g) }

/-- 13 R272: a send is refused, or merged; the second answer says whether it wakes the context. One that is not refused meets a malformed
block as such (00 R12, log 121). -/
def mergeSend (c : EAcc) (blk : Nat) (d : Send) : EM (Bool × Bool) := do
  let mode ← uiMode c blk d.vec
  if mode = 3 ∨ !(← permitted c blk d.sender d.vec) then pure (false, false)
  else
    uiCheck c blk
    let pend ← uiRd c blk oPend
    let old ← uiRd c blk (oPayload d.vec)
    let p := d.payload.toNat
    let new := if !pend.testBit d.vec then p else match mode with
      | 0 => old ||| p
      | 1 => min (old + p) (2 ^ 64 - 1)
      | _ => p
    uiWr c blk (oPayload d.vec) new
    uiWr c blk oPend (pend ||| 2 ^ d.vec)
    let wake ← uiRd c blk oWake
    let mask ← uiRd c blk oMask
    pure (true, wake.testBit d.vec && !mask.testBit d.vec)

/-- The answer to a send reaches who waits for it (13 R272, 19 R368). -/
def State.answerSend (s : State) (d : Send) (ok : Bool) : State :=
  match d.waiter with
  | .wick u f => s.modWick u (fun w => w.modWait f (fun x => { x with send := some (some ok) }))
  | .packet id => s.modPacket id (fun p => { p with ended := true, status := if ok then 0 else 7 })
  | .peer n => { s with out := { s.out with links := s.out.links ++ [.answer n ok] } }
  | .doorbell => if ok then s else { s with dies := s.dies.setIfInBounds 0 (let x := s.dies[0]; { x with uidrop := if x.uidrop = 0xFFFFFFFFFFFFFFFF then x.uidrop else x.uidrop + 1 }) }
  | .nobody => s

/-- A send met a malformed block: the UISEND takes the malformed-record trap, the packet completes with MALFORMED (00 R12), and a send from
elsewhere is refused (log 121). -/
def State.malfSend (s : State) (d : Send) (a : Nat) : State :=
  match d.waiter with
  | .wick u f => s.modWick u (fun w => w.modWait f (fun x => { x with send := some (some false), sendMalf := some (BitVec.ofNat 64 a) }))
  | .packet id => s.modPacket id (fun p => { p with ended := true, status := 1 })
  | _ => s.answerSend d false

/-- Sends of a context merged in the order they arrived, up to one whose block's page fails (13 R272, 17 R423). -/
def mergeSends (s : State) (c : Nat) : List Send → State
  | [] => s.modCtx c (fun x => { x with sends := [] })
  | d :: ds =>
    match mergeSend (uiAcc c) (s.uiBlock c) d s with
    | .ok ((ok, wakes), s1) =>
      let s2 := s1.answerSend d ok
      mergeSends (if wakes then s2.wake c else s2) c ds
    | .error (.page k a p) => ownStop (s.modCtx c (fun x => { x with sends := d :: ds })) c 1 k a p
    | .error (.malf a) => mergeSends (s.malfSend d a) c ds

/-- Sends merged, unless the block waits for a recheck (17 R423). -/
def State.merge (s : State) (c : Nat) (ds : List Send) : State :=
  if s.isStopped c 1 then s.modCtx c (fun x => { x with sends := ds }) else mergeSends s c ds

def State.flushSends (s : State) (c : Nat) : State :=
  match s.findCtx c with
  | some x => s.merge c x.sends
  | none => s

/-- A send arrives: at once refused when the context does not exist (13 R272) or its interrupt block is not installed (20 R410 names
that case; UIBLK zero is read as it, log 56). -/
def State.send (s : State) (c : Nat) (d : Send) : State :=
  match s.findCtx c with
  | none => s.answerSend d false
  | some x => if s.uiBlock c = 0 then s.answerSend d false else s.merge c (x.sends ++ [d])

/-! ### The forms (13 R273) -/

/-- Where a send goes: this device, a peer node, or refused, a lost node among them (13 R273, 20 R394, R410). -/
inductive SendTo where
  | local_ | peer (node : Nat) | refused
  deriving DecidableEq, Repr

def sendTo (s : State) (node : Nat) : SendTo :=
  if node = 0xFFF ∨ (s.cfg.job ∧ node = s.cfg.nodeId.toNat) then .local_
  else if s.cfg.job && !s.cfg.lost.getLsbD node && s.reaches node then .peer node else .refused

/-- UISEND: issued once, its fragment waits for the answer; a malformed block of its target is its trap. -/
def uisendBody (s : State) (w : Wick) (cx : Cx) (o : OpX) : Eff :=
  let a := (w.rdS cx.f o.a.toNat).toNat
  let v := (w.rdS cx.f o.b.toNat).toNat
  let answer (w : Wick) (ok : Bool) : Eff :=
    .next (s.putWick ((w.modWait cx.f (fun x => { x with send := none })).wrS cx.f o.d.toNat (if ok then 0 else 1)))
  if cx.act = 0 then .next s
  else
    match (w.frag cx.f).wait.send with
    | some (some ok) =>
      match (w.frag cx.f).wait.sendMalf with
      | some a => .stay (raiseTrap s (w.modWait cx.f (fun x => { x with send := none, sendMalf := none })) cx { cause := 0x13, val := a })
      | none => answer w ok
    | some none => .wait 14
    | none =>
      if fld a 28 36 ≠ 0 ∨ v ≥ 64 then answer w false
      else
        let w1 := w.modWait cx.f (fun x => { x with send := some none, sendNode := fld a 16 12 })
        match sendTo s (fld a 16 12) with
        | .refused => answer w false
        | .local_ => .stay ((s.putWick (w1.stalled 14)).send (fld a 0 16) ⟨.ctx w.info.ctx, v, w.rdS cx.f o.c.toNat, .wick w.info.uid cx.f⟩)
        | .peer n =>
          let s1 := s.putWick (w1.stalled 14)
          .stay { s1 with out := { s1.out with links := s1.out.links ++ [.send n w.info.ctx (fld a 0 16) v (w.rdS cx.f o.c.toNat)] } }

def execUisend (h : Hdr) (o : OpX) (s : State) : Host.Outcome State Fault Refusal := wickStep (.uisend h o) s (fun s w cx => uisendBody s w cx o)

/-- A form that reads or updates the block: its access is the instruction's, which waits behind a logged one to the same bytes (17 R356),
and a page that fails logs it whole (17 R355). -/
def uiForm (cx : Cx) (w : Wick) (s : State) (f : EM Wick) : Eff :=
  if cx.act = 0 then .next s
  else if w.touchesLog [(s.uiBlock w.info.ctx, 1024)] then .wait 12
  else
    match (do uiCheck w.uiAcc (s.uiBlock w.info.ctx); f) s with
    | .ok (w', s') => .next (s'.putWick w')
    | .error (.page k a p) => eFault s 0 [(0, k, a, p)] true [(0, s.uiBlock w.info.ctx, 1024)]
    | .error (.malf a) => .trap { cause := 0x13, val := BitVec.ofNat 64 a }

/-- UIMASK SET, OR and ANDN. -/
def uimaskRun (s : State) (w : Wick) (cx : Cx) (h : Hdr) (o : OpX) : EM Wick := do
  let blk := s.uiBlock w.info.ctx
  let x := (w.rdS cx.f o.a.toNat)
  let old ← uiRd w.uiAcc blk oMask
  let oldW := BitVec.ofNat 64 old
  let new : Word := match h.sub.toNat with
    | 0 => x
    | 1 => oldW ||| x
    | _ => oldW &&& ~~~x
  uiWr w.uiAcc blk oMask new.toNat
  pure (w.wrS cx.f o.d.toNat oldW)

def execUimask (h : Hdr) (o : OpX) (s : State) : Host.Outcome State Fault Refusal :=
  wickStep (.uimask h o) s (fun s w cx => uiForm cx w s (uimaskRun s w cx h o))

/-- The lamplighter word of a wick: LSEQ, LRANK, LVALID. -/
def lampWord (w : Wick) : Nat := w.info.lseq.toNat + at_ (w.info.rank % 2 ^ 24) 32 + at_ 1 63

/-- UIMASK CLAIM. -/
def claimRun (s : State) (w : Wick) (cx : Cx) (o : OpX) : EM Wick := do
  let blk := s.uiBlock w.info.ctx
  let old ← uiRd w.uiAcc blk oLamp
  uiWr w.uiAcc blk oLamp (lampWord w)
  pure (w.wrS cx.f o.d.toNat (BitVec.ofNat 64 old))

def execUimaskClaim (h : Hdr) (o : OpX) (s : State) : Host.Outcome State Fault Refusal :=
  wickStep (.uimaskClaim h o) s (fun s w cx => uiForm cx w s (claimRun s w cx o))

/-- The lowest vector pending and not masked. -/
def dueVector (pend mask : Nat) : Option Nat := (List.range 64).find? (fun v => pend.testBit v && !mask.testBit v)

/-- UIPEND.TAKE. -/
def takeRun (s : State) (w : Wick) (cx : Cx) (o : OpX) : EM Wick := do
  let blk := s.uiBlock w.info.ctx
  let pend ← uiRd w.uiAcc blk oPend
  let mask ← uiRd w.uiAcc blk oMask
  match dueVector pend mask with
  | none => pure ((w.wrS cx.f o.d.toNat 0xFFFFFFFFFFFFFFFF).wrS cx.f o.b.toNat 0)
  | some v =>
    let p ← uiRd w.uiAcc blk (oPayload v)
    uiWr w.uiAcc blk oPend (setFld pend v 1 0)
    pure ((w.wrS cx.f o.d.toNat (BitVec.ofNat 64 v)).wrS cx.f o.b.toNat (BitVec.ofNat 64 p))

def execUipendTake (h : Hdr) (o : OpX) (s : State) : Host.Outcome State Fault Refusal :=
  wickStep (.uipendTake h o) s (fun s w cx => uiForm cx w s (takeRun s w cx o))

/-- UIPEND.PEEK. -/
def peekRun (s : State) (w : Wick) (cx : Cx) (o : OpX) : EM Wick := do
  let pend ← uiRd w.uiAcc (s.uiBlock w.info.ctx) oPend
  pure (w.wrS cx.f o.d.toNat (BitVec.ofNat 64 pend))

def execUipendPeek (h : Hdr) (o : OpX) (s : State) : Host.Outcome State Fault Refusal :=
  wickStep (.uipendPeek h o) s (fun s w cx => uiForm cx w s (peekRun s w cx o))

/-- INSVC of a block written, when it was what it was to be: the answer says whether it was. -/
def swapInsvc (c : EAcc) (blk old new : Nat) : EM Bool := do
  uiCheck c blk
  let x ← uiRd c blk oInsvc
  if fld x 0 1 ≠ old then pure false
  else
    uiWr c blk oInsvc (setFld x 0 1 new)
    pure true

/-- The Ocris's own access to the block stops; the work waits (17 R423). -/
def uiStop (s : State) (c : Nat) (e : EErr) : State :=
  match e with
  | .page k a p => ownStop s c 1 k a p
  | .malf _ => s

/-- The wick is the one a lamplighter word names. -/
def isLamplighter (w : Wick) (lamp : Nat) : Bool := lamp.testBit 63 && fld lamp 0 32 == w.info.lseq.toNat && fld lamp 32 24 == w.info.rank % 2 ^ 24

/-- UIWAIT: the fragment waits on its instruction until a delivery. -/
def uiwaitBody (s : State) (w : Wick) (cx : Cx) : Eff :=
  let blk := s.uiBlock w.info.ctx
  if cx.act = 0 then .next s
  else if (w.frag cx.f).uiWait ∨ s.isStopped w.info.ctx 1 then .wait 14
  else
    match (do uiCheck w.uiAcc blk; let lamp ← uiRd w.uiAcc blk oLamp; let x ← uiRd w.uiAcc blk oInsvc; pure (lamp, x)) s with
    | .error (.malf a) => .trap { cause := 0x13, val := BitVec.ofNat 64 a }
    | .error e => .stay (uiStop (s.putWick (w.stalled 14)) w.info.ctx e)
    | .ok ((lamp, x), s') =>
      if !isLamplighter w lamp || fld x 0 1 = 1 then .trap { cause := 0x20 }
      else .stay (s'.putWick ((w.modFrag cx.f (fun g => { g with uiWait := true })).stalled 14))

def execUiwait (h : Hdr) (o : OpX) (s : State) : Host.Outcome State Fault Refusal := wickStep (.uiwait h o) s (fun s w cx => uiwaitBody s w cx)

/-! ### Delivery (13 R274) -/

/-- A fragment that has lanes and is neither a parent nor at a JOIN (01 R20). -/
def Wick.liveFrags (w : Wick) : List Nat := (List.range 8).filter (fun f => (w.frag f).state == .running && (w.frag f).mask != 0)

/-- The least recently issued of some fragments, the lowest entry among equals. -/
def Wick.oldest (w : Wick) (fs : List Nat) : Option Nat :=
  fs.foldl (fun (m : Option Nat) f => match m with
    | none => some f
    | some g => if (w.frag f).lru < (w.frag g).lru then some f else some g) none

/-- A fragment that can issue now, as far as the wick's own state says. -/
def Wick.canIssue (w : Wick) (f : Nat) : Bool :=
  (w.frag f).sleep.isNone && !(w.frag f).uiWait && !(w.frag f).held && !w.books.fetchFault.any (fun (g, _) => g == f)

/-- The fragment that issues next (01 R20): after the first instruction of a pair, the one it belongs to (05 R122). -/
def Wick.nextFrag (w : Wick) : Option Nat :=
  if w.trap.sl then some w.trap.tfrag
  else match w.books.pair with
    | some f => some f
    | none => w.oldest (w.liveFrags.filter w.canIssue)

/-- A fragment whose UISEND or SVC has been sent and not answered: it is between no two instructions (log 122). -/
def Wick.midCall (w : Wick) (f : Nat) : Bool := (w.frag f).wait.send.isSome || (w.frag f).wait.svc.isSome

/-- The fragment a delivery interrupts: the next to issue, or one that sleeps or waits. -/
def Wick.deliverFrag (w : Wick) : Option Nat :=
  let fs := w.liveFrags.filter (fun f => !w.midCall f)
  (w.oldest (fs.filter w.canIssue)).orElse (fun _ => w.oldest fs)

/-- Whether the wick may take a delivery (13 R274). One that falls together with a pre-emption stays pending (16 R327), and so does one
while a target's T is still to be checked (05 R121). -/
def Wick.mayDeliver (w : Wick) : Bool :=
  w.info.stage == .resident && !w.info.preq && w.books.entry.isNone && !w.trap.parked && !w.trap.sl && !w.info.restoring && w.books.svc.isNone && w.books.pair.isNone && w.books.stop.isNone

/-- What a delivery leaves in the wick: every SLEEP and UIWAIT ends (06 R150, 13 R273), and the fragment goes to the handler. -/
def Wick.deliver (w : Wick) (f : Nat) (handler : Word) : Wick :=
  let w1 := { w with frags := w.frags.map (fun (g : Frag) => { g with sleep := none, pc := if g.uiWait then pcNext g.pc else g.pc, uiWait := false }) }
  let g := w1.frag f
  let w2 := { w1 with regs := { w1.regs with uiSavePc := g.pc, uiSaveQ := g.qv }, books := { w1.books with entry := some f } }
  (w2.modWait f (fun x => { x with bwait := none })).modFrag f (fun g => { g with pc := handler })

/-- The lamplighter of a context with its handler, when a vector is due and it is not in service. -/
def dueDelivery (s : State) (c : Nat) : EM (Option (Wick × Nat × Word)) := do
  let blk := s.uiBlock c
  let a := uiAcc c
  let x ← uiRd a blk oInsvc
  let pend ← uiRd a blk oPend
  let mask ← uiRd a blk oMask
  let lamp ← uiRd a blk oLamp
  if fld x 0 1 = 1 ∨ (dueVector pend mask).isNone ∨ !(← uiGood a blk) then pure none
  else
    match s.wicks.find? (fun w => w.info.ctx == c && isLamplighter w lamp && w.mayDeliver) with
    | none => pure none
    | some w =>
      match w.deliverFrag with
      | none => pure none
      | some f =>
        let h ← uiRd a blk oHandler
        uiWr a blk oInsvc (setFld x 0 1 1)
        pure (some (w, f, BitVec.ofNat 64 h))

def userDelivery (s : State) (c : Nat) : State :=
  if (s.findCtx c).isNone || s.uiBlock c == 0 || s.isStopped c 1 then s
  else
    match dueDelivery s c s with
    | .error e => uiStop s c e
    | .ok (none, _) => s
    | .ok (some (w, f, h), s') => s'.putWick (w.deliver f h)

def execEvUserInterruptDelivery (ctx : Nat) (s : State) : Host.Outcome State Fault Refusal := .next (userDelivery s ctx)

/-- UIRET: back to what the delivery saved, without a T check (05 R121). Vectors still pending are delivered again at once (13 R274). -/
def uiretBody (s : State) (w : Wick) (cx : Cx) (i : Instr) : Eff :=
  if cx.act = 0 then .next s
  else if s.isStopped w.info.ctx 1 then .wait 14
  else
  match swapInsvc w.uiAcc (s.uiBlock w.info.ctx) 1 0 s with
  | .error (.malf a) => .trap { cause := 0x13, val := BitVec.ofNat 64 a }
  | .error e => .stay (uiStop (s.putWick (w.stalled 14)) w.info.ctx e)
  | .ok (false, _) => .trap { cause := 0x20 }
  | .ok (true, s') =>
    let s1 := advance (s'.putWick (w.modFrag cx.f (fun g => { g with qv := w.regs.uiSaveQ }))) cx i w.regs.uiSavePc
    .stay (userDelivery s1 w.info.ctx)

def execUiret (h : Hdr) (o : OpX) (s : State) : Host.Outcome State Fault Refusal :=
  wickStep (.uiret h o) s (fun s w cx => uiretBody s w cx (.uiret h o))

/-! ### Sends from outside (13 R272, 19 R368, 20 R398) -/

/-- A store to the doorbell window, which answers once the firmware runs (20 R401). -/
def doorbell (s : State) (pasid : Option (BitVec 20)) (offset size : Nat) (payload : Word) : State :=
  let drop := s.answerSend ⟨.loss, 0, 0, .doorbell⟩ false
  if s.cfg.boot ≠ 1 then s
  else
  match pasid with
  | none => drop
  | some p =>
    if size ≠ 8 ∨ offset ≥ 0x200 ∨ offset % 8 ≠ 0 then drop
    else
      match s.ctxs.find? (fun x => x.pasid == p) with
      | none => drop
      | some x => s.send x.id ⟨.host p.toNat, offset / 8, payload, .doorbell⟩

def execEvDoorbellSend (pasid : Option (BitVec 20)) (offset size : Nat) (payload : Word) (s : State) : Host.Outcome State Fault Refusal :=
  .next (doorbell s pasid offset size payload)

/-- A send from a peer that the links reach, which is answered over them. -/
def peerSend (s : State) (node sender target vector : Nat) (payload : Word) : State :=
  if !s.reaches node then s
  else if !s.cfg.job || vector ≥ 64 then s.answerSend ⟨.loss, 0, 0, .peer node⟩ false
  else s.send target ⟨.peer node sender, vector, payload, .peer node⟩

def execEvPeerSend (node sender target vector : Nat) (payload : Word) (s : State) : Host.Outcome State Fault Refusal :=
  .next (peerSend s node sender target vector payload)

/-- The answer of a peer to the UISEND of a wick's fragment, or to a UIRAISE. -/
def peerAnswer (s : State) (wick frag : Nat) (accepted : Bool) : State :=
  if s.neighbours.isEmpty then s
  else
  let s1 := s.modPacket wick (fun p => if fld p.body 0 8 = 6 && p.started then { p with ended := true, status := if accepted then 0 else 7 } else p)
  s1.modWick wick (fun w => if (w.frag frag).wait.send = some none then w.modWait frag (fun x => { x with send := some (some accepted) }) else w)

/-- The UISEND is named by its wick and fragment, the UIRAISE by its packet. -/
def execEvPeerSendAnswer (wick : Nat × Nat) (accepted : Bool) (s : State) : Host.Outcome State Fault Refusal :=
  .next (peerAnswer s wick.1 wick.2 accepted)

end Sys2Proof.Machine
end

