-- ==== Sys2Proof/Machine/Service.lean ====
section
/-! DEFINITION. Service calls (spec/13_closures_interrupts_services.md R276 to R279). -/

namespace Sys2Proof.Machine

/-! ### The service ring (13 R276, log 12) -/

/-- A request (13 R276). -/
def svcRequest (w : Wick) (f id : Nat) (token : Word) : Nat :=
  id % 2 ^ 16 + at_ (w.info.ctx % 2 ^ 16) 16 + at_ token.toNat 64
    + at_ (packElems 64 ((List.range 6).map (fun j => (w.rdS f (32 + j)).toNat))) 128

/-- A request appended to the context's ring: false when the ring is full. The ring has the form of the fault ring: WIDX and
RIDX in the first 8 of 64 bytes, then the requests. -/
def sendRequest (s : State) (acc : EAcc) (r : Nat) : EM Bool := do
  let base := s.ctxReg acc.ctx 0x0B
  let size := s.ctxReg acc.ctx 0x0C
  let ctl ← eRd acc base 8
  let widx := fld ctl 0 32
  let ridx := fld ctl 32 32
  if size = 0 ∨ (widx + 2 ^ 32 - ridx) % 2 ^ 32 ≥ size then pure false
  else
    eWr acc (base + 64 + 64 * (widx % size)) 64 r
    eWr acc base 4 ((widx + 1) % 2 ^ 32)
    pure true

/-- The bytes that a request touches: the ring's indices, and the slot they name (17 R356). -/
def requestSpans (s : State) (acc : EAcc) : List (Nat × Nat) :=
  let base := s.ctxReg acc.ctx 0x0B
  let size := s.ctxReg acc.ctx 0x0C
  (base, 8) :: eAsk (do
    let ctl ← eRd acc base 8
    pure (if size = 0 then [] else [(base + 64 + 64 * (fld ctl 0 32 % size), 64)])) s

/-! ### The predictor -/

def predKey (core id : Nat) : Nat := core * 64 + id % 64

/-- The core's last-value entry of a service (13 R276). -/
def State.predicted (s : State) (core id : Nat) : Word :=
  ((s.predict.find? (fun (k, _) => k == predKey core id)).map Prod.snd).getD 0

def State.learn (s : State) (core id : Nat) (v : Word) : State :=
  { s with predict := (predKey core id, v) :: s.predict.filter (fun (k, _) => k != predKey core id) }

/-! ### The forms -/

/-- The call is made: the wick speculates from its snapshot just after the SVC, or waits under NOSPEC (13 R277, R278). -/
def startCall (s : State) (w : Wick) (cx : Cx) (i : Instr) (o : OpX) (token : Word) : Eff :=
  let id := o.imm.toNat % 2 ^ 16
  let d := o.d.toNat
  let s1 := { s with
    calls := s.calls + 1
    requests := s.requests ++ [Request.mk token w.info.uid id] }
  if o.flags.getLsbD 1 then
    .stay (s1.putWick ((w.modWait cx.f (fun x => { x with svc := some (⟨d, id, none, token, cx.f⟩, none) })).stalled 13))
  else
    let p := if o.flags.getLsbD 0 then w.rdS cx.f o.b.toNat else s.predicted w.info.coreId id
    let w1 := w.wrS cx.f d p
    let w2 := { w1 with books := { w1.books with svc := some ⟨d, id, some p, token, cx.f⟩ } }
    let s2 : State := { s1 with snaps := ((w1.popPorts i).setPc cx (pcNext cx.pc)) :: s1.snaps.filter (fun x => x.info.uid != w.info.uid) }
    .next (s2.putWick w2)

/-- SVC: issued once, a fragment under NOSPEC waits for its own reply. -/
def svcBody (s : State) (w : Wick) (cx : Cx) (i : Instr) (o : OpX) : Eff :=
  if cx.act = 0 then .next s
  else
    match (w.frag cx.f).wait.svc with
    | some (_, none) => .wait 13
    | some (_, some v) => .next (s.putWick ((w.modWait cx.f (fun x => { x with svc := none })).wrS cx.f o.d.toNat v))
    | none =>
      let token := BitVec.ofNat 64 (s.calls + 1)
      match sendRequest s w.uiAcc (svcRequest w cx.f (o.imm.toNat % 2 ^ 16) token) s with
      | .error (.page k a p) => eFault s 0 [(0, k, a, p)] true ((requestSpans s w.uiAcc).map (fun (a, n) => (0, a, n)))
      | .error (.malf a) => .trap { cause := 0x13, val := BitVec.ofNat 64 a }
      | .ok (false, _) => .wait 13
      | .ok (true, s') => startCall s' w cx i o token

def execSvc (h : Hdr) (o : OpX) (s : State) : Host.Outcome State Fault Refusal := wickStep (.svc h o) s (fun s w cx => svcBody s w cx (.svc h o) o)

/-- SVCW: the reply ends the speculation; the SVCW is issued again and then has no effect (13 R278). -/
def svcwBody (s : State) (w : Wick) (cx : Cx) : Eff :=
  if cx.act = 0 ∨ w.books.svc.isNone then .next s
  else if w.books.reply.isSome then .stay (resolveSvc s w) else .wait 13

def execSvcw (h : Hdr) (o : OpX) (s : State) : Host.Outcome State Fault Refusal := wickStep (.svcw h o) s (fun s w cx => svcwBody s w cx)

/-! ### Replies (13 R276, R279) -/

/-- A reply reaches the call with its token: that under speculation, or a fragment's that waits. -/
def Wick.takeReply (w : Wick) (token value : Word) : Wick :=
  if w.books.svc.any (fun c => c.token == token) then { w with books := { w.books with reply := some value } }
  else { w with frags := w.frags.map (fun (g : Frag) => { g with wait := { g.wait with svc := g.wait.svc.map (fun (c, v) =>
    (c, if c.token = token then some value else v)) } }) }

/-- A reply reaches the partition's doorbell: it is taken by the wick its token names, or, that of the call the save area shows, lands in
the mailbox of a wick that is not resident (log 12). A reply delivered on the core trains its predictor. -/
def serviceReply (s : State) (part : Nat) (token value : Word) : State :=
  match (if s.cfg.boot = 1 then s.requests.find? (fun r => r.token == token) else none) with
  | none => s
  | some r =>
    match s.findWick r.uid with
    | none => s
    | some w =>
      if s.ctxPart w.info.ctx ≠ part then s
      else
        let s1 := { s with requests := s.requests.filter (fun x => x.token != token) }
        if w.info.stage == .descheduled then
          if w.svcShown.any (fun c => c.token == token) then
            s1.post { ctx := w.info.ctx, va := (s.wsave w.info).toNat + 0x80, len := 16, value := value.toNat + at_ 1 64 }
          else s1.putWick (w.takeReply token value)
        else (s1.learn w.info.coreId r.svc value).putWick (w.takeReply token value)

def execEvServiceReply (part : Nat) (token value : Word) (s : State) : Host.Outcome State Fault Refusal := .next (serviceReply s part token value)

end Sys2Proof.Machine
end

