-- ==== Sys2Proof/Machine/Graph.lean ====
section
/-! DEFINITION. Work graphs (spec/13_closures_interrupts_services.md R280 to R283). -/

namespace Sys2Proof.Machine

/-- A node descriptor (13 R280). -/
structure NodeDesc where
  entry : Word
  recb : Nat
  maxDepth : Nat
  /-- In core cycles. -/
  timer : Nat
  qbase : Nat
  qcap : Nat
  deriving DecidableEq, Repr

/-- How a graph's own data is accessed (17 R423). -/
def Graph.acc (g : Graph) : EAcc := ⟨g.ctx, true, g.pkt⟩

/-- The descriptor of a node, malformed when a field is out of range (13 R280, 00 R12). -/
def readNode (g : Graph) (node : Nat) : EM NodeDesc := do
  let a := g.table + 32 * node
  let r ← eRd g.acc a 32
  let recb := fld r 64 8
  let timer := fld r 78 9
  let ok := recb % 4 == 0 && decide (4 ≤ recb) && decide (recb ≤ 64) && decide (1 ≤ fld r 72 6) && decide (fld r 72 6 ≤ 32)
    && decide (timer ≤ 256) && fld r 87 41 == 0 && fld r 128 6 == 0 && decide (32 ≤ fld r 192 32) && fld r 224 32 == 0
  if !ok then eMalf a
  else pure { entry := BitVec.ofNat 64 (fld r 0 64), recb := recb, maxDepth := fld r 72 6,
              timer := (if timer = 0 then 8 else timer) * Config.usCycles / 4, qbase := fld r 128 64, qcap := fld r 192 32 }

def State.findGraph (s : State) (id : Nat) : Option Graph := s.graphs.find? (fun g => g.id == id)

def State.putGraph (s : State) (g : Graph) : State := { s with graphs := modFirst (fun (x : Graph) => x.id == g.id) (fun _ => g) s.graphs }

/-- The graph a wick's launch runs. -/
def State.graphOf (s : State) (w : Wick) : Option Graph := ((s.launchOf w).bind Launch.graph).bind s.findGraph

/-- Free slots of a node's queue, at most n, lowest first: a slot is held until its record retires (13 R283). -/
def Graph.freeSlots (g : Graph) (node qcap n : Nat) : List Nat :=
  let used := (g.waiting.filter (fun r => r.node == node)).map GraphRec.slot ++ (g.held.filter (fun h => h.node == node)).map GraphHeld.slot
  ((List.range (min qcap (used.length + n))).filter (fun i => !used.contains i)).take n

/-! ### EMIT (13 R281) -/

/-- Records written to slots of a queue. -/
def writeRecs (g : Graph) (d : NodeDesc) : List (Nat × Nat) → EM Unit
  | [] => pure ()
  | (slot, v) :: rest => do
    eWr g.acc (d.qbase + d.recb * slot) d.recb v
    writeRecs g d rest

/-- The record of lane i: that lane of the registers from A on. -/
def laneRecord (w : Wick) (a recb i : Nat) : Nat :=
  packElems 32 ((List.range (recb / 4)).map (fun j => ((w.rdV (a + j)).lane i).toNat))

/-- What EMIT finds of its node: the trap of its checks, or the descriptor. -/
def emitCheck (w : Wick) (o : OpX) (d : NodeDesc) : Option Nat :=
  if !runOk w o.a.toNat (d.recb / 4) then some 0x21
  else if w.info.nodeDepth + 1 > d.maxDepth then some 0x22
  else none

def emitBody (s : State) (w : Wick) (cx : Cx) (o : OpX) : Eff :=
  let node := (w.rdS cx.f o.b.toNat).toNat % 2 ^ 16
  let operand : Eff := .trap { cause := 0x21, val := BitVec.ofNat 64 node }
  if cx.act = 0 then .next s
  else
    match s.graphOf w with
    | none => operand
    | some g =>
      if node ≥ g.count then operand
      else
        match readNode g node s with
        | .error (.malf a) => .trap { cause := 0x13, val := BitVec.ofNat 64 a }
        | .error (.page k a p) => eFault s 0 [(0, k, a, p)] true [(0, g.table + 32 * node, 32)]
        | .ok (d, s1) =>
          match emitCheck w o d with
          | some c => .trap { cause := c, val := BitVec.ofNat 64 node }
          | none =>
            let lanes := lanesOf cx.act
            let slots := g.freeSlots node d.qcap lanes.length
            if slots.length < lanes.length then .wait 8
            else
              match writeRecs g d (slots.zip (lanes.map (laneRecord w o.a.toNat d.recb))) s1 with
              | .error (.malf a) => .trap { cause := 0x13, val := BitVec.ofNat 64 a }
              | .error (.page k a p) =>
                eFault s 0 [(0, k, a, p)] true ((0, g.table + 32 * node, 32) :: slots.map (fun n => (0, d.qbase + d.recb * n, d.recb)))
              | .ok (_, s2) =>
                .next (s2.putGraph { g with waiting := g.waiting ++ slots.map (fun n => ⟨node, n, w.info.nodeDepth + 1, s.now⟩) })

def execEmit (h : Hdr) (o : OpX) (s : State) : Host.Outcome State Fault Refusal := wickStep (.emit h o) s (fun s w cx => emitBody s w cx o)

/-! ### NODEFIN (13 R283) -/

/-- A wick of a node launch, or of the geometry phase of a pass. -/
def inNodeLaunch (s : State) (w : Wick) : Bool :=
  w.info.graph.isSome || (match s.launchOf w with
    | some l => l.fld 0 3 == 2
    | none => false)

def nodefinBody (s : State) (w : Wick) (cx : Cx) : Eff :=
  if cx.act = 0 then .next s
  else if !inNodeLaunch s w then .trap { cause := 0x21 }
  else .next (retireRecs s w.info.uid cx.act)

def execNodefin (h : Hdr) (o : OpX) (s : State) : Host.Outcome State Fault Refusal := wickStep (.nodefin h o) s (fun s w cx => nodefinBody s w cx)

/-! ### Gathering (13 R282) -/

/-- The Ocris's own access to a graph's memory stops (17 R423, log 11). -/
def graphStop (s : State) (g : Graph) (e : EErr) : State :=
  match e with
  | .page k a p => ownStop s g.ctx (packetWork g.pkt 2) k a p
  | .malf _ => s.modPacket g.pkt (fun p => { p with status := 1, cancelled := true })

/-- Root records copied into the queue of their node while it has room (14 R284). -/
def copyRoots (d : NodeDesc) (now : Nat) : Nat → Graph → EM Graph
  | 0, g => pure g
  | n + 1, g => do
    if g.rootLeft = 0 then pure g
    else
      match (g.freeSlots g.root d.qcap 1).head? with
      | none => pure g
      | some slot =>
        let v ← eRd g.acc g.rootAddr d.recb
        eWr g.acc (d.qbase + d.recb * slot) d.recb v
        copyRoots d now n { g with
          rootLeft := g.rootLeft - 1
          rootAddr := g.rootAddr + d.recb
          waiting := g.waiting ++ [⟨g.root, slot, 0, now⟩] }

/-- The graph with its root records in their queue as far as there is room. -/
def fillRoots (s : State) (g : Graph) : State :=
  if g.rootLeft = 0 || s.isStopped g.ctx (packetWork g.pkt 2) then s
  else
    match (do let d ← readNode g g.root; copyRoots d s.now d.qcap g) s with
    | .ok (g', s') => s'.putGraph g'
    | .error e => graphStop s g e

/-- The gathered records of a node (13 R282). -/
def gatherRecs (g : Graph) (d : NodeDesc) (recs : List GraphRec) : EM (List Nat) :=
  recs.mapM (fun r => eRd g.acc (d.qbase + d.recb * r.slot) d.recb)

/-- They are copied to an array. -/
def placeRecs (g : Graph) (recb arr : Nat) (vs : List Nat) : EM Unit :=
  vs.zipIdx.forM (fun (v, j) => eWr g.acc (arr + recb * j) recb v)

/-- Where the array lies: somewhere, as the device chooses (log 13). -/
def State.gatherArray (s : State) : Nat := (Config.gatherBase s.free).toNat

/-- What a node wick starts with (01 R38). -/
def nodeStart (p : Packet) (l : Launch) (g : Graph) (node n arr depth : Nat) (d : NodeDesc) : Start :=
  { plainStart p l g.nextRank .node d.entry with
    mask := maskOf (fun i => decide (i < n))
    sregs := [(0, BitVec.ofNat 64 node), (1, BitVec.ofNat 64 n), (2, BitVec.ofNat 64 arr), (7, BitVec.ofNat 64 d.recb)]
    vregs := [(128, .a (BitVec.ofNat 32 arr) (BitVec.ofNat 32 d.recb))]
    nodeDepth := depth
    graph := some (g.id, node) }

/-- A node wick started from records, when there is room for it and the array can be written. -/
def startNode (s : State) (g : Graph) (node : Nat) (d : NodeDesc) (recs : List GraphRec) : State :=
  match (s.findPacket g.pkt).bind (fun p => p.launch.map (fun l => (p, l))) with
  | none => s
  | some (p, l) =>
    let arr := s.gatherArray
    let st := nodeStart p l g node recs.length arr (recs.foldl (fun m r => max m r.depth) 0) d
    match gatherRecs g d recs s with
    | .error e => graphStop s g e
    | .ok (vs, s1) =>
      match placeRecs g d.recb arr vs s1 with
      | .error _ => s
      | .ok (_, s2) =>
        match startAlone s2 st (s2.openCores g.ctx st.ng) with
        | none => s
        | some s3 =>
          let uid := s3.nextUid - 1
          s3.putGraph { g with
            waiting := g.waiting.filter (fun r => !recs.contains r)
            held := g.held ++ recs.zipIdx.map (fun (r, j) => ⟨uid, j, node, r.slot, arr + d.recb * j, d.recb⟩)
            nextRank := g.nextRank + 1 }

/-- A node whose records are due is gathered: 32 are waiting, or, by its timer, any whose oldest has waited long enough. -/
def gatherNode (s0 : State) (graph node : Nat) (byTimer : Bool) : State :=
  match s0.findGraph graph with
  | none => s0
  | some g0 =>
    let s := fillRoots s0 g0
    match s.findGraph graph with
    | none => s
    | some g =>
      if node ≥ g.count || s.isStopped g.ctx (packetWork g.pkt 2) || (match s.findPacket g.pkt with
        | some p => p.cancelled || s.heldBack p
        | none => true) then s
      else
        match readNode g node s with
        | .error e => graphStop s g e
        | .ok (d, s1) =>
          let rs := g.waiting.filter (fun r => r.node == node)
          let due := if byTimer then (match rs.head? with
              | some r => decide (s1.now ≥ r.arrived + d.timer)
              | none => false)
            else decide (rs.length ≥ 32)
          if due then startNode s1 g node d (rs.take 32) else s

def execEvNodeWickStart (graph node : Nat) (s : State) : Host.Outcome State Fault Refusal := .next (gatherNode s graph node false)

def execEvGatherTimer (graph node : Nat) (s : State) : Host.Outcome State Fault Refusal := .next (gatherNode s graph node true)

/-- A graph has completed (13 R283). -/
def State.graphDone (s : State) (g : Graph) : Bool :=
  g.rootLeft == 0 && g.waiting.isEmpty && g.held.isEmpty && s.wicks.all (fun w => match w.info.graph with
    | some (id, _) => id != g.id
    | none => true)

end Sys2Proof.Machine
end

