-- ==== Sys2Proof/Machine/Place.lean ====
section
/-! DEFINITION. Room for a placement group: cores under its bands' PLACE rules, windows, and its start
(spec/01_execution_model.md R28 to R38). -/

namespace Sys2Proof.Machine

/-! ### Room on a core (01 R32) -/

/-- How many more wicks of NG registers a core takes. -/
def State.coreRoom (s : State) (core ng : Nat) : Nat :=
  ((List.range 4).map (fun p =>
    let ws := s.inPart core p
    min (16 - ws.length) ((1024 - (ws.map (fun w => w.info.ng)).foldl (· + ·) 0) / (max ng 1)))).foldl (· + ·) 0

/-- A band that has given its window on a core up: each of its wicks is descheduled, and the core's record holds the window's image, from
which the restore returns it (16 R336, R340; log 37). -/
def State.gaveWindow (s : State) (b : Band) (core : Nat) : Bool :=
  let ws := s.wicks.filter (fun w => b.uids.contains w.info.uid)
  !ws.isEmpty && ws.all (fun w => w.info.stage == .descheduled
    && (s.findGroup w.info.group).any (fun g => g.captures.any (fun c => c.core == coreKey b.cluster core && c.image && c.written)))

/-- A band whose window stands in the AB of a core: from its placement until its last member has exited, or its tile is complete (01 R33,
14 R286). -/
def State.holdsWindow (s : State) (b : Band) (core : Nat) : Bool :=
  b.win > 0 && (b.tile.isSome || b.members.any (fun r => !b.gone.contains r)) && !s.gaveWindow b core

/-- The bands whose windows stand on a core. -/
def State.bandsAt (s : State) (cluster core : Nat) : List Band :=
  s.bands.filter (fun b => b.cluster == cluster && b.cores.contains core && s.holdsWindow b core)

/-- Where windows stand: first unit and units of 4 KiB. -/
def windowUnits (bs : List Band) : List (Nat × Nat) := bs.map (fun b => (b.off / 4096, b.win))

/-- The windows that stand on a core. -/
def State.windowsOn (s : State) (cluster core : Nat) : List (Nat × Nat) := windowUnits (s.bandsAt cluster core)

/-! ### Assigning cores -/

/-- A placement found so far: ranks with cores. -/
abbrev Assigned := List (Nat × Nat)

/-- The first assignment of ranks to cores, each rank trying its cores in turn, that fits at every rank and meets the goal. -/
def assignRanks (fits : Assigned → Nat → Nat → Bool) (goal : Assigned → Option α) : List (Nat × List Nat) → Assigned → Option α
  | [], acc => goal acc.reverse
  | (r, cores) :: rs, acc => cores.findSome? (fun k => if fits acc r k then assignRanks fits goal rs ((r, k) :: acc) else none)

/-- 01 R29: the PLACE rule of one band allows rank r on core k beside those assigned. Under SPREAD the cores rise with the
positions (log 111). -/
def placeAllows (b : BandSpec) (acc : Assigned) (r k : Nat) : Bool :=
  !b.members.contains r || (match b.place with
    | 1 => acc.all (fun (q, c) => !b.members.contains q || (if b.members.idxOf q < b.members.idxOf r then decide (c < k) else decide (k < c)))
    | 2 => acc.all (fun (q, c) => !b.members.contains q || c == k)
    | _ => true)

/-- Units of window a core would carry for these bands. -/
def newUnits (bands : List BandSpec) (acc : Assigned) (k : Nat) : Nat :=
  ((bands.filter (fun b => acc.any (fun (q, c) => c == k && b.members.contains q))).map (fun b => b.win)).foldl (· + ·) 0

/-- 01 R32: rank r fits core k of a cluster beside those assigned. -/
def rankFits (room used : Nat → Nat) (bands : List BandSpec) (acc : Assigned) (r k : Nat) : Bool :=
  let here := (acc.filter (fun (_, c) => c == k)).length
  decide (here + 1 ≤ room k) && bands.all (fun b => placeAllows b acc r k) && decide (used k + newUnits bands ((r, k) :: acc) k ≤ 256)

/-! ### Windows (01 R33) -/

/-- Where a window of n units stands clear of others. -/
def clearAt (n u : Nat) (taken : List (Nat × Nat)) : Bool := taken.all (fun (b, l) => decide (u + n ≤ b) || decide (b + l ≤ u))

/-- A list rotated. -/
def rotate (n : Nat) (l : List α) : List α := if l.isEmpty then [] else l.drop (n % l.length) ++ l.take (n % l.length)

/-- One offset for each band that all its cores have free (04 R91), by a search of all of them; n is where the free values
start that say which is tried first (log 14), and taken gives a core's windows. -/
def allocWindows (n : Nat) : List (BandSpec × List Nat) → (Nat → List (Nat × Nat)) → Option (List Nat)
  | [], _ => some []
  | (b, cores) :: rest, taken =>
    if b.win = 0 then (allocWindows n rest taken).map (0 :: ·)
    else
      (rotate (Config.freeValue (n + rest.length)).toNat (List.range (257 - b.win))).findSome? (fun u =>
        if cores.all (fun k => clearAt b.win u (taken k)) then
          (allocWindows n rest (fun k => if cores.contains k then (u, b.win) :: taken k else taken k)).map (u :: ·)
        else none)

/-- A placement of ranks on a cluster: the cores, and the offset of each band's window in units. -/
structure Placing where
  cluster : Nat
  cores : Assigned
  offs : List Nat
  deriving DecidableEq, Repr

/-- The cores of a band in a placement. -/
def bandCores (b : BandSpec) (a : Assigned) : List Nat := ((a.filter (fun (r, _) => b.members.contains r)).map Prod.snd).eraseDups

/-- The ranks with the cores of a cluster each may try, in an unpredictable order taken from the free values after n. -/
def rankOrders (n : Nat) (cores ranks : List Nat) : List (Nat × List Nat) :=
  (ranks.zipIdx).map (fun (r, j) => (r, rotate (Config.freeValue (n + j)).toNat cores))

/-- The cores of a cluster that a context's wicks may take. -/
def State.coresOf (s : State) (ctx cluster : Nat) : List Nat := (List.range 64).filter (fun k => s.coreOk ctx cluster k)

/-- 01 R32: the cores a cluster gives a group's ranks, with what the goal makes of them. -/
def placeRanks (s : State) (ctx ng cluster : Nat) (ranks : List Nat) (bands : List BandSpec) (goal : Assigned → Option α) : Option α :=
  let room (k : Nat) : Nat := s.coreRoom (coreKey cluster k) ng
  let used (k : Nat) : Nat := ((s.windowsOn cluster k).map Prod.snd).foldl (· + ·) 0
  assignRanks (rankFits room used bands) goal (rankOrders (s.free + 1) (s.coresOf ctx cluster) ranks) []

/-- A placement of a group on a cluster, its windows included. -/
def placeOn (s : State) (ctx ng cluster : Nat) (ranks : List Nat) (bands : List BandSpec) : Option Placing :=
  placeRanks s ctx ng cluster ranks bands (fun a =>
    (allocWindows (s.free + 1 + ranks.length) (bands.map (fun b => (b, bandCores b a))) (fun k => s.windowsOn cluster k)).map
      (fun o => ⟨cluster, a, o⟩))

/-- Free values one placement takes. -/
def placeFree (ranks : List Nat) (bands : List α) : Nat := 1 + ranks.length + bands.length

/-- A placement of a group in one of its partition's clusters. -/
def placeGroup (s : State) (ctx ng : Nat) (ranks : List Nat) (bands : List BandSpec) : Option Placing :=
  if ranks.length > 4096 then none
  else (rotate (Config.freeValue s.free).toNat (s.partClusters (s.ctxPart ctx))).findSome? (fun cl => placeOn s ctx ng cl ranks bands)

/-- The device as if it were idle (01 R32). -/
def State.idle (s : State) : State := { s with wicks := [], bands := [], copies := [], matrices := [], rays := [], flushes := [] }

/-- The group can be held by an idle cluster (01 R30): the three conditions of R32, which say nothing of offsets. -/
def groupFits (s : State) (ctx ng : Nat) (ranks : List Nat) (bands : List BandSpec) : Bool :=
  decide (ranks.length ≤ 4096)
    && (s.partClusters (s.ctxPart ctx)).any (fun cl => (placeRanks s.idle ctx ng cl ranks bands some).isSome)

/-! ### The start of a group (01 R31, R33, R37) -/

/-- The bands of a placement made, with consecutive identities from nextUid on, their windows zero-filled. -/
def addBands (s : State) (pkt : Nat) (tile : Option Nat) (pl : Placing) : List (Nat × BandSpec × Nat) → State
  | [] => s
  | (index, b, u) :: rest =>
    let cores := bandCores b pl.cores
    let band : Band :=
      { uid := s.nextUid, pkt := pkt, index := index, members := b.members, prod := b.prod, place := b.place, win := b.win,
        off := 4096 * u, cluster := pl.cluster, cores := cores, tile := tile,
        barriers := Vector.replicate 16 { expw := b.members.length } }
    let mem := cores.foldl (fun (m : Memory) k => m.wipe (keyAb (coreKey pl.cluster k) (4096 * u)) (4096 * b.win)) s.mem
    addBands { s with nextUid := s.nextUid + 1, bands := s.bands ++ [band], mem := mem } pkt tile pl rest

/-- The band slots of a rank, by ascending band index (01 R37); first is the identity of the first band made. -/
def slotsOf (bands : List (Nat × BandSpec)) (first rank : Nat) : List BandRef :=
  (bands.zipIdx).filterMap (fun (b, j) => (findIdx (· == rank) b.2.members).map (fun p => ⟨first + j, p⟩))

/-- The members of a group started on their cores, in rank order. -/
def addMembers (s : State) (start : Nat → Start) (pl : Placing) (group : Nat) (bands : List (Nat × BandSpec)) (first : Nat) :
    List (Nat × Nat) → Option State
  | [] => some s
  | (rank, k) :: rest =>
    let st := start rank
    match s.saveSlot st.ctx, s.slotOn (coreKey pl.cluster k) st.ng with
    | some save, some (p, n) =>
      addMembers (addWick s st pl.cluster k p n save group (slotsOf bands first rank)) start pl group bands first rest
    | _, _ => none

/-- The identities of the members recorded in the bands and the group. -/
def linkBands (s : State) (first n group : Nat) : State :=
  { s with
    groups := modFirst (fun (g : Group) => g.id == group)
      (fun g => { g with uids := (s.wicks.filter (fun w => w.info.group == group)).map (fun w => w.info.uid) }) s.groups
    bands := s.bands.map (fun (b : Band) =>
      if first ≤ b.uid && b.uid < first + n then
        { b with uids := b.members.filterMap (fun r => (s.wicks.find? (fun w => w.info.group == group && w.info.rank == r)).map (fun w => w.info.uid)) }
      else b) }

/-- A placement group started together (01 R31): bands with their indices, in ascending index. -/
def startGroup (s : State) (pkt ctx ng : Nat) (tile : Option Nat) (ranks : List Nat) (bands : List (Nat × BandSpec)) (start : Nat → Start) :
    Option State :=
  match placeGroup s ctx ng ranks (bands.map Prod.snd) with
  | none => none
  | some pl =>
    let gid := s.nextUid
    let g : Group := { id := gid, pkt := pkt, ctx := ctx, part := s.ctxPart ctx, cluster := pl.cluster }
    let s1 := { s with nextUid := s.nextUid + 1, free := s.free + placeFree ranks bands, groups := s.groups ++ [g] }
    let first := s1.nextUid
    let s2 := addBands s1 pkt tile pl ((bands.zip pl.offs).map (fun (b, u) => (b.1, b.2, u)))
    (addMembers s2 start pl gid bands first pl.cores).map (fun s3 => linkBands s3 first bands.length gid)

end Sys2Proof.Machine
end

