-- ==== Sys2Proof/Machine/Render.lean ====
section
/-! DEFINITION. Tile-based rendering and continuations (spec/14_rendering_and_lantern.md R284 to R305). -/

namespace Sys2Proof.Machine

/-! ### The pass record (14 R285 to R288) -/

def pBincap (r : Nat) : Nat := fld r 224 32
def pTx (r : Nat) : Nat := cdiv (pW r) 32
def pTy (r : Nat) : Nat := cdiv (pH r) 32
/-- Initial value: depth (0) or of colour target j (j + 1). -/
def pClr (r j : Nat) : Nat := fld r (512 + 32 * j) 32

/-- 14 R285: the record keeps its table. -/
def passOk (r : Nat) : Bool :=
  let t := pTargets r
  fld r 0 2 == 0 && (if t = 2 then fld r 64 2 == 0 else fld r 64 64 == 0)
    && fld r 128 2 == 0 && decide (4 * pW r ≤ pPitch r) && decide (1 ≤ pW r) && fld r 174 2 == 0 && decide (1 ≤ pH r) && fld r 190 2 == 0
    && fld r 192 2 != 3 && pFmt r 0 != 3 && pFmt r 1 != 3 && (t == 2 || pFmt r 1 == 0) && fld r 201 23 == 0
    && decide (1 ≤ pBincap r) && decide (pBincap r ≤ 65535) && fld r 256 6 == 0 && decide (1 ≤ fld r 400 16)
    && decide (1 ≤ fld r 416 32) && fld r 608 416 == 0

/-- Units of 4 KiB of a tile's memory (14 R286). -/
def tileUnits (r : Nat) : Nat := pS r * (1 + pTargets r)

/-- The address of a tile's bin header (14 R288). -/
def binAddr (r t : Nat) : Nat := fld r 256 64 + t * 64 * (pBincap r + 1)

/-- The pixel of sample q within the tile and its sample number (14 R287). -/
def sampleX (r q : Nat) : Nat := q / pS r % 32
def sampleY (r q : Nat) : Nat := q / pS r / 32
def sampleN (r q : Nat) : Nat := q % pS r

/-- The offsets of sample n of a pixel, in eighths (14 R287). -/
def sampleOff (spp n : Nat) : Nat × Nat :=
  match spp, n with
  | 1, _ => (4, 4)
  | 2, 0 => (2, 2)
  | 2, _ => (6, 6)
  | _, 0 => (3, 1)
  | _, 1 => (7, 3)
  | _, 2 => (1, 5)
  | _, _ => (5, 7)

/-- A sample whose pixel lies inside the target (14 R287). -/
def sampleInside (r tile q : Nat) : Bool :=
  decide (32 * (tile % pTx r) + sampleX r q < pW r) && decide (32 * (tile / pTx r) + sampleY r q < pH r)

/-! ### The tile a wick draws into -/

/-- The band of a tile. -/
def State.tileBand (s : State) (pkt tile : Nat) : Option Band := s.bands.find? (fun b => b.pkt == pkt && b.tile == some tile)

/-- A tile form's pass record, tile and the key of its tile memory; none outside the tile phase (14 R289). -/
def tileOf (s : State) (w : Wick) : Option (Nat × Nat × Nat) :=
  match w.info.tile, s.launchOf w with
  | some t, some l =>
    (s.tileBand t.pkt t.tile).map (fun b => (l.pass, t.tile, keyAb (coreKey b.cluster (b.cores.head?.getD 0)) b.off))
  | _, _ => none

/-- The keys of a depth sample and of a colour sample of target j (14 R286). -/
def depthKey (base q : Nat) : Nat := base + 4 * q
def colourKey (r base j q : Nat) : Nat := base + 4096 * pS r * (j + 1) + 4 * q

/-! ### BIN (14 R290) -/

/-- A finite binary32 value in units of 2^-149, a subnormal one zero under FTZ (03 R79); none for a NaN or an infinity. -/
def fixed149 (ftz : Bool) (x : Nat) : Option Int :=
  match dec fF32 ftz x with
  | .zero _ => some 0
  | .num neg n d => let v : Int := ((n * 2 ^ 149 / d : Nat) : Int); some (if neg then -v else v)
  | _ => none

/-- A point in units of 2^-149. -/
abbrev Pt := Int × Int

/-- area(a, b, c) of 14 R291. -/
def area (a b c : Pt) : Int := (b.1 - a.1) * (c.2 - a.2) - (c.1 - a.1) * (b.2 - a.2)

/-- Three points from six patterns. -/
def triangle (ftz : Bool) (w : Nat → Nat) : Option (Pt × Pt × Pt) :=
  match fixed149 ftz (w 0), fixed149 ftz (w 1), fixed149 ftz (w 3), fixed149 ftz (w 4), fixed149 ftz (w 6), fixed149 ftz (w 7) with
  | some x0, some y0, some x1, some y1, some x2, some y2 => some ((x0, y0), (x1, y1), (x2, y2))
  | _, _, _, _, _, _ => none

/-- The tiles along one axis that [lo, hi] meets, among n (14 R290). -/
def tilesMeeting (n : Nat) (lo hi : Int) : List Nat :=
  (List.range n).filter (fun t => decide (((32 * t : Nat) : Int) * 2 ^ 149 ≤ hi) && decide (lo < ((32 * t + 32 : Nat) : Int) * 2 ^ 149))

/-- The tiles a primitive is appended to, row-major. -/
def binTiles (r cull : Nat) (w : Nat → Nat) : List Nat :=
  match triangle false w with
  | none => []
  | some (a, b, c) =>
    let ar := area a b c
    if ar = 0 ∨ (cull = 1 ∧ ar > 0) ∨ (cull = 2 ∧ ar < 0) then []
    else
      let xs := tilesMeeting (pTx r) (min a.1 (min b.1 c.1)) (max a.1 (max b.1 c.1))
      let ys := tilesMeeting (pTy r) (min a.2 (min b.2 c.2)) (max a.2 (max b.2 c.2))
      ys.flatMap (fun ty => xs.map (fun tx => ty * pTx r + tx))

/-- One append: a slot taken and the record written, or DROP counted. -/
def binAppend (acc : EAcc) (r rec_ t : Nat) : EM Nat := do
  let a := binAddr r t
  let n ← eRd acc a 4
  if n < pBincap r then
    eWr acc a 4 (n + 1)
    eWr acc (a + 64 * (n + 1)) 64 rec_
    pure 1
  else
    let d ← eRd acc (a + 4) 4
    eWr acc (a + 4) 4 ((d + 1) % 2 ^ 32)
    pure 0

def sumM (f : α → EM Nat) : List α → EM Nat
  | [] => pure 0
  | x :: xs => do
    let a ← f x
    let b ← sumM f xs
    pure (a + b)

/-- A wick of a pass in its geometry phase: not one left over when the tile phase has started (14 R289). -/
def inGeometry (s : State) (w : Wick) : Bool :=
  w.info.tile.isNone && (match s.launchOf w with
    | some l => l.fld 0 3 == 3 && !l.tilePhase
    | none => false)

/-- BIN: all its appends or, at a page that fails, none (log 16). It waits behind logged bytes of a bin it may append to (17 R356). -/
def binBody (s : State) (w : Wick) (cx : Cx) (o : OpX) : Eff :=
  if !inGeometry s w then .trap { cause := 0x23 }
  else if !runOk w o.a.toNat 16 then .trap { cause := 0x06 }
  else
    let r := ((s.launchOf w).map Launch.pass).getD 0
    let cull := o.flags.toNat % 4
    let x (i j : Nat) : Nat := ((w.rdV (o.a.toNat + j)).lane i).toNat
    let lane (i : Nat) : EM Nat :=
      sumM (binAppend ⟨w.info.ctx, cx.sl, w.info.pkt⟩ r (packElems 32 ((List.range 16).map (x i)))) (binTiles r cull (x i))
    let bins := (lanesOf cx.act).flatMap (fun i => (binTiles r cull (x i)).map (fun t => (binAddr r t, 64 * (pBincap r + 1))))
    if !cx.sl && w.touchesLog bins then .wait 12
    else
    match sumM lane (lanesOf cx.act) s with
    | .ok (n, s') => .next (s'.putWick (w.wrS cx.f o.d.toNat (BitVec.ofNat 64 n)))
    | .error (.page k a p) => eFault s 0 [(0, k, a, p)] true (bins.map (fun (a, n) => (0, a, n)))
    | .error (.malf a) => .trap { cause := 0x13, val := BitVec.ofNat 64 a }

def execBin (h : Hdr) (o : OpX) (s : State) : Host.Outcome State Fault Refusal := wickStep (.bin h o) s (fun s w cx => binBody s w cx o)

/-! ### RAST (14 R291, R292) -/

/-- An edge a to b is a top or a left edge of a triangle whose third vertex is v (14 R291). -/
def topLeft (a b v : Pt) : Bool :=
  if a.2 = b.2 then decide (v.2 > a.2)
  else
    let side := (v.1 - a.1) * (b.2 - a.2) - (v.2 - a.2) * (b.1 - a.1)
    if b.2 > a.2 then decide (side > 0) else decide (side < 0)

/-- One weight's test: Ak / Ar is positive, or zero on a top or left edge. -/
def weightOk (ak ar : Int) (edge : Bool) : Bool := if ak = 0 then edge else decide ((ak > 0) = (ar > 0))

/-- What RAST walks over: the pass, the tile and the triangle with its three depths. -/
structure Walked where
  rec_ : Nat
  tile : Nat
  p0 : Pt
  p1 : Pt
  p2 : Pt
  z : Nat × Nat × Nat
  /-- FPMODE.FTZ of the wick. -/
  ftz : Bool
  deriving DecidableEq, Repr

/-- The position of a sample. -/
def Walked.sample (t : Walked) (q : Nat) : Pt :=
  let (sx, sy) := sampleOff (pS t.rec_) (sampleN t.rec_ q)
  let x := 8 * (32 * (t.tile % pTx t.rec_) + sampleX t.rec_ q) + sx
  let y := 8 * (32 * (t.tile / pTx t.rec_) + sampleY t.rec_ q) + sy
  ((x : Int) * 2 ^ 146, (y : Int) * 2 ^ 146)

/-- A0, A1, A2 and Ar at a sample. -/
def Walked.areas (t : Walked) (q : Nat) : Int × Int × Int × Int :=
  let p := t.sample q
  (area p t.p1 t.p2, area t.p0 p t.p2, area t.p0 t.p1 p, area t.p0 t.p1 t.p2)

/-- The sample is covered. -/
def Walked.covers (t : Walked) (q : Nat) : Bool :=
  let (a0, a1, a2, ar) := t.areas q
  sampleInside t.rec_ t.tile q && ar != 0 && weightOk a0 ar (topLeft t.p1 t.p2 t.p0) && weightOk a1 ar (topLeft t.p2 t.p0 t.p1)
    && weightOk a2 ar (topLeft t.p0 t.p1 t.p2)

/-- The exact quotient of two areas. -/
def ratio (a ar : Int) : Ex := if ar < 0 then exOfRat false (-a) ar.natAbs else exOfRat false a ar.natAbs

/-- b1, b2 and z of a covered sample (14 R291). What is rounded and, where it is subnormal, what is read is flushed under FTZ, which BIN alone
is exempt from (03 R77, R79, log 140). -/
def Walked.values (t : Walked) (q : Nat) : Nat × Nat × Nat :=
  let (_, a1, a2, ar) := t.areas q
  let r1 := ratio a1 ar
  let r2 := ratio a2 ar
  let d (x : Nat) : Ex := dec fF32 t.ftz x
  let step (r : Ex) (x : Nat) : Ex := (exMul r (exAdd .rne (d x) (d t.z.1).neg).1).1
  let z := (exAdd .rne (exAdd .rne (d t.z.1) (step r1 t.z.2.1)).1 (step r2 t.z.2.2)).1
  let out (x : Ex) : Nat := (rnd fF32 .rne false t.ftz 0 x).pat
  (out r1, out r2, out z)

/-- Two binary32 patterns hold equal values; no NaN is equal. -/
def f32Eq (ftz : Bool) (a b : Nat) : Bool :=
  let x := dec fF32 ftz a
  let y := dec fF32 ftz b
  !x.isNan && !y.isNan && decide (exCmp x y = .eq)

/-- The least sample from q on that the walk takes; eqz asks for the depth of the sample too. -/
def Walked.next (t : Walked) (m : Memory) (base : Nat) (eqz : Bool) (q : Nat) : Option Nat :=
  let n := 1024 * pS t.rec_
  ((List.range (n - q)).map (· + q)).find? (fun j => t.covers j && (!eqz || f32Eq t.ftz (t.values j).2.2 (m.read (depthKey base j) 4)))

/-- The lanes' samples in ascending order, and where the walk stands after them. -/
def rastLanes (next : Nat → Option Nat) : List Nat → Nat → List (Nat × Nat) → List (Nat × Nat) × Nat
  | [], q, acc => (acc, q)
  | i :: is_, q, acc =>
    match next q with
    | some j => rastLanes next is_ (j + 1) (acc ++ [(i, j)])
    | none => rastLanes next is_ q acc

/-- The results of a walk written (14 R292). -/
def rastWrite (s : State) (w : Wick) (cx : Cx) (o : OpX) (t : Option Walked) (base : Nat) (eqz : Bool) : Eff :=
  let q0 := fld (w.rdS cx.f o.b.toNat).toNat 0 13
  let next (q : Nat) : Option Nat := t.bind (fun t => t.next s.mem base eqz q)
  let (got, q) := rastLanes next (lanesOf cx.act) q0 []
  let mask := maskOf (fun i => got.any (fun (j, _) => j == i))
  let val (k i : Nat) : Lane :=
    match got.find? (fun (j, _) => j == i), t with
    | some (_, q), some t =>
      let v := t.values q
      BitVec.ofNat 32 (match k with
        | 0 => q + at_ (sampleX t.rec_ q) 12 + at_ (sampleY t.rec_ q) 17 + at_ (sampleN t.rec_ q) 22
        | 1 => v.1
        | 2 => v.2.1
        | _ => v.2.2)
    | _, _ => 0
  let w1 := (List.range 4).foldl (fun (w : Wick) k => w.wrV cx.live mask (o.d.toNat + k) (VReg.ofLanes (val k))) w
  let after := t.bind (fun t => t.next s.mem base false q)
  let w2 := (w1.wrP (o.c.toNat % 16) cx.act mask).wrS cx.f o.b.toNat (BitVec.ofNat 64 (after.getD 0))
  .next (s.putWick w2)

def rastBody (s : State) (w : Wick) (cx : Cx) (h : Hdr) (o : OpX) : Eff :=
  match tileOf s w with
  | none => .trap { cause := 0x23 }
  | some (r, tile, base) =>
    if !runOk w o.a.toNat 9 || decide (o.d.toNat + 4 > min w.info.ng 128) then .trap { cause := 0x06 }
    else if (List.range 9).any (fun j => !(w.rdV (o.a.toNat + j)).isU) then .trap { cause := 0x07 }
    else if fld (w.rdS cx.f o.b.toNat).toNat 13 51 ≠ 0 then .trap { cause := 0x23 }
    else
      let x (j : Nat) : Nat := ((w.rdV (o.a.toNat + j)).lane 0).toNat
      let t : Option Walked := (triangle w.regs.ftz x).map (fun (a, b, c) => ⟨r, tile, a, b, c, (x 2, x 5, x 8), w.regs.ftz⟩)
      rastWrite s w cx o t base (h.sub == 1)

def execRast (h : Hdr) (o : OpX) (s : State) : Host.Outcome State Fault Refusal := wickStep (.rast h o) s (fun s w cx => rastBody s w cx h o)

/-! ### ZTEST and RTW (14 R293, R294) -/

/-- The sample of lane i. -/
def laneSample (w : Wick) (o : OpX) (i : Nat) : Nat := ((w.rdV o.a.toNat).lane i).toNat % 2 ^ 12

/-- The lanes whose sample does not exist. -/
def sampleOver (w : Wick) (cx : Cx) (o : OpX) (r : Nat) : Mask := maskOf (fun i => cx.act.getLsbD i && decide (laneSample w o i ≥ 1024 * pS r))

/-- A depth comparison (06 R157): 0 LT, 1 LE, 2 GT, 3 GE, 4 EQ, 5 ALWAYS. -/
def zCompare (ftz : Bool) (sub a b : Nat) : Bool :=
  let x := dec fF32 ftz a
  let y := dec fF32 ftz b
  if sub ≥ 5 then true
  else if x.isNan || y.isNan then false
  else
    let c := exCmp x y
    match sub with
    | 0 => c == .lt
    | 1 => c != .gt
    | 2 => c == .gt
    | 3 => c != .lt
    | _ => c == .eq

/-- Lanes tested in ascending order, each one read-modify-write. -/
def ztestLanes (ftz : Bool) (base sub : Nat) (zw : Bool) (q z : Nat → Nat) : List Nat → Memory → Mask → Memory × Mask
  | [], m, ok => (m, ok)
  | i :: is_, m, ok =>
    let k := depthKey base (q i)
    if zCompare ftz sub (z i) (m.read k 4) then
      ztestLanes ftz base sub zw q z is_ (if zw then m.write k 4 (z i) else m) (ok ||| maskOf (· == i))
    else ztestLanes ftz base sub zw q z is_ m ok

def ztestBody (s : State) (w : Wick) (cx : Cx) (h : Hdr) (o : OpX) : Eff :=
  match tileOf s w with
  | none => .trap { cause := 0x23 }
  | some (r, _, base) =>
    let bad := sampleOver w cx o r
    if bad ≠ 0 then .trap { cause := 0x23, mask := bad }
    else
      let (m, ok) := ztestLanes w.regs.ftz base h.sub.toNat (o.flags.getLsbD 0) (laneSample w o) (fun i => ((w.rdV o.b.toNat).lane i).toNat) (lanesOf cx.act) s.mem 0
      .next ({ s with mem := m }.putWick (w.wrP (o.d.toNat % 16) cx.act ok))

def execZtest (h : Hdr) (o : OpX) (s : State) : Host.Outcome State Fault Refusal := wickStep (.ztest h o) s (fun s w cx => ztestBody s w cx h o)

/-- A colour combined into a sample (14 R294): mode 0 REPLACE, 1 ADD, 2 OVER. A sum of floats is flushed under FTZ as its terms are (03 R77,
R79, log 140). -/
def combine (ftz : Bool) (mode fmt c d : Nat) : Nat :=
  match mode, fmt with
  | 0, _ => c
  | 1, 0 => packElems 8 ((List.range 4).map (fun k => min (fld c (8 * k) 8 + fld d (8 * k) 8) 255))
  | 1, 1 => (rnd fF32 .rne false ftz 0 (exAdd .rne (dec fF32 ftz d) (dec fF32 ftz c)).1).pat
  | 1, _ => packElems 16 ((List.range 2).map (fun k =>
      (rnd fF16 .rne false ftz 0 (exAdd .rne (dec fF16 ftz (fld d (16 * k) 16)) (dec fF16 ftz (fld c (16 * k) 16))).1).pat))
  | _, _ =>
    let a := fld c 24 8
    packElems 8 ((List.range 4).map (fun k => (fld c (8 * k) 8 * a + fld d (8 * k) 8 * (255 - a) + 127) / 255))

def rtwLanes (ftz : Bool) (key : Nat → Nat) (mode fmt : Nat) (c : Nat → Nat) : List Nat → Memory → Memory
  | [], m => m
  | i :: is_, m => rtwLanes ftz key mode fmt c is_ (m.write (key i) 4 (combine ftz mode fmt (c i) (m.read (key i) 4)))

def rtwBody (s : State) (w : Wick) (cx : Cx) (h : Hdr) (o : OpX) : Eff :=
  match tileOf s w with
  | none => .trap { cause := 0x23 }
  | some (r, _, base) =>
    let j := o.flags.toNat % 2
    let bad := sampleOver w cx o r
    if j ≥ pTargets r ∨ (h.sub = 2 ∧ pFmt r j ≠ 0) then .trap { cause := 0x23 }
    else if bad ≠ 0 then .trap { cause := 0x23, mask := bad }
    else
      let key (i : Nat) : Nat := colourKey r base j (laneSample w o i)
      .next { s with mem := rtwLanes w.regs.ftz key h.sub.toNat (pFmt r j) (fun i => ((w.rdV o.b.toNat).lane i).toNat) (lanesOf cx.act) s.mem }

def execRtw (h : Hdr) (o : OpX) (s : State) : Host.Outcome State Fault Refusal := wickStep (.rtw h o) s (fun s w cx => rtwBody s w cx h o)

/-! ### TILEF (14 R295) -/

/-- The value of a pixel from its samples. -/
def resolve (fmt spp : Nat) (s0 : Bool) (xs : List Nat) : Nat :=
  if s0 || spp = 1 then xs.head?.getD 0
  else
    let mean (f : Fmt) (ys : List Nat) : Nat :=
      let sum := ys.foldl (fun acc y => (exAdd .rne acc (dec f false y)).1) (.zero false)
      (rnd f .rne false false 0 (exMul sum (.num false 1 spp)).1).pat
    match fmt with
    | 0 => packElems 8 ((List.range 4).map (fun k => ((xs.map (fun x => fld x (8 * k) 8)).foldl (· + ·) 0 + spp / 2) / spp))
    | 1 => mean fF32 xs
    | _ => packElems 16 ((List.range 2).map (fun k => mean fF16 (xs.map (fun x => fld x (16 * k) 16))))

/-- The writes of a flush of one target. -/
def flushTarget (m : Memory) (r tile base j : Nat) (s0 : Bool) : List (Nat × Nat) :=
  (List.range 1024).filterMap (fun px =>
    let x := px % 32
    let y := px / 32
    let gx := 32 * (tile % pTx r) + x
    let gy := 32 * (tile / pTx r) + y
    if gx < pW r ∧ gy < pH r then
      let xs := (List.range (pS r)).map (fun n => m.read (colourKey r base j (px * pS r + n)) 4)
      some ((pRt r j + gy * pPitch r + 4 * gx) % 2 ^ 64, resolve (pFmt r j) (pS r) s0 xs)
    else none)

/-- A flush of the targets of a mask taken up by a core. -/
def addFlush (s : State) (core cluster k uid pkt rank ctx r tile base tmask : Nat) (s0 auto : Bool) : State × Word :=
  let n := ((s.flushSeq.find? (fun (c, _) => c == core)).map Prod.snd).getD 0 + 1
  let token := BitVec.ofNat 64 (n % 2 ^ 32 + k % 64 * 2 ^ 34 + cluster % 8 * 2 ^ 40)
  let writes := (List.range 2).flatMap (fun j => if tmask.testBit j then flushTarget s.mem r tile base j s0 else [])
  let f : Flush := { core := core, seq := n, uid := uid, pkt := pkt, rank := rank, ctx := ctx, tile := tile, token := token, writes := writes, auto := auto }
  ({ s with flushes := s.flushes ++ [f], flushSeq := (core, n) :: s.flushSeq.filter (fun (c, _) => c != core) }, token)

def tilefBody (s : State) (w : Wick) (cx : Cx) (o : OpX) : Eff :=
  match tileOf s w with
  | none => if cx.act = 0 then .next s else .trap { cause := 0x23 }
  | some (r, tile, base) =>
    let tm := o.flags.toNat % 4
    if cx.act = 0 then .next s
    else if tm ≥ 2 ^ pTargets r then .trap { cause := 0x23 }
    else
      let (s1, token) := addFlush s w.info.coreId w.info.cluster w.info.core w.info.uid w.info.pkt w.info.rank w.info.ctx r tile base tm (o.flags.getLsbD 2) false
      .next (s1.putWick (w.wrS cx.f o.d.toNat token))

def execTilef (h : Hdr) (o : OpX) (s : State) : Host.Outcome State Fault Refusal := wickStep (.tilef h o) s (fun s w cx => tilefBody s w cx o)

/-- Writes performed up to the first that fails. -/
def runWrites (s : State) (ctx : Nat) : List (Nat × Nat) → State × List (Nat × Nat) × Option (Nat × PFault)
  | [] => (s, [], none)
  | (a, v) :: rest =>
    match xlatePieces s ctx false ⟨1, 0, 0⟩ (pages a 4) with
    | (.error e, s') => (s', (a, v) :: rest, some e)
    | (.ok ps, s') => runWrites (s'.storePieces ps (leBytes 4 v)) ctx rest

def State.putFlush (s : State) (f : Flush) : State :=
  { s with flushes := modFirst (fun (x : Flush) => x.core == f.core && x.seq == f.seq) (fun _ => f) s.flushes }

/-- The oldest flush of a core is written out, or stops at a page that fails (log 17). -/
def tilefCompletion (s : State) (core : Nat) : State :=
  match s.flushes.find? (fun f => f.core == core && !f.rest) with
  | none => s
  | some f =>
    if f.stopped then s
    else
      match runWrites s f.ctx f.writes with
      | (s1, _, none) => updateBands { s1 with flushes := s1.flushes.filter (fun x => !(x.core == core && x.seq == f.seq)) } f.pkt
      | (s1, rest, some (va, p)) =>
        let s2 := s1.putFlush { f with writes := rest, stopped := true, faults := f.faults + 1, stopVa := va }
        postFaults s2 f.ctx [engineRec s2 3 f.ctx 1 va f.token.toNat core (f.faults + 1) p]

def execEvTilefCompletion (core : Nat) (s : State) : Host.Outcome State Fault Refusal := .next (tilefCompletion s core)

/-! ### TEX (14 R302, R303) -/

/-- 14 R302: the descriptor keeps its table. -/
def texDescOk (d : Nat) : Bool :=
  fld d 0 2 == 0 && decide (1 ≤ fld d 64 16) && decide (fld d 64 16 ≤ 16384) && decide (1 ≤ fld d 80 16) && decide (fld d 80 16 ≤ 16384)
    && fld d 96 2 == 0 && decide (4 * fld d 64 16 ≤ fld d 96 32) && fld d 128 2 != 3 && fld d 132 124 == 0

/-- A coordinate times an extent, in 2^-149 units, after what stands for a NaN or an infinity (14 R303). -/
def texCoord (clamp : Bool) (x ext : Nat) : Int :=
  match dec fF32 false x with
  | .inf neg => if clamp && !neg then ((ext : Nat) : Int) * 2 ^ 149 else 0
  | _ => ((fixed149 false x).getD 0) * ((ext : Nat) : Int)

/-- An index wrapped or clamped to an extent. -/
def texIndex (clamp : Bool) (ext : Nat) (i : Int) : Nat :=
  if clamp then (max 0 (min i (((ext : Nat) : Int) - 1))).toNat else (i % ((ext : Nat) : Int)).toNat

/-- The texels a fetch reads along one axis with their weights in 256ths. -/
def texAxis (d x ext : Nat) : List (Nat × Nat) :=
  let clamp := d.testBit 131
  let u := texCoord clamp x ext
  let one : Int := 2 ^ 149
  if !d.testBit 130 then [(texIndex clamp ext (u / one), 256)]
  else
    let v := u - one / 2
    let i0 := v / one
    let fx := (((v - i0 * one) * 256) / one).toNat
    [(texIndex clamp ext i0, 256 - fx), (texIndex clamp ext (i0 + 1), fx)]

/-- A texel's exact quadruple. -/
def texelValue (fmt x : Nat) : List Ex :=
  match fmt with
  | 0 => (List.range 4).map (fun k => exOfRat false ((fld x (8 * k) 8 : Nat) : Int) 255)
  | 1 => [dec fF32 false x, .zero false, .zero false, .num false 1 1]
  | _ => [dec fF16 false (fld x 0 16), dec fF16 false (fld x 16 16), .zero false, .num false 1 1]

/-- The addresses a fetch reads with their weights in 65536ths. -/
def texelPlaces (d : Nat) (u v : Lane) : List (Nat × Nat) :=
  (texAxis d v.toNat (fld d 80 16)).flatMap (fun (j, wy) =>
    (texAxis d u.toNat (fld d 64 16)).map (fun (i, wx) => ((fld d 0 64 + j * fld d 96 32 + 4 * i) % 2 ^ 64, wx * wy)))

/-- The texels read for a packet, or the failure met; those of a target of its own pass are free values (14 R297). -/
def readTexels (s : State) (ctx pkt : Nat) : List (Nat × Nat) → Except (Nat × PFault) (List (Nat × Nat)) × State
  | [] => (.ok [], s)
  | (a, wt) :: rest =>
    match xlatePieces s ctx false ⟨0, 0, 0⟩ (pages a 4) with
    | (.error e, s') => (.error e, s')
    | (.ok ps, s1) =>
      match readTexels s1 ctx pkt rest with
      | (.error e, s') => (.error e, s')
      | (.ok l, s') => (.ok ((leVal (s1.wild pkt (bytesFrom a 4) (readPieces s1.mem ps)), wt) :: l), s')

/-- The result words of a fetch: the exact blend, rounded once. -/
def blend (fmt : Nat) (ts : List (Nat × Nat)) : Vector Lane 4 :=
  Vector.ofFn (fun k : Fin 4 =>
    let term (t : Nat × Nat) : Ex := (exMul ((texelValue fmt t.1)[k.val]?.getD (.zero false)) (exOfRat false ((t.2 : Nat) : Int) 65536)).1
    let x := match ts with
      | [t] => (texelValue fmt t.1)[k.val]?.getD (.zero false)
      | _ => ts.foldl (fun acc t => (exAdd .rne acc (term t)).1) (.zero false)
    BitVec.ofNat 32 (rnd fF32 .rne false false 0 x).pat)

/-- TEX: the lanes leave as KIND 0 records, each with a fetch. -/
def texBody (s : State) (w : Wick) (cx : Cx) (i : Instr) (o : OpX) : Eff :=
  let a := (w.rdS cx.f o.b.toNat).toNat
  if cx.act = 0 then .next s
  else if !liveMaskOk w o.imm then .trap { cause := 0x06 }
  else if !runOk w o.a.toNat 2 then .trap { cause := 0x06 }
  else if a % 32 ≠ 0 then .trap { cause := 0x12, val := BitVec.ofNat 64 a }
  else
    withRecord s w cx a 32 (fun s1 d =>
      if !texDescOk d then .trap { cause := 0x13, val := BitVec.ofNat 64 a }
      else
        match s1.pushConts w (lanesOf cx.act) 0 (fun _ => pcNext cx.pc) (fun _ => 0) (o.imm.setWidth 16) with
        | none => .wait 8
        | some (s2, recs) =>
          let fetches := recs.map (fun (l, u) =>
            ({ record := u, ctx := w.info.ctx, desc := d, u := (w.rdV o.a.toNat).lane l, v := (w.rdV (o.a.toNat + 1)).lane l, uid := w.info.uid } : Texel))
          leaveLanes { s2 with texels := s2.texels ++ fetches } w cx i cx.act)

def execTex (h : Hdr) (o : OpX) (s : State) : Host.Outcome State Fault Refusal := wickStep (.tex h o) s (fun s w cx => texBody s w cx (.tex h o) o)

def State.findTexel (s : State) (r : Nat) : Option Texel := s.texels.find? (fun t => t.record == r)

/-- The packet of a continuation record. -/
def State.contPkt (s : State) (r : Nat) : Nat := ((s.conts.find? (fun c => c.uid == r)).map ContRec.pkt).getD 0

/-- A fetch finishes and its record becomes final. -/
def texelComplete (s : State) (r : Nat) : State :=
  match s.findTexel r with
  | none => s
  | some t =>
    if t.stopped then s
    else
      match readTexels s t.ctx (s.contPkt r) (texelPlaces t.desc t.u t.v) with
      | (.error _, _) => s
      | (.ok ts, s1) =>
        let pkt := s1.contPkt r
        updateBands ({ s1 with texels := s1.texels.filter (fun x => x.record != r) }.finalize r (blend (fld t.desc 128 2) ts)) pkt

def execEvTexelFetchComplete (rec : Nat) (s : State) : Host.Outcome State Fault Refusal := .next (texelComplete s rec)

/-- A fetch that meets a page fault stops and a record is written. -/
def texelStop (s : State) (r : Nat) : State :=
  match s.findTexel r with
  | none => s
  | some t =>
    if t.stopped then s
    else
      match readTexels s t.ctx (s.contPkt r) (texelPlaces t.desc t.u t.v) with
      | (.ok _, _) => s
      | (.error (va, p), s1) =>
        let s2 := { s1 with texels := s1.texels.map (fun (x : Texel) => if x.record == r then { x with stopped := true, faults := x.faults + 1, stopVa := va } else x) }
        postFaults s2 t.ctx [engineRec s2 6 t.ctx 0 va 0 r (t.faults + 1) p]

def execEvTexelFetchFaultStop (rec : Nat) (s : State) : Host.Outcome State Fault Refusal := .next (texelStop s rec)

/-! ### CONT (14 R304) -/

def contBody (s : State) (w : Wick) (cx : Cx) (i : Instr) (o : OpX) : Eff :=
  let pc (l : Nat) : Word := pairHandle w o l
  let bad := (lanesOf cx.act).filter (fun l => !pcForm (pc l))
  if cx.act = 0 then .next s
  else if !liveMaskOk w o.imm then .trap { cause := 0x06 }
  else
    match handleTrap 0x03 pc bad with
    | some t => .trap t
    | none =>
      match s.pushConts w (lanesOf cx.act) 2 pc (fun _ => 0) (o.imm.setWidth 16) with
      | none => .wait 8
      | some (s1, recs) => leaveLanes (recs.foldl (fun s (_, u) => s.finalize u (Vector.replicate 4 0)) s1) w cx i cx.act

def execCont (h : Hdr) (o : OpX) (s : State) : Host.Outcome State Fault Refusal := wickStep (.cont h o) s (fun s w cx => contBody s w cx (.cont h o) o)

/-! ### The Chandelier (14 R300, R301) -/

/-- What kind of start a record asks for: at the closure's entry for KIND 4 and for KIND 6, else at the CPC. -/
def startClass (kind : Nat) : Nat := if kind = 4 ∨ kind = 6 then kind else 0

/-- Records gathered together with a record, in the order in which they became final. -/
def State.together (s : State) (r : ContRec) : List ContRec :=
  s.conts.filter (fun x => x.final.isSome && x.ctx == r.ctx && x.pkt == r.pkt && x.lseq == r.lseq && x.cpc == r.cpc && x.handle == r.handle
    && x.tile == r.tile && startClass x.kind == startClass r.kind)

/-- A register with these lanes low and zero above. -/
def lanesReg (xs : List Lane) : VReg := VReg.ofLanes (fun i => xs[i]?.getD 0)

/-- What a continuation wick starts with (14 R301). -/
def contStart (s : State) (p : Packet) (l : Launch) (r : ContRec) (rs : List ContRec) : Start :=
  let closure := startClass r.kind ≠ 0
  { plainStart p l r.rank .continuation (if closure then (s.handleEntry r.ctx r.handle).pc else r.cpc) with
    mask := maskOf (fun i => decide (i < rs.length))
    k15 := if closure then r.handle else 0
    sregs := [(0, BitVec.ofNat 64 rs.length)]
    vregs := (List.range 16).map (fun j => (j, lanesReg (rs.map (fun x => x.vals[j]?.getD 0))))
      ++ (List.range 4).map (fun j => (16 + j, lanesReg (rs.map (fun x => x.result[j]?.getD 0))))
      ++ [(20, lanesReg (rs.map (fun x => BitVec.ofNat 32 x.rank))), (21, lanesReg (rs.map (fun x => BitVec.ofNat 32 x.lane)))]
    origin := rs.map (fun x => ⟨x.rank, x.lane⟩)
    cont := some ⟨r.kind, r.cpc, r.handle, if r.kind = 6 then rs.map (fun x => x.ray.getD 0) else []⟩
    tile := r.tile.map (fun t => ⟨r.pkt, t⟩) }

/-- Where a continuation wick may run: a tile's on the core of its window (14 R300). -/
def contCores (s : State) (r : ContRec) (ng : Nat) : List (Nat × Nat) :=
  match r.tile with
  | some t =>
    (match s.tileBand r.pkt t with
     | some b => (b.cores.filter (fun k => s.coreOk r.ctx b.cluster k && (s.slotOn (coreKey b.cluster k) ng).isSome)).map (fun k => (b.cluster, k))
     | none => [])
  | none => s.openCores r.ctx ng

/-- A continuation wick started from gathered records, when there is room for it; their pool slots become free. The records of a callback
wick whose launch has completed are gathered too (07 R192). -/
def startCont (s : State) (r : ContRec) (rs : List ContRec) : State :=
  match s.findRun r.pkt with
  | none => s
  | some p =>
    match p.launch with
    | none => s
    | some l =>
      if s.heldBack p || p.revoked then s
      else
        let st := contStart s p l r rs
        match startAlone s st (contCores s r st.ng) with
        | none => s
        | some s' => { s' with conts := s'.conts.filter (fun x => !rs.any (fun y => y.uid == x.uid)) }

/-- Records are gathered when 32 wait, or, by the timer, when 2 µs have passed since the oldest became final. -/
def gatherConts (s : State) (rec_ : Nat) (byTimer : Bool) : State :=
  match s.conts.find? (fun x => x.uid == rec_) with
  | none => s
  | some r =>
    let rs := s.together r
    let due := if byTimer then (match rs.head? with
        | some x => decide (s.now ≥ x.final.getD 0 + 2 * Config.usCycles)
        | none => false)
      else decide (rs.length ≥ 32)
    if r.final.isSome && due then startCont s (rs.head?.getD r) (rs.take 32) else s

def execEvContinuationWickStart (rec : Nat) (s : State) : Host.Outcome State Fault Refusal := .next (gatherConts s rec false)

def execEvChandelierGatherTimer (rec : Nat) (s : State) : Host.Outcome State Fault Refusal := .next (gatherConts s rec true)

/-! ### Tiles (14 R284, R286) -/

/-- The geometry phase of a pass has ended and its tile phase starts. -/
def tilePhaseStart (s : State) (pkt : Nat) : State :=
  match s.findPacket pkt with
  | none => s
  | some p =>
    match p.launch with
    | none => s
    | some l =>
      if l.fld 0 3 ≠ 3 || !p.started || l.tilePhase || p.cancelled then s
      else
        match l.graph.bind s.findGraph with
        | none => s
        | some g =>
          if s.graphDone g then { s with graphs := s.graphs.filter (fun x => x.id != g.id) }.modLaunch pkt (fun l => { l with tilePhase := true, graph := none })
          else s

def execEvTilePhaseStart (pkt : Nat) (s : State) : Host.Outcome State Fault Refusal := .next (tilePhaseStart s pkt)

/-- The band of one tile: the template's, or one wick (14 R286), with its ranks. -/
def tileSpec (l : Launch) (t : Nat) : BandSpec :=
  match l.specs with
  | b :: _ => { b with members := b.members.map (fun m => t * b.members.length + m) }
  | [] => ⟨[t], 0, tileUnits l.pass, 0⟩

/-- What a tile wick starts with (01 R38). -/
def tileStart (p : Packet) (l : Launch) (t rank : Nat) : Start :=
  let r := l.pass
  { launchStart p l rank .tile (BitVec.ofNat 64 (l.fld 128 64)) with
    sregs := [(0, BitVec.ofNat 64 (t % pTx r + at_ (t / pTx r) 16)), (1, Config.passId p.id), (2, BitVec.ofNat 64 (pS r)),
              (7, BitVec.ofNat 64 (binAddr r t))]
    vregs := [(136, .a 0 1)]
    tile := some ⟨p.id, t⟩ }

/-- 32-bit values written one after another. -/
def fillWords (m : Memory) (key v : Nat) : Nat → Memory
  | 0 => m
  | n + 1 => fillWords (m.write key 4 v) (key + 4) v n

/-- The initial state of tile memory (14 R286). -/
def clearTile (m : Memory) (r base : Nat) : Memory :=
  (List.range (1 + pTargets r)).foldl (fun (m : Memory) j => fillWords m (base + 4096 * pS r * j) (pClr r j) (1024 * pS r)) m

/-- The next tile of a pass started, when it fits. -/
def startTile (s : State) (p : Packet) (l : Launch) : Option State :=
  let t := l.nextTile
  if !l.tilePhase || t ≥ pTx l.pass * pTy l.pass then none
  else
    let b := tileSpec l t
    match startGroup s p.id p.ctx (l.fld 32 8) (some t) b.members [(0, b)] (tileStart p l t) with
    | none => none
    | some s1 =>
      match s1.tileBand p.id t with
      | none => none
      | some band =>
        let base := keyAb (coreKey band.cluster (band.cores.head?.getD 0)) band.off
        let s2 : State := { s1 with mem := clearTile s1.mem l.pass base }
        some (s2.modLaunch p.id (fun l => { l with nextTile := t + 1, tiles := l.tiles ++ [TileRun.mk t band.uid false] }))

/-- Nothing of a tile is left running but its automatic flush (14 R286). -/
def tileIdle (s : State) (pkt : Nat) (b : Band) (t : Nat) : Bool :=
  s.bandOver b && s.wicks.all (fun w => w.info.tile != some ⟨pkt, t⟩) && s.conts.all (fun c => !(c.pkt == pkt && c.tile == some t))
    && s.flushes.all (fun f => !(f.pkt == pkt && f.tile == t))

/-- A tile completes: its automatic flush is issued, and after it the window is freed. -/
def tileCompletion (s : State) (pkt tile : Nat) : State :=
  match s.findPacket pkt, s.tileBand pkt tile with
  | some p, some b =>
    match p.launch with
    | none => s
    | some l =>
      match l.tiles.find? (fun t => t.tile == tile) with
      | none => s
      | some t =>
        if !tileIdle s pkt b tile then s
        else if l.pass.testBit 199 && !t.flushed then
          let k := b.cores.head?.getD 0
          let base := keyAb (coreKey b.cluster k) b.off
          let (s1, _) := addFlush s (coreKey b.cluster k) b.cluster k 0 pkt (b.members.head?.getD 0) p.ctx l.pass tile base (2 ^ pTargets l.pass - 1)
            (l.pass.testBit 200) true
          s1.modLaunch pkt (fun l => { l with tiles := l.tiles.map (fun (x : TileRun) => if x.tile == tile then { x with flushed := true } else x) })
        else
          { s with bands := s.bands.filter (fun x => x.uid != b.uid) }.modLaunch pkt (fun l => { l with tiles := l.tiles.filter (fun x => x.tile != tile) })
  | _, _ => s

def execEvTileCompletion (pkt tile : Nat) (s : State) : Host.Outcome State Fault Refusal := .next (tileCompletion s pkt tile)

end Sys2Proof.Machine
end

