-- ==== Sys2Proof/Machine/Lantern.lean ====
section
/-! DEFINITION. The Lantern: layouts, exact box and triangle tests, the ray-state record, microinstructions and the ray
instructions (spec/14_rendering_and_lantern.md R306 to R322). -/

namespace Sys2Proof.Machine

/-! ### Node layouts (14 R306) -/

def lyNch (l : Nat) : Nat := fld l 0 4
def lyBoxenc (l : Nat) : Nat := fld l 4 2
def lyPkind (l : Nat) : Nat := fld l 6 2
/-- Bytes of a node. -/
def lyNodeBytes (l : Nat) : Nat := 16 * fld l 8 8
def lyChoff (l : Nat) : Nat := fld l 16 8
def lyBoxoff (l : Nat) : Nat := fld l 24 8
def lyQoff (l : Nat) : Nat := fld l 32 8
def lyPstride (l : Nat) : Nat := fld l 40 8
def lyBfcull (l : Nat) : Bool := l.testBit 48

/-- Bytes of a box. -/
def lyBoxBytes (l : Nat) : Nat :=
  match lyBoxenc l with
  | 0 => 24
  | 1 => 12
  | _ => 6

/-- Bytes of a primitive that a test reads. -/
def lyPrimBytes (l : Nat) : Nat := if lyPkind l = 1 then 44 else 40

/-- The descriptor keeps its table; the Q8 frame lies in the node as the boxes do. -/
def layoutOk (l : Nat) : Bool :=
  decide (2 ≤ lyNch l) && decide (lyNch l ≤ 8) && lyBoxenc l != 3 && decide (lyPkind l ≤ 1) && decide (1 ≤ fld l 8 8)
    && lyChoff l % 8 == 0 && lyBoxoff l % 2 == 0
    && (if lyBoxenc l = 2 then lyQoff l % 4 == 0 && decide (lyQoff l + 15 ≤ lyNodeBytes l) else lyQoff l == 0)
    && lyPstride l % 4 == 0 && decide (lyPrimBytes l ≤ lyPstride l) && fld l 49 207 == 0
    && decide (lyChoff l + 8 * lyNch l ≤ lyNodeBytes l) && decide (lyBoxoff l + lyBoxBytes l * lyNch l ≤ lyNodeBytes l)

/-! ### References (14 R307) -/

/-- What a reference is: none, a leaf, a node, or a breach of the layout. -/
inductive RefKind where
  | null | leaf | node | bad
  deriving DecidableEq, Repr

def refKind (r : Word) : RefKind :=
  if r = 0 then .null
  else if r.getLsbD 0 then .leaf
  else if r.toNat % 64 = 0 then .node else .bad

/-- The address of a leaf. -/
def leafAddr (r : Word) : Nat := r.toNat / 64 * 64

/-- The primitives of a leaf. -/
def leafCount (r : Word) : Nat := fld r.toNat 1 5 + 1

/-- The reference of child j in the contents of a node. -/
def childRef (l node j : Nat) : Word := BitVec.ofNat 64 (fld node (8 * (lyChoff l + 8 * j)) 64)

/-! ### Exact geometry (14 R308, R309) -/

/-- A binary32 pattern's exact value. -/
def f32 (x : Lane) : Ex := dec fF32 false x.toNat

def exSub (a b : Ex) : Ex := (exAdd .rne a b.neg).1
def exTimes (a b : Ex) : Ex := (exMul a b).1
def exLt (a b : Ex) : Bool := exCmp a b == .lt
def exLe (a b : Ex) : Bool := exCmp a b != .gt
def exMax (a b : Ex) : Ex := if exLt a b then b else a
def exMin (a b : Ex) : Ex := if exLt b a then b else a

/-- A value that is neither a NaN nor an infinity. -/
def Ex.fin (x : Ex) : Bool := !x.isNan && !x.isInf

/-- Three components. -/
abbrev V3 := Ex × Ex × Ex

def v3List (v : V3) : List Ex := [v.1, v.2.1, v.2.2]

def Ray.o (r : Ray) : V3 := (f32 r.ox, f32 r.oy, f32 r.oz)
def Ray.d (r : Ray) : V3 := (f32 r.dx, f32 r.dy, f32 r.dz)

/-- A ray that may hit anything (14 R308). -/
def Ray.sound (r : Ray) : Bool :=
  (v3List r.o ++ v3List r.d).all Ex.fin && !(f32 r.tmin).isNan && !(f32 r.tmax).isNan

/-- The corner coordinate k of box j: lo x, y, z and then hi x, y, z (14 R307). -/
def boxCoord (l node j k : Nat) : Ex :=
  let off := lyBoxoff l + lyBoxBytes l * j
  match lyBoxenc l with
  | 0 => dec fF32 false (fld node (8 * (off + 4 * k)) 32)
  | 1 => dec fF16 false (fld node (8 * (off + 2 * k)) 16)
  | _ =>
    let q := lyQoff l
    let o := dec fF32 false (fld node (8 * (q + 4 * (k % 3))) 32)
    let e := decE8M0 (fld node (8 * (q + 12 + k % 3)) 8)
    (exAdd .rne o (exTimes (exOfInt ((fld node (8 * (off + k)) 8 : Nat) : Int)) e)).1

/-- The interval of one axis, or a miss. -/
def slabAxis (o d lo hi : Ex) : Option (Ex × Ex) :=
  match d with
  | .zero _ => if exLe lo o && exLe o hi then some (.inf true, .inf false) else none
  | _ =>
    let t1 := (exDiv (exSub lo o) d).1
    let t2 := (exDiv (exSub hi o) d).1
    some (exMin t1 t2, exMax t1 t2)

/-- A value rounded to binary32. -/
def toF32 (rm : Rm) (x : Ex) : Lane := BitVec.ofNat 32 (rnd fF32 rm false false 0 x).pat

/-- The test of a box: its entry value when it is hit (14 R308). -/
def boxHit (r : Ray) (c : Nat → Ex) : Option Lane :=
  if !r.sound || (List.range 6).any (fun k => (c k).isNan) then none
  else
    match slabAxis r.o.1 r.d.1 (c 0) (c 3), slabAxis r.o.2.1 r.d.2.1 (c 1) (c 4), slabAxis r.o.2.2 r.d.2.2 (c 2) (c 5) with
    | some x, some y, some z =>
      let near := toF32 .rdn (exMax x.1 (exMax y.1 z.1))
      let far := toF32 .rup (exMin x.2 (exMin y.2 z.2))
      let entry := if exLt (f32 near) (f32 r.tmin) then r.tmin else near
      if exLe (f32 entry) (exMin (f32 far) (f32 r.tmax)) then some entry else none
    | _, _, _ => none

def v3Sub (a b : V3) : V3 := (exSub a.1 b.1, exSub a.2.1 b.2.1, exSub a.2.2 b.2.2)
def v3Neg (a : V3) : V3 := (a.1.neg, a.2.1.neg, a.2.2.neg)

/-- The determinant of three columns. -/
def det3 (a b c : V3) : Ex :=
  let m (p q r s : Ex) : Ex := exSub (exTimes p q) (exTimes r s)
  let x := exTimes a.1 (m b.2.1 c.2.2 b.2.2 c.2.1)
  let y := exTimes a.2.1 (m b.1 c.2.2 b.2.2 c.1)
  let z := exTimes a.2.2 (m b.1 c.2.1 b.2.1 c.1)
  (exAdd .rne (exSub x y) z).1

/-- A candidate: t, b1 and b2 exact, by Cramer's rule (14 R309). -/
def triHit (cull : Bool) (r : Ray) (v0 v1 v2 : V3) : Option (Ex × Ex × Ex) :=
  if !r.sound || !((v3List v0 ++ v3List v1 ++ v3List v2).all Ex.fin) then none
  else
    let e1 := v3Sub v1 v0
    let e2 := v3Sub v2 v0
    let s := v3Sub r.o v0
    let nd := v3Neg r.d
    let det := det3 e1 e2 nd
    match det with
    | .zero _ => none
    | _ =>
      if cull && det.isNeg then none
      else
        let b1 := (exDiv (det3 s e2 nd) det).1
        let b2 := (exDiv (det3 e1 s nd) det).1
        let t := (exDiv (det3 e1 e2 s) det).1
        let zero : Ex := .zero false
        if exLe zero b1 && exLe zero b2 && exLe (exAdd .rne b1 b2).1 (exOfInt 1) && exLe (f32 r.tmin) t && exLt t (f32 r.tmax) then some (t, b1, b2)
        else none

/-- Vertex k of a primitive. -/
def primVertex (p k : Nat) : V3 :=
  let w (j : Nat) : Ex := dec fF32 false (fld p (32 * (3 * k + j)) 32)
  (w 0, w 1, w 2)

/-- A primitive's opacity (14 R307). -/
def primOpaque (l p : Nat) : Bool := lyPkind l == 0 || p.testBit 320

/-! ### The ray-state record (14 R310, R311) -/

/-- The flags N, H, E, A, T, lowest first. -/
def Ray.flags (r : Ray) : Nat := bN r.fN + 2 * bN r.fH + 4 * bN r.fE + 8 * bN r.fA + 16 * bN r.fT

/-- The 256 bytes of a record with a STATUS and a CAUSE. -/
def Ray.image (r : Ray) (status cause : Nat) : Nat :=
  packElems 32 ([r.ox, r.oy, r.oz, r.dx, r.dy, r.dz, r.tmin, r.tmax, r.ht, r.hprim, r.hb1, r.hb2].map BitVec.toNat)
    + at_ r.hnode.toNat 384 + at_ r.cur.toNat 448 + at_ r.root.toNat 512 + at_ r.kh.toNat 576 + at_ (r.prog % 16) 640 + at_ (r.mpc % 64) 644
    + at_ (status % 16) 650 + at_ (r.sp % 32) 654 + at_ (bN r.hv) 659 + at_ (bN r.blim) 660 + at_ r.flags 661 + at_ (r.cnt % 256) 666
    + at_ (r.lidx % 64) 674 + at_ (r.lcnt % 64) 680 + at_ (bN r.copq) 686 + at_ (r.steps % 2 ^ 32) 704 + at_ (r.budget % 2 ^ 16) 736
    + at_ (cause % 256) 752 + at_ (packElems 32 ([r.ct, r.cprim, r.cb1, r.cb2].map BitVec.toNat)) 768 + at_ r.cord.toNat 896
    + at_ (r.cnum % 16) 920 + at_ (packElems 64 (r.stack.toList.map BitVec.toNat)) 1024

/-- A record that keeps its table: reserved bits zero, SP and CNUM in range. -/
def rayRecOk (b : Nat) : Bool :=
  fld b 687 17 == 0 && fld b 760 8 == 0 && fld b 924 100 == 0 && decide (fld b 654 5 ≤ 16) && decide (fld b 920 4 ≤ 8)

/-- The fields a record gives a ray. -/
def Ray.load (r : Ray) (b : Nat) : Ray :=
  let w (j : Nat) : Lane := BitVec.ofNat 32 (fld b (32 * j) 32)
  let d (lo : Nat) : Word := BitVec.ofNat 64 (fld b lo 64)
  { r with
    ox := w 0, oy := w 1, oz := w 2, dx := w 3, dy := w 4, dz := w 5, tmin := w 6, tmax := w 7, ht := w 8, hprim := w 9, hb1 := w 10, hb2 := w 11
    hnode := d 384, cur := d 448, root := d 512, kh := d 576, prog := fld b 640 4, mpc := fld b 644 6, sp := fld b 654 5
    hv := b.testBit 659, blim := b.testBit 660, fN := b.testBit 661, fH := b.testBit 662, fE := b.testBit 663, fA := b.testBit 664, fT := b.testBit 665
    cnt := fld b 666 8, lidx := fld b 674 6, lcnt := fld b 680 6, copq := b.testBit 686, steps := fld b 704 32, budget := fld b 736 16
    ct := w 24, cprim := w 25, cb1 := w 26, cb2 := w 27, cord := BitVec.ofNat 24 (fld b 896 24), cnum := fld b 920 4
    stack := Vector.ofFn (fun e : Fin 16 => d (1024 + 64 * e.val)) }

/-! ### Finding rays and programs -/

def State.findRay (s : State) (id : Nat) : Option Ray := s.rays.find? (fun r => r.id == id)

def State.putRay (s : State) (r : Ray) : State := { s with rays := modFirst (fun (x : Ray) => x.id == r.id) (fun _ => r) s.rays }

def State.findProgram (s : State) (ctx slot : Nat) : Option Program := s.programs.find? (fun p => p.ctx == ctx && p.slot == slot)

/-- Ray slots of a Lantern (spec/00_scope.md R1). -/
def raySlots : Nat := 1024

/-- Free slots of a core's Lantern; a ray saved with its group holds none. -/
def State.rayRoom (s : State) (core : Nat) : Nat :=
  raySlots - (s.rays.filter (fun r => coreKey r.cluster r.core == core && !r.rest)).length

/-- A record of a ray's fault, by the address of its ray-state record (17 R363). -/
def rayFaultRec (s : State) (r : Ray) (acc va : Nat) (p : PFault) : State :=
  let a := r.addr.toNat
  let n := ((s.raySeq.find? (fun (k, _) => k == a)).map Prod.snd).getD 0 + 1
  let s' := { s with raySeq := (a, n) :: s.raySeq.filter (fun (k, _) => k != a) }
  postFaults s' r.ctx [engineRec s' 5 r.ctx acc va 0 a n p]

/-! ### Leaving the Lantern (14 R310, R314 to R316) -/

/-- The RESULT words a ray leaves with (14 R316). -/
def Ray.result (r : Ray) (status : Nat) : Vector Lane 4 :=
  let lo := r.addr.setWidth 32
  let hi := (r.addr >>> 32).setWidth 32
  match status with
  | 4 => #v[r.ht, 0xFFFFFFFE, lo, hi]
  | 5 => #v[r.ht, 0xFFFFFFFD, lo, hi]
  | _ => if r.hv then #v[r.ht, r.hprim, r.hb1, r.hb2] else #v[0x7F800000, 0xFFFFFFFF, 0, 0]

/-- The writes of a record: all of it, or what a ray that ends writes. -/
def Ray.writes (r : Ray) (status cause : Nat) : List (Nat × Nat × Nat) :=
  let b := r.image status cause
  if status ≥ 4 then [(r.addr.toNat, 256, b)] else [(r.addr.toNat + 32, 16, fld b 256 128), (r.addr.toNat + 80, 8, fld b 640 64)]

/-- Writes of the Ocris one after another, all or none. -/
def writeAll (c : Nat) : List (Nat × Nat × Nat) → State → Except (Nat × PFault) State
  | [], s => .ok s
  | (va, n, v) :: rest, s =>
    match s.ctxWrite c va n v with
    | .error e => .error e
    | .ok s' => writeAll c rest s'

/-- The RSUSPs that count a ray are told that it has gone, and whether it was suspended (14 R318). -/
def tellRsusp (s : State) (ray : Nat) (suspended : Bool) : State :=
  let told (x : FragWait) : FragWait :=
    { x with rsusp := x.rsusp.map (fun (ids, n) =>
      if ids.contains ray then (ids.filter (· != ray), if suspended then n + 1 else n) else (ids, n)) }
  { s with wicks := s.wicks.map (fun (w : Wick) => { w with frags := w.frags.map (fun (g : Frag) => { g with wait := told g.wait }) }) }

/-- The work of a ray's own writes (17 R423). -/
def rayWork (r : Ray) : Nat := 2 ^ 40 + r.id

/-- The reference a ray holds on its handle is released when it ends (14 R316). -/
def dropKh (s : State) (r : Ray) : State := if s.handleValid r.ctx r.kh then s.release r.ctx r.kh else s

/-- A ray leaves: its record is written, then its slot is free and its continuation record final. A page that fails holds the
ray in its slot (17 R423). -/
def leaveRay (s : State) (r : Ray) (status cause : Nat) : State :=
  match writeAll r.ctx (r.writes status cause) s with
  | .error (va, p) =>
    let s1 := s.putRay { r with leaving := some (status, cause) }
    onStop s1 r.ctx (rayWork r) 1 va (fun s => rayFaultRec s r 1 va p)
  | .ok s1 =>
    let s2 : State := { s1 with rays := s1.rays.filter (fun x => x.id != r.id) }
    let s3 := if status < 4 then dropKh s2 r else s2
    updateBands ((tellRsusp s3 r.id (status == 4)).finalize r.cont (r.result status)) r.pkt

/-- A ray faults, with MPC on the microinstruction concerned (14 R315). -/
def faultRay (s : State) (r : Ray) (cause : Nat) : State := leaveRay s r 5 cause

/-- A fetch met a page fault: its record, then the fault PAGE (14 R315). -/
def pageRay (s : State) (r : Ray) (va : Nat) (p : PFault) : State := faultRay (rayFaultRec s r 0 va p) r 1

/-! ### Microinstructions (14 R312 to R314, R317) -/

/-- A fetch of n bytes by a ray; those of a target of its own pass are free values (14 R297). -/
def rayFetch (s : State) (r : Ray) (va n : Nat) : Except (Nat × PFault) Nat × State :=
  match xlatePieces s r.ctx false ⟨0, 0, 0⟩ (pages (va % 2 ^ 64) n) with
  | (.error e, s') => (.error e, s')
  | (.ok ps, s') => (.ok (s'.wildVal r.pkt (va % 2 ^ 64) n (leVal (readPieces s'.mem ps))), s')

/-- A ray at a suspension point: before NODE, PRIM or CALLK, or where a verdict has just reached it (14 R314). -/
def Ray.atPoint (s : State) (r : Ray) : Bool :=
  r.waits.isNone && r.leaving.isNone && (r.verdict.isSome || match s.findProgram r.ctx r.prog with
    | some p => (match p.code[r.mpc]? with
      | some w => let m := fld w 27 5; m == 0 || m == 6 || m == 8
      | none => false)
    | none => false)

/-- A ray between two microinstructions goes on at pc. -/
def Ray.go (r : Ray) (mpc : Nat) : Ray := { r with mpc := mpc, micros := r.micros + 1, verdict := none }

/-- A ray goes on at the next microinstruction. -/
def Ray.nextM (r : Ray) : Ray := r.go (r.mpc + 1)

/-- The write a leaving ray waits for is tried again, once its recheck has succeeded (17 R423). -/
def retryLeave (s : State) (r : Ray) : State :=
  match r.leaving with
  | some (status, cause) => s.unlessStopped r.ctx (rayWork r) fun s => leaveRay s { r with leaving := none } status cause
  | none => s

/-- The turn of a ray's microinstruction: what comes before its own effect. A ray that waits for a verdict, or is brought to
rest at a suspension point, does nothing. -/
def microStep (s : State) (body : State → Ray → Program → State) : Host.Outcome State Fault Refusal :=
  match s.cur with
  | .ray id =>
    match s.findRay id with
    | none => .fault .noRay
    | some r =>
      .next (
        if r.leaving.isSome then retryLeave s r
        else if r.waits.isSome || (r.rest && r.atPoint s) then s
        else
          match s.findProgram r.ctx r.prog with
          | none => faultRay s r 5
          | some p =>
            if r.mpc ≥ p.code.length then faultRay s r 5
            else if r.micros ≥ 4096 then faultRay s r 6
            else body s r p)
  | _ => .fault .noRay

/-- A microinstruction that touches only its ray. -/
def microRay (s : State) (f : Ray → Ray) : Host.Outcome State Fault Refusal := microStep s (fun s r _ => s.putRay (f r).nextM)

/-- The ray a suspension point of which is reached under a pending RSUSP leaves there (14 R314). -/
def atSuspend (s : State) (r : Ray) (go : State) : State := if r.suspend then leaveRay s r 4 0 else go

/-- The cause of an illegal CUR for what needs a node or a leaf (14 R313). -/
def refCause (want : RefKind) (r : Word) : Option Nat :=
  let k := refKind r
  if k = want then none else if k = .null || k = .bad then some 7 else some 5

/-- NODE: suspension by budget is checked before anything else. -/
def nodeBody (s : State) (r : Ray) (p : Program) : State :=
  atSuspend s r (
    if r.blim && r.budget == 0 then leaveRay s r 4 0
    else
      match refCause .node r.cur with
      | some c => faultRay s r c
      | none =>
        match rayFetch s r r.cur.toNat (lyNodeBytes p.layout) with
        | (.error (va, f), s') => pageRay s' r va f
        | (.ok b, s') =>
          s'.putRay { r with
            node := some (r.cur.toNat, b), boxes := none, steps := (r.steps + 1) % 2 ^ 32, budget := if r.blim then r.budget - 1 else r.budget
            fN := false, micros := 0, mpc := r.mpc + 1, verdict := none })

def execMNode (s : State) : Host.Outcome State Fault Refusal := microStep s nodeBody

/-- BOXN: the hit children with their entry values. -/
def boxnBody (s : State) (r : Ray) (p : Program) : State :=
  match r.node with
  | none => faultRay s r 5
  | some (_, b) =>
    let cs := (List.range (lyNch p.layout)).filter (fun j => refKind (childRef p.layout b j) != .null)
    if cs.any (fun j => refKind (childRef p.layout b j) == .bad) then faultRay s r 7
    else s.putRay { r with boxes := some (cs.filterMap (fun j => (boxHit r (boxCoord p.layout b j)).map (fun e => (j, e)))) }.nextM

def execMBoxn (s : State) : Host.Outcome State Fault Refusal := microStep s boxnBody

/-- A child placed behind those whose entry value is not above its own. -/
def insertHit (x : Nat × Lane) : List (Nat × Lane) → List (Nat × Lane)
  | [] => [x]
  | y :: ys => if exLt (f32 x.2) (f32 y.2) then x :: y :: ys else y :: insertHit x ys

/-- Hit children by entry value, the lower child first on a tie. -/
def sortHits (l : List (Nat × Lane)) : List (Nat × Lane) := l.foldl (fun acc x => insertHit x acc) []

def orderBody (s : State) (r : Ray) (_p : Program) : State :=
  match r.boxes with
  | none => faultRay s r 5
  | some hs =>
    let cs := (sortHits hs).map Prod.fst
    s.putRay { r with cord := BitVec.ofNat 24 (packElems 3 cs), cnum := cs.length, fN := cs.isEmpty }.nextM

def execMOrder (s : State) : Host.Outcome State Fault Refusal := microStep s orderBody

/-- Entry n of CORD. -/
def Ray.child (r : Ray) (n : Nat) : Nat := fld r.cord.toNat (3 * n) 3

/-- References pushed one after another. -/
def Ray.push (r : Ray) : List Word → Ray
  | [] => r
  | x :: xs => ({ r with stack := r.stack.setIfInBounds r.sp x, sp := r.sp + 1 } : Ray).push xs

/-- The node at CUR as PUSHC reads it: that fetched since the last resumption, or fetched again (14 R313). -/
def pushNode (s : State) (r : Ray) (p : Program) : Except (Nat × PFault) Nat × State :=
  match r.node with
  | some (a, b) => if a = r.cur.toNat then (.ok b, s) else rayFetch s r r.cur.toNat (lyNodeBytes p.layout)
  | none => rayFetch s r r.cur.toNat (lyNodeBytes p.layout)

/-- PUSHC. -/
def pushcBody (s : State) (r : Ray) (p : Program) : State :=
  if r.cnum = 0 then s.putRay { r with fN := true }.nextM
  else
    match refCause .node r.cur with
    | some c => faultRay s r c
    | none =>
      match pushNode s r p with
      | (.error (va, f), s') => pageRay s' r va f
      | (.ok b, s') =>
        let js := (List.range r.cnum).map r.child
        let refs := js.map (childRef p.layout b)
        if js.any (fun j => decide (j ≥ lyNch p.layout)) || refs.any (fun x => refKind x == .bad) then faultRay s' r 7
        else if r.sp + r.cnum - 1 > 16 then faultRay s' r 4
        else
          let r1 : Ray := { r with node := some (r.cur.toNat, b) }
          s'.putRay { r1.push (refs.drop 1).reverse with cur := refs.head?.getD 0, fN := false, cnum := 0 }.nextM

def execMPushc (s : State) : Host.Outcome State Fault Refusal := microStep s pushcBody

/-- POP. -/
def Ray.pop (r : Ray) : Ray :=
  if r.sp = 0 then { r with fN := true } else { r with sp := r.sp - 1, cur := r.stack[r.sp - 1]?.getD 0, fN := false }

def execMPop (s : State) : Host.Outcome State Fault Refusal := microRay s Ray.pop

/-- LEAF. -/
def leafBody (s : State) (r : Ray) (_p : Program) : State :=
  match refCause .leaf r.cur with
  | some c => faultRay s r c
  | none => s.putRay { r with lidx := 0, lcnt := leafCount r.cur, fE := false, fH := false }.nextM

def execMLeaf (s : State) : Host.Outcome State Fault Refusal := microStep s leafBody

/-- The test of the primitive whose bytes are b. -/
def Ray.tryPrim (r : Ray) (l b : Nat) : Ray :=
  let r1 := { r with copq := primOpaque l b, lidx := r.lidx + 1, fE := r.lidx + 1 == r.lcnt }
  match triHit (lyBfcull l) r (primVertex b 0) (primVertex b 1) (primVertex b 2) with
  | some (t, b1, b2) => { r1 with fH := true, ct := toF32 .rne t, cb1 := toF32 .rne b1, cb2 := toF32 .rne b2, cprim := BitVec.ofNat 32 (fld b 288 32) }
  | none => { r1 with fH := false }

/-- PRIM. -/
def primBody (s : State) (r : Ray) (p : Program) : State :=
  atSuspend s r (
    if r.lidx = r.lcnt then s.putRay { r with fH := false, fE := true }.nextM
    else
      match refCause .leaf r.cur with
      | some c => faultRay s r c
      | none =>
        match rayFetch s r (leafAddr r.cur + r.lidx * lyPstride p.layout) (lyPrimBytes p.layout) with
        | (.error (va, f), s') => pageRay s' r va f
        | (.ok b, s') => s'.putRay (r.tryPrim p.layout b).nextM)

def execMPrim (s : State) : Host.Outcome State Fault Refusal := microStep s primBody

/-- The action commit (14 R313). -/
def Ray.commit (r : Ray) : Ray :=
  if r.fH then
    { r with ht := r.ct, hprim := r.cprim, hb1 := r.cb1, hb2 := r.cb2, hnode := BitVec.ofNat 64 (leafAddr r.cur), tmax := r.ct, hv := true, fH := false }
  else r

/-- HIT. -/
def Ray.hit (r : Ray) : Ray := if r.fH && r.copq then { r with fA := true }.commit else { r with fA := false }

def execMHit (s : State) : Host.Outcome State Fault Refusal := microRay s Ray.hit

/-- The KIND 6 record of a ray's candidate (14 R317). -/
def callkRec (s : State) (r : Ray) (slot : Nat) (pc : Word) : ContRec :=
  let from_ := s.conts.find? (fun (c : ContRec) => c.uid == r.cont)
  let vals := [r.ct, r.cprim, r.cb1, r.cb2, r.addr.setWidth 32, (r.addr >>> 32).setWidth 32]
  { uid := s.nextUid, ctx := r.ctx, pkt := r.pkt, slot := slot, cpc := pc, rank := (from_.map ContRec.rank).getD r.rank,
    lane := (from_.map ContRec.lane).getD 0, kind := 6, lmask := 0x3F, tile := from_.bind ContRec.tile, handle := r.kh,
    vals := Vector.ofFn (fun j : Fin 16 => vals[j.val]?.getD 0), lseq := (from_.map ContRec.lseq).getD 0, ray := some r.id,
    cluster := r.cluster, core := r.core }

/-- CALLK: without a candidate or a handle it answers at once; else the candidate waits for its verdict, and the ray for a
record while the pool is full. -/
def callkBody (s : State) (r : Ray) (_p : Program) : State :=
  atSuspend s r (
    if !r.fH then s.putRay { r with fA := false, fT := false }.nextM
    else if r.kh = 0 then s.putRay { r with fA := true, fT := false }.nextM
    else if (s.handleFault r.ctx r.kh true).isSome then faultRay s r 3
    else
      match (s.poolFree r.ctx 1).head? with
      | none => s
      | some slot =>
        let c := callkRec s r slot (s.handleEntry r.ctx r.kh).pc
        let s1 : State := { s with nextUid := s.nextUid + 1, conts := s.conts ++ [c] }
        (s1.putRay { r with waits := some s.now }).finalize c.uid (Vector.replicate 4 0))

def execMCallk (s : State) : Host.Outcome State Fault Refusal := microStep s callkBody

def execMAccept (s : State) : Host.Outcome State Fault Refusal := microRay s Ray.commit

def execMIgnore (s : State) : Host.Outcome State Fault Refusal := microRay s (fun r => { r with fH := false })

/-- SETT; SEL 3 is illegal when met. -/
def settBody (sel : BitVec 2) (s : State) (r : Ray) (_p : Program) : State :=
  match sel.toNat with
  | 0 => s.putRay (if r.fH then { r with tmax := r.ct } else r).nextM
  | 1 => s.putRay (if r.fH then { r with tmin := r.ct } else r).nextM
  | 2 => s.putRay (if r.hv then { r with tmax := r.ht } else r).nextM
  | _ => faultRay s r 5

def execMSett (sel : BitVec 2) (s : State) : Host.Outcome State Fault Refusal := microStep s (settBody sel)

def execMJmp (target : BitVec 6) (s : State) : Host.Outcome State Fault Refusal := microStep s (fun s r _ => s.putRay (r.go target.toNat))

/-- A JIF condition; codes 8 to 15 are invalid. -/
def Ray.cond (r : Ray) (c : Nat) : Option Bool :=
  match c with
  | 0 => some (refKind r.cur == .leaf)
  | 1 => some r.fN
  | 2 => some r.fH
  | 3 => some r.fE
  | 4 => some r.fA
  | 5 => some r.fT
  | 6 => some (r.cnt == 0)
  | 7 => some r.hv
  | _ => none

def jifBody (neg : Bool) (cond : BitVec 4) (target : BitVec 6) (s : State) (r : Ray) (_p : Program) : State :=
  match r.cond cond.toNat with
  | none => faultRay s r 5
  | some b => s.putRay (if b != neg then r.go target.toNat else r.nextM)

def execMJif (neg : Bool) (cond : BitVec 4) (target : BitVec 6) (s : State) : Host.Outcome State Fault Refusal :=
  microStep s (jifBody neg cond target)

/-- CNT; OP 3 is illegal when met. -/
def cntBody (op : BitVec 2) (value : BitVec 8) (s : State) (r : Ray) (_p : Program) : State :=
  match op.toNat with
  | 0 => s.putRay { r with cnt := value.toNat }.nextM
  | 1 => s.putRay { r with cnt := r.cnt - 1 }.nextM
  | 2 => s.putRay { r with cnt := min (r.cnt + 1) 255 }.nextM
  | _ => faultRay s r 5

def execMCnt (op : BitVec 2) (value : BitVec 8) (s : State) : Host.Outcome State Fault Refusal := microStep s (cntBody op value)

def execMTerm (s : State) : Host.Outcome State Fault Refusal := microStep s (fun s r _ => leaveRay s r 3 0)

def execMDone (s : State) : Host.Outcome State Fault Refusal := microStep s (fun s r _ => leaveRay s r 2 0)

/-- The turn of a ray whose MPC names no microinstruction (14 R311). -/
def microNone (s : State) : Host.Outcome State Fault Refusal := microStep s (fun s r _ => faultRay s r 5)

/-- The word at a ray's MPC. -/
def State.microWord (s : State) (id : Nat) : Option (BitVec 32) :=
  match s.findRay id with
  | none => none
  | some r => ((s.findProgram r.ctx r.prog).bind (fun p => p.code[r.mpc]?)).map (BitVec.ofNat 32)

/-! ### The ray instructions (14 R316, R318 to R320) -/

/-- The ray of one lane of a TRACE. -/
def traceRay (w : Wick) (cx : Cx) (o : OpX) (lane cont id : Nat) : Ray :=
  let x (j : Nat) : Lane := (w.rdV (o.a.toNat + j)).lane lane
  let root := w.rdS cx.f o.b.toNat
  let budget := fld o.flags.toNat 4 11
  { id := id, ctx := w.info.ctx, cluster := w.info.cluster, core := w.info.core, pkt := w.info.pkt, rank := w.info.rank, uid := w.info.uid,
    cont := cont, addr := w.rdS cx.f (o.b.toNat + 1) + BitVec.ofNat 64 (256 * lane), ox := x 0, oy := x 1, oz := x 2, dx := x 3, dy := x 4,
    dz := x 5, tmin := x 6, tmax := x 7, cur := root, root := root, kh := w.rdK o.c.toNat, prog := fld o.flags.toNat 0 4,
    blim := budget != 0, budget := budget }

/-- The rays of some lanes with the records they leave. -/
def addRays (mk : Nat → Nat → Nat → Ray) : List (Nat × Nat) → State → State
  | [], s => s
  | (lane, cont) :: rest, s => addRays mk rest { s with nextUid := s.nextUid + 1, rays := s.rays ++ [mk lane cont s.nextUid] }

/-- TRACE: the checks of R316, the references of 13 R265, room in the pool and the Lantern, and then its rays. -/
def traceBody (s : State) (w : Wick) (cx : Cx) (i : Instr) (o : OpX) : Eff :=
  let kh := w.rdK o.c.toNat
  let lanes := lanesOf cx.act
  let held := s.handleValid w.info.ctx kh
  if cx.act = 0 then .next s
  else if !liveMaskOk w o.imm then .trap { cause := 0x06 }
  else if !runOk w o.a.toNat 8 || o.b.toNat % 2 != 0 then .trap { cause := 0x24 }
  else if (s.findProgram w.info.ctx (fld o.flags.toNat 0 4)).isNone then .trap { cause := 0x24 }
  else if (w.rdS cx.f (o.b.toNat + 1)).toNat % 256 != 0 then .trap { cause := 0x24 }
  else if held && !s.refRoom w.info.ctx kh lanes.length then .trap { cause := 0x1E, mask := cx.act, val := kh }
  else if s.rayRoom w.info.coreId < lanes.length then .wait 8
  else
    match s.pushConts w lanes 1 (fun _ => pcNext cx.pc) (fun _ => 0) (o.imm.setWidth 16) with
    | none => .wait 8
    | some (s1, recs) =>
      let s2 := if held then s1.addRef w.info.ctx kh lanes.length else s1
      leaveLanes (addRays (traceRay w cx o) recs s2) w cx i cx.act

def execTrace (h : Hdr) (o : OpX) (s : State) : Host.Outcome State Fault Refusal := wickStep (.trace h o) s (fun s w cx => traceBody s w cx (.trace h o) o)

/-- The rays an RSUSP covers. -/
def suspRange (s : State) (c : Nat) (lo len : Word) : List Nat :=
  (s.rays.filter (fun r => r.ctx == c && decide (lo.toNat ≤ r.addr.toNat) && decide (r.addr.toNat < lo.toNat + len.toNat))).map Ray.id

/-- RSUSP marks its rays once, and its fragment waits until each has gone. -/
def rsuspBody (s : State) (w : Wick) (cx : Cx) (o : OpX) : Eff :=
  if cx.act = 0 then .next s
  else
    match (w.frag cx.f).wait.rsusp with
    | some ([], n) => .next (s.putWick ((w.modWait cx.f (fun x => { x with rsusp := none })).wrS cx.f o.d.toNat (BitVec.ofNat 64 n)))
    | some _ => .wait 9
    | none =>
      match suspRange s w.info.ctx (w.rdS cx.f o.a.toNat) (w.rdS cx.f o.b.toNat) with
      | [] => .next (s.putWick (w.wrS cx.f o.d.toNat 0))
      | ids =>
        let s1 : State := { s with rays := s.rays.map (fun (r : Ray) => if ids.contains r.id then { r with suspend := true } else r) }
        .stay (s1.putWick ((w.modWait cx.f (fun x => { x with rsusp := some (ids, 0) })).stalled 9))

def execRsusp (h : Hdr) (o : OpX) (s : State) : Host.Outcome State Fault Refusal := wickStep (.rsusp h o) s (fun s w cx => rsuspBody s w cx o)

/-- Lanes whose records translate for the claim, or every failure (14 R319). -/
def claimable (s : State) (c : Nat) (sl : Bool) : List (Nat × Nat) → List (Nat × Nat × PFault) × State
  | [] => ([], s)
  | (lane, a) :: rest =>
    match xlatePieces s c sl ⟨0, 0, 0⟩ (pages a 256) with
    | (.error (va, p), s1) => let (es, s2) := claimable s1 c sl rest; ((lane, va, p) :: es, s2)
    | (.ok _, s1) =>
      match xlatePieces s1 c sl ⟨2, 3, 0x0E⟩ [(a + 80, 8)] with
      | (.error (va, p), s2) => let (es, s3) := claimable s2 c sl rest; ((lane, va, p) :: es, s3)
      | (.ok _, s2) => claimable s2 c sl rest

/-- The claim of one lane: the ray, or the refusal's first word. -/
def claimLane (s : State) (c pkt a : Nat) : (Nat ⊕ Nat) × State :=
  if a % 256 ≠ 0 then (.inr 1, s)
  else
    match s.ctxRead c a 256 with
    | (.error _, s1) => (.inr 0, s1)
    | (.ok raw, s1) =>
      let b := s1.wildVal pkt a 256 raw
      if !rayRecOk b then (.inr 1, s1)
      else if fld b 650 4 != 4 && fld b 650 4 != 5 then (.inr 0, s1)
      else
        match s1.ctxWrite c (a + 80) 8 (setFld (fld b 640 64) 10 4 1) with
        | .error _ => (.inr 0, s1)
        | .ok s2 => (.inl b, s2)

/-- The claims of the lanes of an RRES, in order; each lane's record waits for its ray or holds the refusal. -/
def rresLanes (w : Wick) (o : OpX) (hd : Nat → Word) : List (Nat × Nat) → State → State
  | [], s => s
  | (lane, cont) :: rest, s =>
    let a := hd lane
    match claimLane s w.info.ctx w.info.pkt a.toNat with
    | (.inr k, s1) =>
      rresLanes w o hd rest (s1.finalize cont #v[BitVec.ofNat 32 k, 0xFFFFFFFC, a.setWidth 32, (a >>> 32).setWidth 32])
    | (.inl b, s1) =>
      let budget := fld o.flags.toNat 4 11
      let r : Ray := { id := s1.nextUid, ctx := w.info.ctx, cluster := w.info.cluster, core := w.info.core, pkt := w.info.pkt, rank := w.info.rank,
                       uid := w.info.uid, cont := cont, addr := a }
      rresLanes w o hd rest { s1 with nextUid := s1.nextUid + 1, rays := s1.rays ++ [{ r.load b with blim := budget != 0, budget := budget }] }

/-- RRES: lanes whose record cannot be reached make it fault whole. -/
def rresBody (s : State) (w : Wick) (cx : Cx) (i : Instr) (o : OpX) : Eff :=
  let hd := pairHandle w o
  let lanes := lanesOf cx.act
  let ended := lanes.filter (fun l => decide ((hd l).toNat + 256 > 2 ^ 57))
  if cx.act = 0 then .next s
  else if !liveMaskOk w o.imm then .trap { cause := 0x06 }
  else
    match handleTrap 0x10 hd ended with
    | some t => .trap t
    | none =>
      if s.rayRoom w.info.coreId < lanes.length then .wait 8
      else
        let aligned := (lanes.filter (fun l => (hd l).toNat % 256 == 0)).map (fun l => (l, (hd l).toNat))
        match claimable s w.info.ctx cx.sl aligned with
        | (e :: es, s1) => .fault s1 0 (e :: es) ⟨2, 3, 0x0E⟩ (aligned.map (fun (l, a) => (l, a, 256))) true
        | ([], s1) =>
          match s1.pushConts w lanes 3 (fun _ => pcNext cx.pc) (fun _ => 0) (o.imm.setWidth 16) with
          | none => .wait 8
          | some (s2, recs) => leaveLanes (rresLanes w o hd recs s2) w cx i cx.act

def execRres (h : Hdr) (o : OpX) (s : State) : Host.Outcome State Fault Refusal := wickStep (.rres h o) s (fun s w cx => rresBody s w cx (.rres h o) o)

/-- A microinstruction LNTP installs (14 R312). -/
def microOk (x : Nat) : Bool :=
  match decodeMicro (BitVec.ofNat 32 x) with
  | .ok (.mCnt op v) => op == 0 || v == 0
  | .ok _ => true
  | .error _ => false

/-- A program installed in its slot of a context. -/
def State.install (s : State) (p : Program) : State :=
  { s with programs := p :: s.programs.filter (fun x => !(x.ctx == p.ctx && x.slot == p.slot)) }

/-- LNTP: the operand, the descriptor, the microcode, then the wait for the slot's rays. -/
def lntpBody (s : State) (w : Wick) (cx : Cx) (o : OpX) : Eff :=
  let a := (w.rdS cx.f o.a.toNat).toNat
  let b := (w.rdS cx.f o.b.toNat).toNat
  let c := (w.rdS cx.f o.c.toNat).toNat
  let slot := fld a 0 4
  let len := fld a 8 7
  if cx.act = 0 then .next s
  else if fld a 15 49 != 0 || fld a 4 4 != 0 || len == 0 || len > 64 then .trap { cause := 0x24 }
  else
    withRecord s w cx b 32 (fun s1 l =>
      withRecord s1 w cx c (4 * len) (fun s2 m =>
        if b % 32 != 0 || !layoutOk l then .trap { cause := 0x13, val := BitVec.ofNat 64 b }
        else
          let code := elems 32 len m
          if c % 4 != 0 || !code.all microOk then .trap { cause := 0x13, val := BitVec.ofNat 64 c }
          else if s2.rays.any (fun r => r.ctx == w.info.ctx && r.prog == slot && !r.rest) then .wait 9
          else .next (s2.install ⟨w.info.ctx, slot, l, code⟩))
        [(b, 32)])
      [(c, 4 * len)]

def execLntp (h : Hdr) (o : OpX) (s : State) : Host.Outcome State Fault Refusal := wickStep (.lntp h o) s (fun s w cx => lntpBody s w cx o)

/-! ### Events -/

/-- A ray at a suspension point under a pending RSUSP leaves; one that waits for its record's page tries again. -/
def raySuspension (s : State) (ray : Nat) : State :=
  match s.findRay ray with
  | none => s
  | some r =>
    if r.leaving.isSome then retryLeave s r
    else if r.suspend && !r.rest && r.atPoint s then leaveRay s r 4 0 else s

def execEvRaySuspension (ray : Nat) (s : State) : Host.Outcome State Fault Refusal := .next (raySuspension s ray)

/-- The verdict of a lane: s0[2i+1:2i] (14 R317). -/
def verdictOf (s0 : Word) (lane : Nat) : Nat := fld s0.toNat (2 * lane) 2

/-- A and T as a verdict sets them. -/
def Ray.judged (r : Ray) (v : Nat) : Ray :=
  { ({ r with fA := v == 1 || v == 2, fT := v == 2, waits := none } : Ray).nextM with verdict := some v }

/-- A verdict reaches a waiting ray; under a pending RSUSP the ray is suspended with its CALLK complete (14 R314). -/
def giveVerdict (s : State) (ray v : Nat) : State :=
  match s.findRay ray with
  | none => s
  | some r =>
    if r.waits.isNone then s
    else if r.suspend then leaveRay s (r.judged v) 4 0 else s.putRay (r.judged v)

def verdictArrival (s : State) (wick : Nat) : State :=
  match s.verdicts.find? (fun v => v.uid == wick) with
  | none => s
  | some v =>
    let s1 : State := { s with verdicts := s.verdicts.filter (fun x => x.uid != wick) }
    (v.rays.zipIdx).foldl (fun s (ray, lane) => giveVerdict s ray (verdictOf v.s0 lane)) s1

def execEvVerdictArrival (wick : Nat) (s : State) : Host.Outcome State Fault Refusal := .next (verdictArrival s wick)

/-- The verdict timeout of a context, in core cycles (14 R311, 16 R329 VTMO). -/
def State.verdictTimeout (s : State) (c : Nat) : Nat := s.ctxReg c 0x0E * Config.usCycles

def verdictTimeout (s : State) (ray : Nat) : State :=
  match s.findRay ray with
  | none => s
  | some r =>
    match r.waits with
    | some t => if s.now ≥ t + s.verdictTimeout r.ctx && !r.rest then faultRay s { r with waits := none } 2 else s
    | none => s

def execEvVerdictTimeout (ray : Nat) (s : State) : Host.Outcome State Fault Refusal := .next (verdictTimeout s ray)

def runaway (s : State) (ray : Nat) : State :=
  match s.findRay ray with
  | none => s
  | some r => if r.micros ≥ 4096 && r.leaving.isNone && r.waits.isNone && !r.rest then faultRay s r 6 else s

def execEvRunaway (ray : Nat) (s : State) : Host.Outcome State Fault Refusal := .next (runaway s ray)

end Sys2Proof.Machine
end

