-- ==== Sys2Proof/Machine/Logged.lean ====
section
/-! DEFINITION. A logged instruction (spec/17_translation_and_faults.md R355 to R358, spec/16_privileged_state_and_preemption.md R333,
R343): what it does after issue, the wick as it finds it, and the bytes the lanes of an instruction access (spec/21_debug_trace_power.md
R414). -/

namespace Sys2Proof.Machine

/-! ### The logged instruction's own description -/

/-- What follows issue for every form that can be logged. -/
def loggedBody (i : Instr) : Option (State → Wick → Cx → Eff) :=
  match i with
  | .atom _ o => some (fun s w cx => atomBody s w cx o)
  | .satom _ o => some (fun s w cx => satomBody s w cx o)
  | .cas _ o => some (fun s w cx => casBody s w cx o)
  | .waitm h o => some (fun s w cx => waitmBody s w cx h o)
  | .txl _ o => some (fun s w cx => txlBody s w cx o)
  | .ld _ o => some (fun s w cx => loadBody s w cx o (fun _ => 0))
  | .ldaSeq _ o => some (fun s w cx => loadBody s w cx o (fun i => i * o.sz.bytes))
  | .ldaBcast _ o => some (fun s w cx => bcastBody s w cx o)
  | .lds _ o => some (fun s w cx => ldsBody s w cx o)
  | .st _ o => some (fun s w cx => storeBody s w cx o (laneList w cx o (fun _ => 0)) (storeData w o) false)
  | .sta _ o => some (fun s w cx => storeBody s w cx o (laneList w cx o (fun i => i * o.sz.bytes)) (storeData w o) false)
  | .sts _ o => some (fun s w cx => storeBody s w cx o [(0, laneEa w cx o 0)] (fun _ => (w.rdS cx.f o.d.toNat).toNat % 2 ^ (8 * o.sz.bytes)) true)
  | .bin _ o => some (fun s w cx => binBody s w cx o)
  | .cpy _ o => some (fun s w cx => copyBody s w cx o .plain)
  | .cpyg _ o => some (fun s w cx => copyBody s w cx o .gather)
  | .cpys _ o => some (fun s w cx => copyBody s w cx o .scatter)
  | .cpym _ o => some (fun s w cx => copyBody s w cx o .multicast)
  | .ecrt _ o => some (fun s w cx => ecrtBody s w cx o)
  | .edel _ o => some (fun s w cx => changeBody s w cx o 1)
  | .eadd _ o => some (fun s w cx => changeBody s w cx o 2)
  | .erem _ o => some (fun s w cx => changeBody s w cx o 3)
  | .hres h o => some (fun s w cx => hresBody s w cx h o)
  | .estat _ o => some (fun s w cx => estatBody s w cx o)
  | .ecol h o => some (fun s w cx => ecolBody s w cx h o)
  | .ecnt h o => some (fun s w cx => ecntBody s w cx h o)
  | .eqry _ o => some (fun s w cx => eqryBody s w cx o)
  | .emit _ o => some (fun s w cx => emitBody s w cx o)
  | .lntp _ o => some (fun s w cx => lntpBody s w cx o)
  | .qsub _ o => some (fun s w cx => qsubBody s w cx o)
  | .rres h o => some (fun s w cx => rresBody s w cx (.rres h o) o)
  | .svc h o => some (fun s w cx => svcBody s w cx (.svc h o) o)
  | .tex h o => some (fun s w cx => texBody s w cx (.tex h o) o)
  | .uimask h o => some (fun s w cx => uiForm cx w s (uimaskRun s w cx h o))
  | .uimaskClaim _ o => some (fun s w cx => uiForm cx w s (claimRun s w cx o))
  | .uipendTake _ o => some (fun s w cx => uiForm cx w s (takeRun s w cx o))
  | .uipendPeek _ o => some (fun s w cx => uiForm cx w s (peekRun s w cx o))
  | _ => none

/-! ### The wick as the logged instruction finds it -/

/-- A register given its logged value; a port's is the head of its queue. -/
def Wick.install (f : Nat) (w : Wick) (x : RegName × RegVal) : Wick :=
  match x with
  | (.s n, .w v) => w.wrS f n v
  | (.q n, .w v) => w.wrQ f n (v != 0)
  | (.p n, .w v) => if n < 15 then { w with regs := { w.regs with p := w.regs.p.setIfInBounds n (v.setWidth 32) } } else w
  | (.k n, .w v) => w.wrK n v
  | (.v n, .v r) =>
    if 248 ≤ n && n < 252 then
      { w with books := { w.books with qp := w.books.qp.setIfInBounds (n - 248) [{ lanes := Vector.ofFn (fun i : Fin 32 => r.lane i.val) }] } }
    else w.putV n r
  | _ => w

/-- The wick outside single-lane mode, with the logged sources and ISEQ, and no log in its way. -/
def Wick.atLog (w : Wick) (e : LogEntry) : Wick :=
  let w1 := { w with
    trap := { w.trap with sl := false }
    books := { w.books with log := Vector.replicate 4 {}, svc := none, held := none, iseq := e.iseq } }
  e.srcs.foldl (Wick.install e.frag) w1

/-- The context of the replay: the lanes that have not completed. -/
def Wick.logCx (w : Wick) (e : LogEntry) : Cx := ⟨w.info.uid, e.frag, e.pc, false, (w.frag e.frag).mask, e.active &&& ~~~ e.done, w.live⟩

/-! ### What an instruction of the execute slice accesses -/

/-- An access: lane, virtual address, length; whether it reads and whether it writes. -/
structure Span where
  lane : Nat
  va : Nat
  len : Nat
  rd : Bool
  wr : Bool
  deriving DecidableEq, Repr

/-- The virtual bytes of lanes with their addresses. -/
def spansOf (w : Wick) (o : OpM) (n : Nat) (rd wr : Bool) (ls : List (Nat × Nat)) : List Span :=
  if o.sp == .glob || o.sp == .prv || o.sp == .cst then
    ls.flatMap (fun (i, ea) => (laneRanges w o n i ea).map (fun (va, k) => ⟨i, va, k, rd, wr⟩))
  else []

/-- The appends of a BIN, one after another: the count read and written, and the record's slot or the count of what was dropped (14 R290). -/
def binSpans (acc : EAcc) (r : Nat) : List (Nat × Nat) → State → List Span
  | [], _ => []
  | (i, t) :: rest, s =>
    let a := binAddr r t
    match (do let n ← eRd acc a 4; let _ ← binAppend acc r 0 t; pure n) s with
    | .error _ => []
    | .ok (n, s') =>
      ⟨i, a, 4, true, true⟩ :: (if n < pBincap r then ⟨i, a + 64 * (n + 1), 64, false, true⟩ else ⟨i, a + 4, 4, true, true⟩) :: binSpans acc r rest s'

/-- What an entity instruction reads or writes in its world; before the world's record has been read, nothing. -/
def inWorld (s : State) (w : Wick) (cx : Cx) (f : World → List Span) : List Span :=
  match readWorld ⟨w.info.ctx, false, w.info.pkt⟩ (worldAddr s w) s with
  | .error _ => []
  | .ok (x, _) => if cx.act = 0 then [] else f x

/-- The records an EMIT writes, one for each active lane, and the descriptor it reads (13 R281). -/
def emitSpans (s : State) (w : Wick) (cx : Cx) (o : OpX) (low : Nat) : List Span :=
  let node := (w.rdS cx.f o.b.toNat).toNat % 2 ^ 16
  match s.graphOf w with
  | none => []
  | some g =>
    match readNode g node s with
    | .error _ => []
    | .ok (d, _) =>
      let lanes := lanesOf cx.act
      ⟨low, g.table + 32 * node, 32, true, false⟩ ::
        (lanes.zip (g.freeSlots node d.qcap lanes.length)).map (fun (i, n) => ⟨i, d.qbase + d.recb * n, d.recb, false, true⟩)

/-- The bitmask of a CPYG or the list of a CPYS, whose length its source record gives (07 R187). -/
def listSpans (s : State) (w : Wick) (cx : Cx) (o : OpX) (form : CopyForm) : List (Nat × Nat) :=
  match s.ctxRead w.info.ctx (w.rdS cx.f o.a.toNat).toNat 64 with
  | (.ok r, _) => if shapeOk r then [((w.rdS cx.f o.c.toNat).toNat, auxLen form (parseShape r))] else []
  | (.error _, _) => []

/-- The virtual bytes the lanes of an instruction access (21 R414); an access of no lane in particular is one of the lowest active lane
(log 33). -/
def accessSpans (s : State) (i : Instr) (w : Wick) (cx : Cx) : List Span :=
  let low := ((lanesOf cx.act).head?).getD 0
  let one (o : OpM) (rd wr : Bool) : List Span :=
    if cx.act = 0 then [] else (spansOf w o o.sz.bytes rd wr [(0, laneEa w cx o 0)]).map (fun x => { x with lane := low })
  let reads (l : List (Nat × Nat)) : List Span := if cx.act = 0 then [] else l.map (fun (a, n) => ⟨low, a, n, true, false⟩)
  let records (rs : List Nat) : List Span := reads (rs.map (fun r => ((w.rdS cx.f r).toNat, 64)))
  let queued : List Span := inWorld s w cx (fun x =>
    (lanesOf cx.act).zipIdx.flatMap (fun (i, j) => (changeSpans x false j s).map (fun (a, n) => ⟨i, a, n, false, true⟩)))
  match i with
  | .ld _ o => spansOf w o o.sz.bytes true false (laneList w cx o (fun _ => 0))
  | .ldaSeq _ o => spansOf w o o.sz.bytes true false (laneList w cx o (fun i => i * o.sz.bytes))
  | .ldaBcast _ o | .lds _ o | .waitm _ o => one o true false
  | .st _ o => spansOf w o o.sz.bytes false true (laneList w cx o (fun _ => 0))
  | .sta _ o => spansOf w o o.sz.bytes false true (laneList w cx o (fun i => i * o.sz.bytes))
  | .sts _ o => one o false true
  | .atom _ o | .cas _ o => spansOf w o o.sz.bytes true true (laneList w cx o (fun _ => 0))
  | .satom _ o => one o true true
  | .cpy _ o | .cpym _ o => records [o.a.toNat, o.b.toNat]
  | .cpyg _ o => records [o.a.toNat, o.b.toNat] ++ reads (listSpans s w cx o .gather)
  | .cpys _ o => records [o.a.toNat, o.b.toNat] ++ reads (listSpans s w cx o .scatter)
  | .emit _ o => if cx.act = 0 then [] else emitSpans s w cx o low
  | .tex _ o => reads [((w.rdS cx.f o.b.toNat).toNat, 32)]
  | .lntp _ o => reads [((w.rdS cx.f o.b.toNat).toNat, 32), ((w.rdS cx.f o.c.toNat).toNat, 4 * fld (w.rdS cx.f o.a.toNat).toNat 8 7)]
  | .ecrt _ _ | .edel _ _ | .eadd _ _ | .erem _ _ => queued
  | .ecol h o => inWorld s w cx (fun x =>
      let t := (w.rdS cx.f o.a.toNat).toNat % 2 ^ 16
      reads (if h.sub = 0 then colSpans x t ((w.rdS cx.f o.b.toNat).toNat % 2 ^ 16) s else [(x.tabbase + 64 * t, 64)]))
  | .ecnt h o => inWorld s w cx (fun x =>
      reads (if h.sub = 3 then [(x.base + oSyncno, 4)] else [(x.tabbase + 64 * ((w.rdS cx.f o.a.toNat).toNat % 2 ^ 16), 64)]))
  | .eqry _ o => inWorld s w cx (fun x =>
      let a := (w.rdS cx.f o.a.toNat).toNat
      reads ((a, 32) :: querySpans x a ((w.rdS cx.f o.b.toNat).toNat % 2 ^ 32) s))
  | .qsub _ o => records [o.a.toNat]
  | .bin _ o =>
    let r := ((s.launchOf w).map Launch.pass).getD 0
    let tiles (i : Nat) : List Nat := binTiles r (o.flags.toNat % 4) (fun j => ((w.rdV (o.a.toNat + j)).lane i).toNat)
    binSpans ⟨w.info.ctx, false, w.info.pkt⟩ r ((lanesOf cx.act).flatMap (fun i => (tiles i).map (fun t => (i, t)))) s
  | .hres h o => inWorld s w cx (fun x => (lanesOf cx.act).flatMap (fun i =>
      (hresSpans x (h.sub == 1) (laneHandle w o.a i) (((w.rdV o.b.toNat).lane i).toNat % 2 ^ 16) s).map (fun (a, n) => ⟨i, a, n, true, false⟩)))
  | .estat _ o => inWorld s w cx (fun x => (lanesOf cx.act).flatMap (fun i =>
      (estatSpans x ((w.rdV o.a.toNat).lane i).toNat).map (fun (a, n) => ⟨i, a, n, true, false⟩)))
  | _ => []

/-! ### What an operand-log entry stands for (17 R355, R356, R358) -/

/-- What the accesses of a memory form ask: read, write or atomic, scope and operation (17 R351). -/
def accessKind (i : Instr) : Option (Nat × Nat × Nat) :=
  match i with
  | .ld _ o | .ldaSeq _ o | .ldaBcast _ o | .lds _ o | .waitm _ o => some (0, o.sc.code, 0)
  | .st _ o | .sta _ o | .sts _ o => some (1, o.sc.code, 0)
  | .atom _ o | .satom _ o => some (2, o.sc.code, o.aux.toNat)
  | .cas _ o => some (2, o.sc.code, 0x0E)
  | _ => none

/-- An entry with the bytes its remaining lanes would touch and what they ask: those the instruction's operands give, or those at which the
instruction, tried on the state as it stands, fails. -/
def LogEntry.described (e : LogEntry) (s : State) (w : Wick) (i : Instr) : LogEntry :=
  let w1 := w.atLog e
  let cx := w.logCx e
  match accessKind i with
  | some acc =>
    let foot := (accessSpans s i w1 cx).map (fun x => (x.lane, x.va, x.len))
    let fails (va : Nat) : Bool := (wouldXlate s w.info.ctx false ⟨acc.1, acc.2.1, acc.2.2⟩ va).isSome
    { e with whole := false, acc := acc, foot := foot
             bad := foot.flatMap (fun (l, va, n) => ((pages va n).filter (fun (a, _) => fails a)).map (fun (a, _) => (l, a))) }
  | none =>
    match loggedBody i with
    | none => e
    | some body =>
      match body (s.putWick w1) w1 cx with
      | .fault _ _ bad kind foot whole =>
        { e with whole := whole, acc := (kind.kind, kind.scope, kind.aop), foot := foot, bad := bad.map (fun (l, va, _) => (l, va)) }
      | _ => { e with whole := true, foot := [], bad := [] }

end Sys2Proof.Machine
end

