-- ==== Sys2Proof/Machine/Saved.lean ====
section
/-! DEFINITION. The privileged registers and the images a handler saves and loads
(spec/16_privileged_state_and_preemption.md R329 to R335, R344, spec/01_execution_model.md R26). -/

namespace Sys2Proof.Machine

/-! ### The handler's accesses -/

/-- Bytes read by the handler as plain accesses (16 R325, R332); a failure is the instruction's. -/
def handlerRead (s : State) (w : Wick) (cx : Cx) (va n : Nat) (go : State → Nat → Eff) : Eff := withRecord s w cx va n go

/-- Bytes written by the handler. -/
def handlerWrite (s : State) (w : Wick) (cx : Cx) (va : Nat) (bs : List Byte) (go : State → Eff) : Eff :=
  if va + bs.length > 2 ^ 57 then .trap { cause := 0x10, val := BitVec.ofNat 64 va }
  else
    let (es, ps, s') := resolveRanges s w cx ⟨1, 0, 0⟩ none (pages va bs.length)
    if es.isEmpty then go (s'.storePieces ps bs)
    else .fault s' 0 (es.map (fun (a, p) => (0, a, p))) ⟨1, 0, 0⟩ [(0, va, bs.length)] true

/-! ### Images (16 R331 to R335, 04 R97) -/

/-- Bytes after the tag. -/
def tagLen (tag : Nat) : Nat :=
  match tag with
  | 0 => 4
  | 1 => 8
  | _ => 128

/-- The register an image gives under its tag, in v[n]; none for a tag of 3 or more, or a G or A tag in a narrow register (log 18). -/
def VReg.ofSaved (n tag body : Nat) : Option VReg :=
  match tag with
  | 0 => some (.u (BitVec.ofNat 32 body))
  | 1 => if narrow n then none else some (.a (BitVec.ofNat 32 body) (BitVec.ofNat 32 (body / 2 ^ 32)))
  | 2 => if narrow n then none else some (VReg.ofLanes (fun i => BitVec.ofNat 32 (fld body (32 * i) 32)))
  | _ => none

/-- A translation register read back. -/
def Tx.ofImage (x : Nat) : Tx :=
  { vbase := BitVec.ofNat 57 x, valid := x.testBit 63, pbase := BitVec.ofNat 52 (x / 2 ^ 64), limit := BitVec.ofNat 40 (x / 2 ^ 128),
    rd := x.testBit 168, wr := x.testBit 169, atom := x.testBit 170, home := BitVec.ofNat 2 (x / 2 ^ 171) }

/-- One entry position of a queue image: 128 bytes of lanes and 16 of status; an absent entry is zero (16 R333). -/
def queueSlot (e : Option QEntry) : List Byte :=
  match e with
  | none => List.replicate 144 0
  | some e =>
    e.lanes.toList.flatMap laneBytes
      ++ leBytes 16 (1 + at_ (bN e.faulted) 1 + at_ e.cause.toNat 8 + at_ e.fmask.toNat 16 + at_ e.faddr.toNat 64)

def queueImage (q : List QEntry) : List Byte := (List.range 8).flatMap (fun j => queueSlot q[j]?)

/-- The entries of an image that are VALID, oldest first; an entry keeps the LDQ that stood in its position. -/
def queueOf (old : List QEntry) (x : Nat) : List QEntry :=
  (List.range 8).filterMap (fun j =>
    let b := fld x (1152 * j) 1152
    let st := fld b 1024 128
    if st.testBit 0 then
      some { lanes := Vector.ofFn (fun i : Fin 32 => BitVec.ofNat 32 (fld b (32 * i.val) 32)), faulted := st.testBit 1,
             cause := BitVec.ofNat 8 (fld st 8 8), fmask := BitVec.ofNat 32 (fld st 16 32), faddr := BitVec.ofNat 64 (fld st 64 64),
             ldq := ((old[j]?).map QEntry.ldq).getD 0 }
    else none)

/-- The bytes of a logged source. -/
def RegVal.saved : RegVal → List Byte
  | .w x => leBytes 8 x.toNat
  | .v r => r.saved

/-- An operand-log entry's image, 1,024 bytes (16 R333). -/
def LogEntry.image (e : LogEntry) : List Byte :=
  let head := leBytes 12 e.instr.toNat ++ List.replicate 4 0 ++ leBytes 8 e.pc.toNat ++ leBytes 4 e.done.toNat ++ leBytes 4 e.active.toNat
    ++ leBytes 1 (bN e.valid) ++ leBytes 1 e.frag ++ List.replicate 30 0
  let body := e.srcs.flatMap (fun (_, v) => v.saved)
  (head ++ body ++ List.replicate 1024 0).take 1024

/-- A source read back from an image of n bytes that are left, with the bytes it took: none for a tag of 3 or more; what the image has no
room for keeps the value given beside it (log 18). -/
def sourceOf (r : RegName) (kept : RegVal) (n x : Nat) : Option (RegVal × Nat) :=
  match r with
  | .v _ =>
    let len := tagLen (fld x 0 8)
    if n < 1 + len then some (kept, n)
    else (VReg.ofSaved 0 (fld x 0 8) (fld x 8 (8 * len))).map (fun v => (.v v, 1 + len))
  | _ => some (if n < 8 then (kept, n) else (.w (BitVec.ofNat 64 x), 8))

/-- The sources read back one after another. -/
def sourcesOf (kept : RegName → RegVal) : List RegName → Nat → Nat → Option (List (RegName × RegVal))
  | [], _, _ => some []
  | r :: rest, n, x =>
    match sourceOf r (kept r) n x with
    | none => none
    | some (v, k) => (sourcesOf kept rest (n - k) (x >>> (8 * k))).map (fun l => (r, v) :: l)

/-- An entry after its image is loaded, none where the image is malformed: the header's fields and the sources of the instruction it holds.
What no image holds: the pending marks, which are the instruction's destinations, and stay while the entry is not VALID (17 R359); the
change number's ISEQ, the old entry's; and what the remaining lanes access. -/
def LogEntry.ofImage (old : LogEntry) (s : State) (w : Wick) (x : Nat) : Option LogEntry :=
  let e : LogEntry := { old with
    valid := x.testBit 256, instr := BitVec.ofNat 96 x, pc := BitVec.ofNat 64 (x / 2 ^ 128), done := BitVec.ofNat 32 (x / 2 ^ 192),
    active := BitVec.ofNat 32 (x / 2 ^ 224), frag := fld x 264 3 }
  if !e.valid then some e
  else
    match decode e.instr with
    | .error _ => some { e with srcs := [], foot := [], bad := [], whole := true }
    | .ok i =>
      let kept (r : RegName) : RegVal := ((old.srcs.find? (fun (r', _) => r' == r)).map Prod.snd).getD (w.readName e.frag r)
      (sourcesOf kept i.sources 960 (x >>> 512)).map (fun srcs =>
        ({ e with srcs := srcs, pending := i.writes.eraseDups } : LogEntry).described s w i)

/-! ### Privileged registers (16 R329, R330) -/

/-- STATE of a split-table entry by its code (01 R26). -/
def FragState.code : FragState → Nat
  | .free => 0 | .running => 1 | .waiting => 2 | .parent => 3 | .exited => 4

def FragState.ofCode : Nat → Option FragState
  | 0 => some .free
  | 1 => some .running
  | 2 => some .waiting
  | 3 => some .parent
  | 4 => some .exited
  | _ => none

/-- Word j of a split-table entry (01 R26). -/
def Frag.word (g : Frag) (j : Nat) : Word :=
  match j with
  | 0 => BitVec.ofNat 64 (g.mask.toNat + at_ g.qv.toNat 32 + at_ (g.parent % 8) 48 + at_ g.state.code 51 + at_ (g.level % 16) 54)
  | 1 => g.pc
  | 2 => g.joinPc
  | _ => BitVec.ofNat 64 g.lru

/-- A word written; none when a reserved field or the STATE is malformed (01 R26). -/
def Frag.setWord (g : Frag) (j : Nat) (x : Word) : Option Frag :=
  match j with
  | 0 =>
    match FragState.ofCode (fld x.toNat 51 3) with
    | some st =>
      if x.getLsbD 47 || fld x.toNat 58 6 != 0 then none
      else some { g with mask := x.setWidth 32, qv := (x >>> 32).setWidth 15, parent := fld x.toNat 48 3, state := st, level := fld x.toNat 54 4 }
    | none => none
  | 1 => some { g with pc := x }
  | 2 => some { g with joinPc := x }
  | _ => some { g with lru := x.toNat }

/-- A live entry: one that runs or waits; a parent's mask covers its children's. -/
def Frag.live (g : Frag) : Bool := g.state == .running || g.state == .waiting

/-- No two live entries share a lane (01 R26). -/
def splitOk (fs : Vector Frag 8) : Bool :=
  (List.range 8).all (fun i => (List.range 8).all (fun j =>
    let a : Frag := fs[i]?.getD {}
    let b : Frag := fs[j]?.getD {}
    i == j || !a.live || !b.live || a.mask &&& b.mask == 0))

/-- A word of a serial-list head (16 R329). -/
def SerialRec.word (r : SerialRec) (j : Nat) : Word :=
  match j with
  | 0 => r.e
  | 1 => r.j
  | 2 => BitVec.ofNat 64 (r.u.toNat + at_ r.qv.toNat 32 + at_ (r.owner % 8) 47 + at_ (bN r.phase2) 50)
  | _ => 0

def SerialRec.setWord (r : SerialRec) (j : Nat) (x : Word) : Option SerialRec :=
  match j with
  | 0 => some { r with e := x }
  | 1 => some { r with j := x }
  | 2 =>
    if fld x.toNat 51 13 != 0 then none
    else some { r with u := x.setWidth 32, qv := (x >>> 32).setWidth 15, owner := fld x.toNat 47 3, phase2 := x.getLsbD 50 }
  | _ => if x = 0 then some r else none

/-- The record of an unused position. -/
def blankRec : SerialRec := ⟨0, 0, 0, 0, 0, false, Vector.replicate 16 0, 0, 0⟩

/-- Record r as the registers show it. -/
def Wick.serialAt (w : Wick) (r : Nat) : SerialRec := w.serial[r]?.getD blankRec

/-- The list after record r is replaced: it ends at its last record that is not blank. -/
def Wick.setSerial (w : Wick) (r : Nat) (x : SerialRec) : Wick :=
  let g := w.frag x.owner
  let fresh : SerialRec := { x with all := if r < w.serial.length then x.all else g.mask ||| x.u, cd := if r < w.serial.length then x.cd else g.cd }
  let l := modAt (w.serial ++ List.replicate (16 - w.serial.length) blankRec) r (fun _ => fresh)
  { w with serial := (l.reverse.dropWhile (fun y => y.e == 0 && y.j == 0 && y.u == 0 && y.qv == 0 && y.own == Vector.replicate 16 0)).reverse }

/-- WSTAT (16 R330). -/
def Wick.wstat (w : Wick) : Nat :=
  bN w.trap.sl + 2 * bN w.trap.ppend + 4 * bN w.logPending + 8 * bN w.svcShown.isSome + 16 * bN w.trap.parked

/-- The service-call state, 16 bytes (16 R331 at 0x90). -/
def Wick.svcst (w : Wick) : Nat :=
  match w.svcShown with
  | none => 0
  | some c => 1 + 2 * bN c.pred.isSome + at_ (c.d % 64) 2 + at_ (c.id % 2 ^ 16) 8 + at_ ((c.pred.getD 0).toNat) 64

/-- No call is outstanding but those that others of the wick's fragments wait for. -/
def Wick.dropCall (w : Wick) : Wick :=
  match w.books.svc with
  | some _ => { w with books := { w.books with svc := none } }
  | none =>
    match w.svcWait with
    | some (c, _) => w.modWait c.frag (fun x => { x with svc := none })
    | none => w

/-- SVCST written: a call that is not outstanding is none; one without a prediction waits at its SVC. -/
def Wick.setSvcst (w : Wick) (hi : Bool) (x : Word) : Wick :=
  let old := w.svcShown
  let new := setFld w.svcst (if hi then 64 else 0) 64 x.toNat
  let w1 := w.dropCall
  if !new.testBit 0 then w1
  else
    let c : SvcCall := { d := fld new 2 6, id := fld new 8 16, pred := if new.testBit 1 then some (BitVec.ofNat 64 (new / 2 ^ 64)) else none,
                         token := (old.map SvcCall.token).getD 0, frag := (old.map SvcCall.frag).getD w.trap.tfrag }
    if c.pred.isSome then { w1 with books := { w1.books with svc := some c } } else w1.modWait c.frag (fun x => { x with svc := some (c, none) })

/-- MFPR (16 R329, R344). -/
def prvRead (s : State) (w : Wick) (n : Nat) : Word :=
  if n = 0 then BitVec.ofNat 64 (w.info.ctx % 2 ^ 16 + at_ (s.ctxPart w.info.ctx % 8) 16)
  else if n ≤ 0x011 then BitVec.ofNat 64 (s.ctxReg w.info.ctx n)
  else if n < 0x100 then
    match n with
    | 0x040 => w.trap.tpc
    | 0x041 => w.trap.tnpc
    | 0x042 => w.trap.tcause
    | 0x043 => w.trap.tmask
    | 0x044 => w.trap.tval
    | 0x045 => w.trap.tval2
    | 0x046 => BitVec.ofNat 64 w.trap.tfrag
    | 0x047 => s.wsave w.info
    | 0x048 => BitVec.ofNat 64 w.wstat
    | _ => 0
  else if n < 0x120 then (w.frag ((n - 0x100) / 4)).word ((n - 0x100) % 4)
  else if n < 0x1A0 then (w.frag ((n - 0x120) / 16)).own[(n - 0x120) % 16]?.getD 0
  else if n < 0x1E0 then (w.serialAt ((n - 0x1A0) / 4)).word ((n - 0x1A0) % 4)
  else if n ≤ 0x200 then (w.gen (n - 0x1E0)).setWidth 64
  else if n < 0x250 then w.books.lastArr[n - 0x210]?.getD 0
  else if n < 0x300 then
    match n with
    | 0x250 => w.books.iseq.setWidth 64
    | 0x251 => w.regs.forkser.setWidth 64
    | 0x252 => w.books.mflags.setWidth 64
    | 0x253 => w.books.lastSeal ++ w.books.batch
    | 0x254 => BitVec.ofNat 64 w.svcst
    | 0x255 => BitVec.ofNat 64 (w.svcst / 2 ^ 64)
    | _ => if 0x260 ≤ n ∧ n < 0x270 then (w.books.stall[n - 0x260]?.getD 0).setWidth 64 else 0
  else (w.serialAt ((n - 0x300) / 16)).own[(n - 0x300) % 16]?.getD 0

/-- MTPR of a register of the wick; none when it makes a table malformed (16 R329). -/
def prvWrite (w : Wick) (n : Nat) (x : Word) : Option Wick :=
  if n < 0x040 then some w
  else if n < 0x100 then
    some (match n with
      | 0x040 => { w with trap := { w.trap with tpc := x } }
      | 0x041 => { w with trap := { w.trap with tnpc := x } }
      | 0x042 => { w with trap := { w.trap with tcause := x } }
      | 0x043 => { w with trap := { w.trap with tmask := x } }
      | 0x044 => { w with trap := { w.trap with tval := x } }
      | 0x045 => { w with trap := { w.trap with tval2 := x } }
      | 0x046 => { w with trap := { w.trap with tfrag := x.toNat % 8 } }
      | 0x048 => { w with trap := { w.trap with ppend := x.getLsbD 1 } }
      | _ => w)
  else if n < 0x120 then
    match (w.frag ((n - 0x100) / 4)).setWord ((n - 0x100) % 4) x with
    | some g =>
      let fs := w.frags.setIfInBounds ((n - 0x100) / 4) g
      if splitOk fs then some { w with frags := fs } else none
    | none => none
  else if n < 0x1A0 then some (w.modFrag ((n - 0x120) / 16) (fun g => { g with own := g.own.setIfInBounds ((n - 0x120) % 16) x }))
  else if n < 0x1E0 then
    let r := (n - 0x1A0) / 4
    ((w.serialAt r).setWord ((n - 0x1A0) % 4) x).map (w.setSerial r)
  else if n ≤ 0x200 then some (w.setGen (n - 0x1E0) (x.setWidth 32))
  else if n < 0x250 then some { w with books := { w.books with lastArr := w.books.lastArr.setIfInBounds (n - 0x210) x } }
  else if n < 0x300 then
    some (match n with
      | 0x250 => { w with books := { w.books with iseq := x.setWidth 16 } }
      | 0x251 => { w with regs := { w.regs with forkser := x.setWidth 32 } }
      | 0x252 => { w with books := { w.books with mflags := x.setWidth 4 } }
      | 0x253 => { w with books := { w.books with batch := x.setWidth 32, lastSeal := (x >>> 32).setWidth 32 } }
      | 0x254 => w.setSvcst false x
      | 0x255 => w.setSvcst true x
      | _ => if 0x260 ≤ n ∧ n < 0x270 then { w with books := { w.books with stall := w.books.stall.setIfInBounds (n - 0x260) (x.setWidth 32) } } else w)
  else
    let r := (n - 0x300) / 16
    let y := w.serialAt r
    some (w.setSerial r { y with own := y.own.setIfInBounds ((n - 0x300) % 16) x })

def execMfpr (h : Hdr) (o : OpY) (s : State) : Host.Outcome State Fault Refusal :=
  wickStep (.mfpr h o) s (fun s w cx => .next (s.putWick (w.wrS cx.f o.d.toNat (prvRead s w (o.imm.toNat % 2 ^ 12)))))

/-! ### SAVEV and LOADV (16 R332) -/

/-- The registers a form of SAVEV or LOADV takes. -/
def savevReg (w : Wick) (sub n : Nat) : Bool :=
  match sub with
  | 0 => runOk w n 1
  | 1 => decide (248 ≤ n) && decide (n < 252)
  | _ => n == 0

/-- What SAVEV writes. -/
def savevImage (w : Wick) (sub a e : Nat) : List Byte :=
  match sub with
  | 0 => (w.rdV a).saved
  | 1 => queueImage (w.books.qp[a - 248]?.getD [])
  | _ => (w.books.log[e]?.getD {}).image

def savevBody (s : State) (w : Wick) (cx : Cx) (h : Hdr) (o : OpY) : Eff :=
  let sub := h.sub.toNat
  if !savevReg w sub o.a.toNat then .trap { cause := 0x06 }
  else
    let img := savevImage w sub o.a.toNat (o.imm.toNat % 4)
    handlerWrite s w cx (w.rdS cx.f o.b.toNat).toNat img (fun s' => .next (s'.putWick (w.wrS cx.f o.d.toNat (BitVec.ofNat 64 img.length))))

def execSavev (h : Hdr) (o : OpY) (s : State) : Host.Outcome State Fault Refusal := wickStep (.savev h o) s (fun s w cx => savevBody s w cx h o)

/-- LOADV.REG reads the tag first, and then what the tag asks for. -/
def loadvReg (s : State) (w : Wick) (cx : Cx) (o : OpY) : Eff :=
  let va := (w.rdS cx.f o.a.toNat).toNat
  handlerRead s w cx va 1 (fun s1 tag =>
    if tag ≥ 3 then .trap { cause := 0x13, val := BitVec.ofNat 64 va }
    else
      handlerRead s1 w cx (va + 1) (tagLen tag) (fun s2 body =>
        match VReg.ofSaved o.d.toNat tag body with
        | some r => .next (s2.putWick (w.putV o.d.toNat r))
        | none => .trap { cause := 0x13, val := BitVec.ofNat 64 va }))

def loadvBody (s : State) (w : Wick) (cx : Cx) (h : Hdr) (o : OpY) : Eff :=
  let sub := h.sub.toNat
  let va := (w.rdS cx.f o.a.toNat).toNat
  if !savevReg w sub o.d.toNat then .trap { cause := 0x06 }
  else
    match sub with
    | 0 => loadvReg s w cx o
    | 1 =>
      handlerRead s w cx va 1152 (fun s' x =>
        let q := o.d.toNat - 248
        .next (s'.putWick (Wick.feedTrap { w with books := { w.books with qp := w.books.qp.setIfInBounds q (queueOf (w.books.qp[q]?.getD []) x) } })))
    | _ =>
      handlerRead s w cx va 1024 (fun s' x =>
        let e := o.imm.toNat % 4
        match (w.books.log[e]?.getD {}).ofImage s' w x with
        | some y => .next (s'.putWick { w with books := { w.books with log := w.books.log.setIfInBounds e y } })
        | none => .trap { cause := 0x13, val := BitVec.ofNat 64 va })

def execLoadv (h : Hdr) (o : OpY) (s : State) : Host.Outcome State Fault Refusal := wickStep (.loadv h o) s (fun s w cx => loadvBody s w cx h o)

/-! ### SAVEK (16 R335) -/

/-- The closure block. -/
def closureBlock (w : Wick) : List Byte :=
  w.regs.k.toList.flatMap (fun x => leBytes 8 x.toNat) ++ w.regs.klink.toList.flatMap (fun x => leBytes 8 x.toNat)
    ++ w.regs.fgen.toList.flatMap (fun x => leBytes 2 x.toNat)
    ++ leBytes 8 (2 * packElems 1 (w.regs.kframe.toList.map bN))
    ++ w.frags.toList.flatMap (fun (g : Frag) => leBytes 1 g.cd) ++ List.replicate 48 0

/-- A block that keeps its layout: each CD at most 16, and what is reserved zero. -/
def closureOk (x : Nat) : Bool :=
  (elems 8 8 (x / 2 ^ (8 * 296))).all (fun c => decide (c ≤ 16)) && fld x (8 * 304) (8 * 48) == 0 && fld x (8 * 288) 1 == 0
    && fld x (8 * 288 + 17) 47 == 0

/-- The wick with the registers of a block. -/
def loadClosure (w : Wick) (x : Nat) : Wick :=
  { w with
    regs := { w.regs with
      k := Vector.ofFn (fun i : Fin 16 => BitVec.ofNat 64 (fld x (64 * i.val) 64))
      klink := Vector.ofFn (fun i : Fin 16 => BitVec.ofNat 64 (fld x (1024 + 64 * i.val) 64))
      fgen := Vector.ofFn (fun i : Fin 16 => BitVec.ofNat 16 (fld x (2048 + 16 * i.val) 16))
      kframe := Vector.ofFn (fun i : Fin 16 => x.testBit (8 * 288 + 1 + i.val)) }
    frags := Vector.ofFn (fun i : Fin 8 => let g := w.frag i.val; { g with cd := fld x (8 * 296 + 8 * i.val) 8 }) }

def execSavekSave (h : Hdr) (o : OpY) (s : State) : Host.Outcome State Fault Refusal :=
  wickStep (.savekSave h o) s (fun s w cx => handlerWrite s w cx (w.rdS cx.f o.a.toNat).toNat (closureBlock w) .next)

def savekLoadBody (s : State) (w : Wick) (cx : Cx) (o : OpY) : Eff :=
  let va := (w.rdS cx.f o.a.toNat).toNat
  handlerRead s w cx va 352 (fun s' x =>
    if closureOk x then .next (s'.putWick (loadClosure w x)) else .trap { cause := 0x13, val := BitVec.ofNat 64 va })

def execSavekLoad (h : Hdr) (o : OpY) (s : State) : Host.Outcome State Fault Refusal := wickStep (.savekLoad h o) s (fun s w cx => savekLoadBody s w cx o)

end Sys2Proof.Machine
end

