-- ==== Sys2Proof/Machine/Recheck.lean ====
section
/-! DEFINITION. Rechecks of what waits for a page, MTPR, TLBINV, and the continuing of stopped engine work
(spec/17_translation_and_faults.md R357 to R362, R423; spec/16_privileged_state_and_preemption.md R344, R345;
spec/19_command_processing_and_scheduling.md R390). -/

namespace Sys2Proof.Machine

/-! ### Operand-log entries (17 R358) -/

/-- The byte offset a private address stands for (04 R90). -/
def privOffset (w : Wick) (lane va : Nat) : Nat :=
  let o := w.info.originOf lane
  let d := va - (w.info.pbase.toNat + o.rank * 32 * w.info.psize + 4 * o.lane)
  d / 128 * 4 + d % 128

/-- The entry's instruction accesses private memory. -/
def LogEntry.inPrv (e : LogEntry) : Bool :=
  match decode e.instr with
  | .ok i => (match i.opM with
    | some o => o.sp == .prv
    | none => false)
  | .error _ => false

/-- Bytes of an entry would now translate and pass their checks, private growth first (17 R361). -/
def footOk (s : State) (w : Wick) (e : LogEntry) (x : Nat × Nat × Nat) : Bool :=
  let (lane, va, n) := x
  let k : AccKind := ⟨e.acc.1, e.acc.2.1, e.acc.2.2⟩
  (!e.inPrv || decide (privOffset w lane va + n ≤ s.ctxReg w.info.ctx 0x06))
    && (pages va n).all (fun (a, _) => (wouldXlate s w.info.ctx false k a).isNone)

/-- What a recheck walks (17 R358): every byte of the remaining lanes of an access; of another form the addresses that failed. -/
def LogEntry.walks (e : LogEntry) : List (Nat × Nat × Nat) :=
  let bad := e.bad.map (fun (l, va) => (l, va, 1))
  match decode e.instr with
  | .ok i => if (accessKind i).isSome then e.foot else bad
  | .error _ => bad

/-- An entry's recheck succeeds: some remaining lane would complete, or the whole instruction, or nothing of it would fail any more. -/
def entryReady (s : State) (w : Wick) (e : LogEntry) : Bool :=
  e.valid &&
    (if e.whole then e.walks.all (footOk s w e)
     else e.walks.isEmpty || (e.walks.map Prod.fst).any (fun l => (e.walks.filter (fun x => x.1 == l)).all (footOk s w e)))

/-- TMASK[3:0]: the entries whose recheck succeeds. -/
def readyMask (s : State) (w : Wick) : Nat := packElems 1 (w.books.log.toList.map (fun e => bN (entryReady s w e)))

/-- TMASK[3:0]: every entry that is VALID (17 R358). -/
def validMask (w : Wick) : Nat := packElems 1 (w.books.log.toList.map (fun (e : LogEntry) => bN e.valid))

/-! ### Queue entries and fetches (19 R390, 17 R358) -/

/-- The LDQ of a FAULTED entry, whose failing lanes are not yet performed, and their addresses: that of the lowest is recorded, and each
lane's word is its offset (19 R390). -/
def QEntry.failing (e : QEntry) : Option (OpM × List (Nat × Nat)) :=
  match decode e.ldq with
  | .ok (.ldq _ o) =>
    if !e.faulted || e.fmask == 0 then none
    else
      let ls := lanesOf e.fmask
      let word (i : Nat) : Lane := e.lanes[i]?.getD 0
      let ea (i : Nat) : Nat := (e.faddr - sext32 (word (ls.head?.getD 0)) + sext32 (word i)).toNat
      some ({ o with tx := 7 }, ls.map (fun i => (i, ea i)))
  | _ => none

/-- The failing lanes of a FAULTED queue entry performed again; the entry changes only when all of them succeed. -/
def retryQueue (s : State) (w : Wick) (e : QEntry) : State × Option QEntry :=
  match e.failing with
  | some (o, ls) =>
      let word (i : Nat) : Lane := e.lanes[i]?.getD 0
      let cx : Cx := ⟨w.info.uid, 0, 0, false, e.fmask, e.fmask, w.live⟩
      let (r, vs) := loadLanes w cx o o.sz.bytes ls s
      if r.bad.isEmpty then
        let val (i : Nat) : Lane := match vs.find? (fun (j, _) => j == i) with
          | some (_, v) => BitVec.ofNat 32 (extLoad o 32 v)
          | none => word i
        (r.s, some { e with lanes := Vector.ofFn (fun i : Fin 32 => val i.val), faulted := false, cause := 0, fmask := 0, faddr := 0 })
      else (s, none)
  | none => (s, none)

/-- The entries of a queue tried again, and whether some succeeded. -/
def retryEntries (s : State) (w : Wick) : List QEntry → State × List QEntry × Bool
  | [] => (s, [], false)
  | e :: es =>
    let (s1, r) := retryQueue s w e
    let (s2, es', b) := retryEntries s1 w es
    match r with
    | some e' => (s2, e' :: es', true)
    | none => (s2, e :: es', b)

/-- The fragments whose fetch still fails. -/
def stillNoFetch (s : State) (w : Wick) : List (Nat × Nat) :=
  w.books.fetchFault.filter (fun (_, va) => (wouldXlate s w.info.ctx false ⟨3, 0, 0⟩ va).isSome)

/-- What a wick's fragments wait for is tried again: the parked state, unless the handler asked for it, and the waits end. -/
def Wick.stir (w : Wick) : Wick :=
  { w with
    frags := w.frags.map (fun (g : Frag) => { g with held := false })
    trap := { w.trap with parked := w.trap.parked && w.trap.byPark } }

/-- The queues of a wick tried again. -/
def retryQueues (s : State) (w : Wick) : State × Wick × Bool :=
  (List.range 4).foldl (fun (acc : State × Wick × Bool) n =>
    let (s, w, b) := acc
    let (s', q, b') := retryEntries s w (w.books.qp[n]?.getD [])
    (s', { w with books := { w.books with qp := w.books.qp.setIfInBounds n q } }, b || b')) (s, w, false)

/-- The recheck of a wick: its fetches and queues are settled, and the answer is the mask of replayable entries. -/
def recheckWick (s : State) (uid : Nat) : State × Nat :=
  match s.findWick uid with
  | none => (s, 0)
  | some w0 =>
    let (s1, w1, b) := retryQueues s w0
    let ff := stillNoFetch s1 w1
    let w2 := { w1 with books := { w1.books with fetchFault := ff } }
    let w3 := if b || ff.length < w1.books.fetchFault.length then w2.stir else w2
    (s1.putWick w3, readyMask s1 w3)

/-- The global bytes at which a wick waits, in ranges: the faulting addresses of its logged instructions and of its fetches, and every failing
lane of its queue entries. -/
def faultRanges (w : Wick) : List (Nat × Nat) :=
  w.books.log.toList.flatMap (fun (e : LogEntry) => if e.valid then e.bad.map (fun (_, va) => (va, 1)) else [])
    ++ w.books.fetchFault.map (fun (_, va) => (va, 1))
    ++ w.books.qp.toList.flatMap (fun (q : List QEntry) => q.flatMap (fun e => match e.failing with
      | some (o, ls) => ls.flatMap (fun (i, ea) => laneRanges w o o.sz.bytes i ea)
      | none => []))

/-- A recheck outside the wick's own handler: the entries that succeed are due at its next issue boundary. -/
def recheckOther (s : State) (uid : Nat) : State :=
  match recheckWick s uid with
  | (s', m) =>
    if m = 0 then s'
    else s'.modWick uid (fun w => { w with info := { w.info with resume := some ((w.info.resume.getD 0) ||| BitVec.ofNat 4 m) } })

/-- The wicks of a context that wait at an address that is covered, rechecked; one in single-lane mode is at its ERET. -/
def recheckWicks (s : State) (c : Nat) (covers : Nat → Nat → Bool) : State :=
  ((s.wicks.filter (fun w => w.info.ctx == c && w.info.stage == .resident && !w.trap.sl && (faultRanges w).any (fun (va, n) => covers va n))).map (fun w => w.info.uid)).foldl
    recheckOther s

/-! ### Engine work (17 R360) -/

/-- Where an attempt fails, if it does. -/
def failsAt {α β : Type} (r : Except α β) (va : α → Nat) : Option Nat :=
  match r with
  | .ok _ => none
  | .error e => some (va e)

/-- The works of a context that stopped at a covered address and would not fail there any more are due; at another page that fails they stop
again, and it is recorded. -/
def recheckEngines (s : State) (c : Nat) (covers : Nat → Nat → Bool) : State :=
  let t : State := { s with tlb := [] }
  let ok (stopped : Bool) (ctx va : Nat) (again : Option Nat) : Bool := stopped && ctx == c && covers va 1 && again != some va
  { s with
    copies := s.copies.map (fun (x : Copy) => if ok x.stopped x.ctx x.stopVa (failsAt (deliver t x) Prod.fst) then { x with due := true } else x)
    quants := s.quants.map (fun (x : Quant) =>
      if ok x.stopped x.ctx x.stopVa (failsAt (qStep t x) (fun e => e.2.1)) then { x with due := true } else x)
    flushes := s.flushes.map (fun (x : Flush) =>
      if ok x.stopped x.ctx x.stopVa ((runWrites t x.ctx (x.writes.take 1)).2.2.map Prod.fst) then { x with due := true } else x)
    texels := s.texels.map (fun (x : Texel) =>
      if ok x.stopped x.ctx x.stopVa (failsAt (readTexels t x.ctx (t.contPkt x.record) (texelPlaces x.desc x.u x.v)).1 Prod.fst) then
        { x with due := true } else x) }

/-- The works the Ocris does on its own account whose covered page would now do go on, those that wait first (17 R423). -/
def recheckOwn (s : State) (c : Nat) (covers : Nat → Nat → Bool) : State :=
  let s2 := (freeStops s c covers).flushPosts.flushSends c
  let n := (match s2.findCtx c with
    | some x => x.faults.length + x.traces.length
    | none => 0)
  flushTraces (flushFaults s2 c n) c n

/-- A stopped work whose recheck has succeeded goes on: copies by channel, then quantisation, flushes and texel fetches. -/
def copyContinue (s : State) (work : Nat) : State :=
  if work < 4096 then
    { s with copies := s.copies.map (fun (x : Copy) => if x.chan == work && x.due then { x with stopped := false, due := false } else x) }
  else if work < 8192 then
    { s with quants := s.quants.map (fun (x : Quant) => if x.cluster == work - 4096 && x.due then { x with stopped := false, due := false } else x) }
  else if work < 16384 then
    { s with flushes := s.flushes.map (fun (x : Flush) => if x.core == work - 8192 && x.due then { x with stopped := false, due := false } else x) }
  else
    { s with texels := s.texels.map (fun (x : Texel) => if x.record == work - 16384 && x.due then { x with stopped := false, due := false } else x) }

def execEvCopyContinue (work : Nat) (s : State) : Host.Outcome State Fault Refusal := .next (copyContinue s work)

/-- Records that wait are written while the ring has room (17 R362). -/
def faultRecord (s : State) (c : Nat) : State :=
  match s.findCtx c with
  | some x => flushTraces (flushFaults s c x.faults.length) c x.traces.length
  | none => s

def execEvFaultRecord (ctx : Nat) (s : State) : Host.Outcome State Fault Refusal := .next (faultRecord s ctx)

/-! ### MTPR (16 R344) -/

/-- A launch of the context runs: it has started and has not completed. -/
def State.launchRuns (s : State) (c : Nat) : Bool := s.packets.any (fun p => p.ctx == c && p.launch.isSome && p.started && !p.ended)

/-- HWM written, but that it never falls while a launch of the context runs; every pending entry of the context is rechecked (17 R361,
log 137). -/
def setHwm (s : State) (c : Nat) (x : Word) : State :=
  let x := if s.launchRuns c && decide (x.toNat < s.ctxReg c 0x06) then BitVec.ofNat 64 (s.ctxReg c 0x06) else x
  recheckWicks (s.modCtx c (fun y => { y with regs := y.regs.setIfInBounds 0x06 x })) c (fun _ _ => true)

def mtprBody (s : State) (w : Wick) (cx : Cx) (o : OpY) : Eff :=
  let n := o.imm.toNat % 2 ^ 12
  let x := w.rdS cx.f o.a.toNat
  if n = 0x006 then .next (setHwm s w.info.ctx x)
  else
    match prvWrite w n x with
    | some w' => .next (s.putWick w')
    | none => .trap { cause := 0x13 }

def execMtpr (h : Hdr) (o : OpY) (s : State) : Host.Outcome State Fault Refusal := wickStep (.mtpr h o) s (fun s w cx => mtprBody s w cx o)

/-! ### TLBINV (16 R345, 04 R98) -/

/-- A range has a byte in [lo, hi). -/
def meets (lo hi base len : Nat) : Bool := decide (max lo base < min hi (base + len))

/-- V cleared in a translation register that the range meets. -/
def Tx.drop (lo hi : Nat) (t : Tx) : Tx := if meets lo hi t.vbase.toNat t.limit.toNat then { t with valid := false } else t

/-- V cleared in the translation registers of a wick, those of its access slice among them. -/
def Wick.dropTx (w : Wick) (lo hi : Nat) : Wick :=
  { w with
    regs := { w.regs with tx := w.regs.tx.map (Tx.drop lo hi) }
    access := w.access.map (fun a => { a with tx := a.tx.map (Tx.drop lo hi) }) }

/-- Cached translations that serve a context, in a range, come to an end: for every agent, or for those of the scope's unit. -/
def dropTlb (s : State) (scope : Option Unit_) (c lo hi : Nat) : State :=
  let serves (t : TlbEntry) : Bool := t.ctx == c || (t.entry.testBit 5 && s.ctxPart t.ctx == s.ctxPart c)
  let size (t : TlbEntry) : Nat := leafSize t.lvl
  let base (t : TlbEntry) : Nat := t.vpage * 2 ^ 19 / size t * size t
  let left := if scope.isSome then s.tlb else s.tlb.filter (fun t => !(serves t && decide (lo ≤ base t) && decide (base t + size t ≤ hi)))
  { s with tlb := left.map (fun (t : TlbEntry) => if serves t && meets lo hi (base t) (size t) then { t with dead := ⟨scope, lo, hi⟩ :: t.dead } else t) }

/-- The unit a TLBINV's scope takes in, none at device scope. -/
def tlbScope (w : Wick) (imm : BitVec 32) : Option Unit_ :=
  match imm.toNat % 8 with
  | 1 => some ⟨w.info.cluster, some w.info.core⟩
  | 2 => some ⟨w.info.cluster, none⟩
  | _ => none

/-- The invalidation and the rechecks at its completion. -/
def invalidate (s : State) (scope : Option Unit_) (c lo hi : Nat) : State :=
  let s1 := dropTlb s scope c lo hi
  let s2 : State := { s1 with
    wicks := s1.wicks.map (fun (w : Wick) => if w.info.ctx == c then w.dropTx lo hi else w)
    snaps := s1.snaps.map (fun (w : Wick) => if w.info.ctx == c then w.dropTx lo hi else w) }
  recheckOwn (recheckEngines (recheckWicks s2 c (meets lo hi)) c (meets lo hi)) c (meets lo hi)

def tlbinvBody (s : State) (w : Wick) (cx : Cx) (h : Hdr) (o : OpY) : Eff :=
  if h.sub = 0 then
    let lo := (w.rdS cx.f o.a.toNat).toNat
    .next (invalidate s (tlbScope w o.imm) w.info.ctx lo (lo + (w.rdS cx.f o.b.toNat).toNat))
  else .next (invalidate s (tlbScope w o.imm) w.info.ctx 0 (2 ^ 64))

def execTlbinv (h : Hdr) (o : OpY) (s : State) : Host.Outcome State Fault Refusal := wickStep (.tlbinv h o) s (fun s w cx => tlbinvBody s w cx h o)

end Sys2Proof.Machine
end

