-- ==== Sys2Proof/Machine/Record.lean ====
section
/-! DEFINITION. The engine-state record of QUIESCE: its items, and the reload of a record at a restore
(spec/16_privileged_state_and_preemption.md R336, R340). The spec says what an item of each type holds; where it gives no layout for it the
order of the words is the model's (log 127). -/

namespace Sys2Proof.Machine

/-! ### Items -/

/-- An item: TYPE, the TYPE-specific word, LENGTH and the bytes as one number. -/
structure Item where
  ty : Nat
  word : Nat
  len : Nat
  val : Nat
  deriving DecidableEq, Repr

def Item.bytes (x : Item) : List Byte := leBytes 16 (x.ty % 256 + at_ (x.len % 2 ^ 32) 32 + at_ (x.word % 2 ^ 64) 64) ++ leBytes x.len x.val

/-- Word j of an item's bytes. -/
def Item.at (x : Item) (j : Nat) : Nat := fld x.val (64 * j) 64

/-- An item of words, its length a multiple of 16. -/
def wordItem (ty word : Nat) (l : List Nat) : Item := ⟨ty, word, 16 * cdiv l.length 2, packElems 64 l⟩

/-- A register in 17 words: its shape code and the bytes SAVEV writes after it. -/
def VReg.words (r : VReg) : List Nat := let x := leVal r.saved; (x % 256) :: elems 64 16 (x / 256)

def VReg.ofWords (x : Nat) : VReg := (VReg.ofSaved 0 (fld x 0 64) (x / 2 ^ 64)).getD (.u 0)

/-! ### Matrix instructions -/

/-- A matrix instruction's captured operands, its KDONE and its scales; its token is the item's word. -/
def MInstr.saved (i : MInstr) : List Nat :=
  [i.tile, i.m, i.n, i.kb, i.a, i.b, bN i.abyp + 2 * bN i.wlat + 4 * bN i.scl + 8 * bN i.strm + 16 * bN i.byp + 32 * bN i.rowm + 64 * bN i.satd,
    i.ch, i.wcount, i.bsel, i.sm, i.sn, i.pitch, i.kdone, i.sa.length, i.sb.length] ++ (i.sa ++ i.sb).flatMap VReg.words

def MInstr.loaded (i : MInstr) (x : Item) : MInstr :=
  let f (j : Nat) : Bool := (x.at 6).testBit j
  let regs (from_ n : Nat) : List VReg := (List.range n).map (fun j => VReg.ofWords (fld x.val (64 * (16 + 17 * (from_ + j))) (64 * 17)))
  { i with
    tile := x.at 0, m := x.at 1, n := x.at 2, kb := x.at 3, a := x.at 4, b := x.at 5, abyp := f 0, wlat := f 1, scl := f 2, strm := f 3, byp := f 4
    rowm := f 5, satd := f 6, ch := x.at 7, wcount := x.at 8, bsel := x.at 9, sm := x.at 10, sn := x.at 11, pitch := x.at 12, kdone := x.at 13
    sa := regs 0 (x.at 14), sb := regs (x.at 14) (x.at 15) }

/-! ### Copies and quantisation -/

/-- A shape record as 07 R182 lays it out. -/
def Shape.record (x : Shape) : Nat :=
  x.base.toNat + at_ (packElems 32 x.ext) 64 + at_ (packElems 32 (x.str.map (fun v => wrapI v 32))) 224 + at_ x.pad.toNat 384 + at_ x.esz.log2 448
    + at_ x.ndim 451 + at_ x.space 454 + at_ x.core 457 + at_ x.tx 464

/-- A copy: its two shape records, its bitmask or list address, its bytes delivered, its FLAGS, and what each target of a CPYM has. -/
def Copy.saved (c : Copy) : List Nat :=
  elems 64 8 c.src.record ++ elems 64 8 c.dst.record ++ [c.list, c.pos * c.dst.esz, c.flags] ++ c.ats

/-- The rows a bitmask or list named were read at its issue, and stay. -/
def Copy.loaded (c : Copy) (x : Item) : Copy :=
  let dst := parseShape (fld x.val 512 512)
  let fl := x.at 18
  { c with
    src := parseShape (fld x.val 0 512), dst := dst, list := x.at 16, pos := x.at 17 / dst.esz, flags := fl
    arrive := if fl.testBit 4 then some (fld fl 5 4) else none, detach := fl.testBit 9, callback := if fl.testBit 10 then c.callback else none
    ats := (c.ats.zipIdx).map (fun (_, j) => x.at (19 + j)) }

/-- The item's word of a copy: its sequence number and CH. -/
def Copy.word (c : Copy) : Nat := c.seq % 2 ^ 32 + c.chan % 4 * 2 ^ 32

/-- A quantisation command, its block index, and whether it has seen a NaN or an infinity. -/
def Quant.saved (q : Quant) : List Nat := elems 64 8 q.record ++ [q.block, bN q.special]

def Quant.loaded (q : Quant) (x : Item) : Quant := { q with record := fld x.val 0 512, block := x.at 8, special := (x.at 9).testBit 0 }

/-! ### Rays -/

/-- A ray: its 256-byte state, RUNNING, and its continuation record's address. -/
def rayItem (s : State) (r : Ray) : Item :=
  let cont := match s.conts.find? (fun c => c.uid == r.cont) with
    | some c => s.ctxReg r.ctx 0x09 + 128 * c.slot
    | none => 0
  ⟨4, r.id, 272, r.image 1 0 + at_ cont 2048⟩

def Ray.loaded (s : State) (r : Ray) (x : Item) : Ray :=
  let a := x.at 32
  { r.load x.val with
    cont := match s.conts.find? (fun c => c.ctx == r.ctx && s.ctxReg r.ctx 0x09 + 128 * c.slot == a) with
      | some c => c.uid
      | none => r.cont }

/-! ### Barriers -/

/-- A barrier's state as 07 R196 lays it out. -/
def Barrier.image (b : Barrier) : Nat :=
  b.phase.toNat + at_ b.comp0.toNat 32 + at_ b.comp1.toNat 64 + at_ (b.expw % 512) 96 + at_ (b.expt % 512) 105 + at_ (b.arrw % 512) 114
    + at_ (b.arrt % 512) 123 + at_ (b.isst % 512) 132

def Barrier.ofImage (x : Nat) : Barrier :=
  { phase := BitVec.ofNat 32 x, comp0 := BitVec.ofNat 32 (x / 2 ^ 32), comp1 := BitVec.ofNat 32 (x / 2 ^ 64), expw := fld x 96 9, expt := fld x 105 9,
    arrw := fld x 114 9, arrt := fld x 123 9, isst := fld x 132 9 }

def Band.barriersImage (b : Band) : Nat := packElems 192 (b.barriers.toList.map Barrier.image)

def Band.loaded (b : Band) (x : Item) : Band := { b with barriers := Vector.ofFn (fun i : Fin 16 => Barrier.ofImage (fld x.val (192 * i.val) 192)) }

/-! ### Latches -/

/-- A descriptor of 09 R207: VALID, then its fields. -/
def descWords (d : Option (Nat × Nat × Nat)) : List Nat :=
  match d with
  | some (f, m, k) => [1, f, m, k]
  | none => [0, 0, 0, 0]

def latchWords (l : Option Latch) : List Nat :=
  match l with
  | some l => [1, l.fmt, l.rows, l.cols, l.elems.length] ++ l.elems
  | none => [0, 0, 0, 0, 0]

/-- The two latches with their descriptors. -/
def Matrix.saved (m : Matrix) : List Nat := descWords m.adesc ++ descWords m.wdesc ++ latchWords m.alatch ++ latchWords m.wlatch

def Item.desc (x : Item) (j : Nat) : Option (Nat × Nat × Nat) :=
  if (x.at j).testBit 0 then some (x.at (j + 1), x.at (j + 2), x.at (j + 3)) else none

def Item.latch (x : Item) (j : Nat) : Option Latch :=
  if (x.at j).testBit 0 then some ⟨x.at (j + 1), x.at (j + 2), x.at (j + 3), (List.range (x.at (j + 4))).map (fun i => x.at (j + 5 + i))⟩ else none

def Matrix.loaded (m : Matrix) (x : Item) : Matrix :=
  { m with adesc := x.desc 0, wdesc := x.desc 4, alatch := x.latch 8, wlatch := x.latch (13 + x.at 12) }

/-! ### The environment store -/

/-- A captured vector in its value slots (13 R259). -/
def VReg.slotWords : VReg → List Nat
  | .u v => [v.toNat]
  | .a b st => [b.toNat + at_ st.toNat 32]
  | .g l => elems 64 16 (packElems 32 (l.toList.map BitVec.toNat))

/-- The shape code of a register (02 R52). -/
def VReg.code : VReg → Nat
  | .u _ => 0
  | .a _ _ => 1
  | .g _ => 2

/-- An entry's 256 bytes (13 R259). -/
def EnvEntry.image (x : EnvEntry) : Nat :=
  let vals := x.slots.map BitVec.toNat ++ x.vecs.flatMap VReg.slotWords
  x.pc.toNat + at_ (x.refcnt % 2 ^ 16) 64 + at_ x.gen.toNat 80 + at_ x.smask.toNat 96 + at_ (x.vecs.length % 8) 104 + at_ (bN x.byref) 107
    + at_ (bN x.ownlive) 108 + at_ (bN x.used) 109 + at_ (packElems 2 (x.vecs.map VReg.code)) 110 + at_ (x.owner % 2 ^ 32) 128 + at_ (x.depth % 32) 160
    + at_ x.fgen.toNat 176 + at_ (vals.length % 32) 192 + at_ (packElems 64 vals) 256

/-- Captured vectors read back from their slots by shape code. -/
def loadVecs : List Nat → Nat → List VReg
  | [], _ => []
  | 0 :: ts, x => .u (BitVec.ofNat 32 x) :: loadVecs ts (x / 2 ^ 64)
  | 1 :: ts, x => .a (BitVec.ofNat 32 x) (BitVec.ofNat 32 (x / 2 ^ 32)) :: loadVecs ts (x / 2 ^ 64)
  | _ :: ts, x => VReg.ofLanes (fun i => BitVec.ofNat 32 (fld x (32 * i) 32)) :: loadVecs ts (x / 2 ^ 1024)

/-- The entry an image gives; its owner is the wick of the context with that number. -/
def EnvEntry.ofImage (s : State) (c core entry x : Nat) : EnvEntry :=
  let n := bN (x.testBit 107) + popN 8 (fld x 96 8)
  let owner := fld x 128 32
  { core := core, entry := entry, pc := BitVec.ofNat 64 x, refcnt := fld x 64 16, gen := BitVec.ofNat 16 (x / 2 ^ 80), smask := BitVec.ofNat 8 (x / 2 ^ 96),
    byref := x.testBit 107, ownlive := x.testBit 108, used := x.testBit 109,
    owner := (((s.wicks.find? (fun w => w.info.ctx == c && w.info.uid % 2 ^ 32 == owner)).map (fun w => w.info.uid)).getD owner),
    depth := fld x 160 5, fgen := BitVec.ofNat 16 (x / 2 ^ 176), slots := (List.range n).map (fun j => BitVec.ofNat 64 (x / 2 ^ (256 + 64 * j))),
    vecs := loadVecs (elems 2 (fld x 104 3) (fld x 110 14)) (x / 2 ^ (256 + 64 * n)) }

/-- An entry that nothing has allocated since the reset or the core's passing: free, with GEN 1 and its reserved bits zero; the fields whose
Reset is X are free values (13 R259, 00 R11, log 135). -/
def envUnset (free core e : Nat) : Nat :=
  [(64, 16, 0), (80, 16, 1), (109, 1, 0), (124, 4, 0), (165, 11, 0), (197, 59, 0)].foldl (fun x (b, n, v) => setFld x b n v)
    (Config.envEntry free (512 * core + e)).toNat

/-- The bytes of an entry of a store. -/
def State.envBytes (s : State) (core e : Nat) : Nat :=
  match s.env.find? (fun x => x.core == core && x.entry == e) with
  | some x => x.image
  | none => envUnset s.free core e

/-- The 512 entries of a core. -/
def envImage (s : State) (core : Nat) : Nat := packElems 2048 ((List.range 512).map (s.envBytes core))

/-! ### The record (16 R336) -/

/-- The bands of these wicks with a member on a core. -/
def bandsOn (s : State) (core : Nat) (uids : List Nat) : List Band :=
  s.bands.filter (fun b => b.cluster == core / 64 && b.cores.contains (core % 64) && b.uids.any uids.contains)

/-- A ray of these wicks in a core's Lantern. -/
def Ray.mine (r : Ray) (core : Nat) (uids : List Nat) : Bool := coreKey r.cluster r.core == core && uids.contains r.uid

/-- The items of a record, works at rest: types 6 to 9 under IMAGE, type 10 under IMAGEW. -/
def recordItems (s : State) (core : Nat) (uids : List Nat) (image imagew : Bool) : List Item :=
  let bs := bandsOn s core uids
  ((s.matrix core).queue.filter (fun i => uids.contains i.uid && i.rest && !i.done && !i.dead)).map (fun i => wordItem 1 i.token i.saved)
    ++ (s.copies.filter (fun c => c.chan / 4 == core && uids.contains c.uid && c.rest && !c.done && !c.dead)).map (fun c => wordItem 2 c.word c.saved)
    ++ (s.quants.filter (fun q => q.core == core && uids.contains q.uid && q.rest && !q.done && !q.dead)).map (fun q => wordItem 3 q.token q.saved)
    ++ (s.rays.filter (fun r => r.mine core uids)).map (rayItem s)
    ++ bs.map (fun b => ⟨5, b.uid, 384, b.barriersImage⟩)
    ++ (if image then
          [⟨6, 0, 2 ^ 18, s.mem.read (keyCb core 0) (2 ^ 18)⟩, wordItem 7 0 (s.matrix core).saved, ⟨8, 0, 2 ^ 17, envImage s core⟩]
            ++ (bs.filter (fun b => b.win > 0)).map (fun b => ⟨9, b.off, 4096 * b.win, s.mem.read (keyAb core b.off) (4096 * b.win)⟩)
        else [])
    ++ (if imagew then [⟨10, 0, 2 ^ 23, s.mem.read (keyWb core 0) (2 ^ 23)⟩] else [])

/-- wp0 to wp3 of a core. -/
def corePointers (s : State) (core : Nat) : List Nat := (List.range 4).map (fun c => (s.chan (4 * core + c)).wp)

/-- The 4 KiB header. -/
def recordHeader (s : State) (core : Nat) (image imagew cancel : Bool) (count : Nat) : List Byte :=
  leBytes 8 (1 + at_ (core % 64) 8 + at_ (core / 64 % 8) 14 + at_ (bN image) 17 + at_ (bN imagew) 18 + at_ (bN cancel) 19)
    ++ (corePointers s core).flatMap (leBytes 4) ++ leBytes 4 count ++ List.replicate 4068 0

/-! ### The reload (16 R340) -/

/-- n items read from an address on. -/
def readItems (s : State) (c : Nat) : Nat → Nat → Except (Nat × PFault) (List Item) × State
  | 0, _ => (.ok [], s)
  | n + 1, a =>
    match s.ctxRead c a 16 with
    | (.error e, s1) => (.error e, s1)
    | (.ok h, s1) =>
      match s1.ctxRead c (a + 16) (fld h 32 32) with
      | (.error e, s2) => (.error e, s2)
      | (.ok v, s2) =>
        match readItems s2 c n (a + 16 + fld h 32 32) with
        | (.error e, s3) => (.error e, s3)
        | (.ok l, s3) => (.ok (⟨fld h 0 8, fld h 64 64, fld h 32 32, v⟩ :: l), s3)

/-- A record read: the first 28 bytes of its header, and its items; one of another FORMAT holds none. -/
def readRecord (s : State) (c a : Nat) : Except (Nat × PFault) (Nat × List Item) × State :=
  match s.ctxRead c a 28 with
  | (.error e, s1) => (.error e, s1)
  | (.ok h, s1) =>
    match readItems s1 c (if h % 256 = 1 then fld h 192 32 else 0) (a + 4096) with
    | (.error e, s2) => (.error e, s2)
    | (.ok l, s2) => (.ok (h, l), s2)

/-- Several records, or the first failure. -/
def readRecords (s : State) (c : Nat) : List Nat → Except (Nat × PFault) (List (Nat × List Item)) × State
  | [] => (.ok [], s)
  | a :: rest =>
    match readRecord s c a with
    | (.error e, s1) => (.error e, s1)
    | (.ok r, s1) =>
      match readRecords s1 c rest with
      | (.error e, s2) => (.error e, s2)
      | (.ok l, s2) => (.ok (r :: l), s2)

/-- A queued matrix instruction changed by its sequence number. -/
def Matrix.modInstr (m : Matrix) (p : MInstr → Bool) (f : MInstr → MInstr) : Matrix :=
  { m with queue := m.queue.map (fun i => if p i then f i else i) }

/-- One item returned to a core: works at rest take the state it holds, buffers and stores its bytes. -/
def loadItem (c core : Nat) (uids : List Nat) (s : State) (x : Item) : State :=
  match x.ty with
  | 1 => s.putMatrix ((s.matrix core).modInstr (fun i => i.token == x.word && i.rest && uids.contains i.uid) (fun i => i.loaded x))
  | 2 => { s with copies := s.copies.map (fun (k : Copy) =>
      if k.chan / 4 == core && k.word == x.word && k.rest && uids.contains k.uid then k.loaded x else k) }
  | 3 => { s with quants := s.quants.map (fun (q : Quant) =>
      if q.core == core && q.token == x.word && q.rest && uids.contains q.uid then q.loaded x else q) }
  | 4 => { s with rays := s.rays.map (fun (r : Ray) => if r.mine core uids && r.id == x.word && r.rest then r.loaded s x else r) }
  | 5 => { s with bands := s.bands.map (fun (b : Band) => if b.uid == x.word && b.uids.any uids.contains then b.loaded x else b) }
  | 6 => { s with mem := s.mem.write (keyCb core 0) (2 ^ 18) x.val }
  | 7 => s.putMatrix ((s.matrix core).loaded x)
  | 8 => (List.range 512).foldl (fun s e => s.putEnv (EnvEntry.ofImage s c core e (fld x.val (2048 * e) 2048))) s
  | 9 =>
    (match (bandsOn s core uids).find? (fun b => b.off == x.word && decide (b.win > 0)) with
     | some b => { s with mem := s.mem.write (keyAb core b.off) (4096 * b.win) x.val }
     | none => s)
  | 10 => { s with mem := s.mem.write (keyWb core 0) (2 ^ 23) x.val }
  | _ => s

/-- A record reloaded on the core its header names, when wicks of the group stand there: write pointers and items. -/
def reloadRecord (g : Group) (s : State) (r : Nat × List Item) : State :=
  let core := coreKey g.cluster (fld r.1 8 6)
  if r.1 % 256 ≠ 1 || !(s.wicks.any (fun w => w.info.group == g.id && w.info.coreId == core)) then s
  else
    let s1 := (List.range 4).foldl (fun s j => s.putChan { s.chan (4 * core + j) with wp := fld r.1 (64 + 32 * j) 32 }) s
    let s2 := r.2.foldl (loadItem g.ctx core g.uids) s1
    s2.modGroup g.id (fun y => { y with captures := y.captures.map (fun (k : Capture) =>
      if k.core == core then { k with back := k.back ++ r.2.map (fun x => (x.ty, x.word)) } else k) })

end Sys2Proof.Machine
end

