-- ==== Sys2Proof/Machine/Preempt.lean ====
section
/-! DEFINITION. QUIESCE and the engine-state record, WICKCTL, pre-emption, restore, ERET and HALT
(spec/16_privileged_state_and_preemption.md R327, R336 to R342, R346), the access slice across them
(spec/19_command_processing_and_scheduling.md R391), and the choice of the wick that issues (R387). -/

namespace Sys2Proof.Machine

/-! ### Groups -/

/-- The wicks of a wick's placement group, those that have exited among them (01 R31). -/
def State.mates (s : State) (w : Wick) : List Nat :=
  match s.findGroup w.info.group with
  | some g => g.uids
  | none => [w.info.uid]

/-- The wicks of a group that have not exited. -/
def State.groupWicks (s : State) (g : Nat) : List Wick := s.wicks.filter (fun w => w.info.group == g)

/-- The capture of a core in a group. -/
def State.captureOf (s : State) (g core : Nat) : Option Capture :=
  (s.findGroup g).bind (fun x => x.captures.find? (fun c => c.core == core))

/-- A core's capture replaced, or added. -/
def State.putCapture (s : State) (g : Nat) (c : Capture) : State :=
  s.modGroup g (fun x => { x with captures := c :: x.captures.filter (fun y => y.core != c.core) })

/-- The group is descheduled when every wick of it has released (16 R338). -/
def checkReleased (s : State) (g : Nat) : State :=
  s.modGroup g (fun x => match x.stage with
    | .saving _ => if (s.groupWicks g).all (fun w => w.info.stage == .descheduled) then { x with stage := .descheduled s.now } else x
    | _ => x)

/-- Pre-emption delivered to a resident group (16 R338): every wick in a slot is to enter. -/
def deliverPreempt (s : State) (g : Nat) : State :=
  match s.findGroup g with
  | none => s
  | some x =>
    if x.stage != .resident then s
    else
      let s1 := s.modGroup g (fun x => { x with stage := .saving s.now, captures := [] })
      { s1 with wicks := s1.wicks.map (fun (w : Wick) =>
          if w.info.group == g && w.info.stage == .resident then { w with info := { w.info with preq := true, released := false } } else w) }

/-! ### Engine work of a group on a core (16 R336) -/

/-- A copy in a channel of a core, of these wicks and still in progress. -/
def Copy.mine (c : Copy) (core : Nat) (uids : List Nat) : Bool := c.chan / 4 == core && uids.contains c.uid && !c.done && !c.rest

/-- A quantisation command of these wicks, issued on this core. -/
def Quant.mine (q : Quant) (core : Nat) (uids : List Nat) : Bool := q.core == core && uids.contains q.uid && !q.done && !q.rest

/-- A tile flush of these wicks, taken up by this core (14 R295). -/
def Flush.mine (f : Flush) (core : Nat) (uids : List Nat) : Bool := f.core == core && uids.contains f.uid && !f.rest

/-- The matrix instructions of a group on a core have completed, or wait behind a streaming one on a stopped channel. -/
def matrixAtRest (s : State) (core : Nat) (uids : List Nat) : Bool :=
  match (s.matrix core).queue.find? (fun i => uids.contains i.uid && !i.done && !i.rest) with
  | none => true
  | some i => i.strm && (s.chan (core * 4 + i.ch)).wp < i.wcount + (i.kdone + 1) * i.m * 32 * esA i.sub && s.channelStopped (core * 4 + i.ch)

/-- Rays stop at their next suspension point: they are marked, and a marked ray that reaches one runs no further. -/
def markRays (s : State) (core : Nat) (uids : List Nat) : State :=
  { s with rays := s.rays.map (fun (r : Ray) => if r.mine core uids then { r with rest := true } else r) }

/-- CANCEL stops copies at the next element and quantisation commands at the next block. -/
def cancelWorks (s : State) (core : Nat) (uids : List Nat) : State :=
  { s with
    copies := s.copies.map (fun (c : Copy) => if c.mine core uids then { c with rest := true } else c)
    quants := s.quants.map (fun (q : Quant) => if q.mine core uids then { q with rest := true } else q) }

/-- Every work is at rest, or has stopped at a page (16 R336). -/
def worksAtRest (s : State) (core : Nat) (uids : List Nat) : Bool :=
  s.copies.all (fun c => !c.mine core uids || (c.stopped && !c.due))
    && s.quants.all (fun q => !q.mine core uids || (q.stopped && !q.due))
    && s.flushes.all (fun f => !f.mine core uids || (f.stopped && !f.due))
    && s.rays.all (fun r => !r.mine core uids || r.leaving.isSome || r.atPoint s)
    && matrixAtRest s core uids

/-- What has stopped is brought to rest, and stays there until the restore (16 R337). -/
def settleWorks (s : State) (core : Nat) (uids : List Nat) : State :=
  let s1 := cancelWorks (markRays s core uids) core uids
  let s2 : State := { s1 with flushes := s1.flushes.map (fun (f : Flush) => if f.mine core uids then { f with rest := true } else f) }
  s2.putMatrix ((s2.matrix core).modInstr (fun i => uids.contains i.uid && !i.done) (fun i => { i with rest := true }))

/-! ### QUIESCE (16 R336, R337) -/

/-- The record written when it fits, or its header alone, with no item counted. -/
def writeRecord (s : State) (w : Wick) (cx : Cx) (o : OpY) (cancel : Bool) (c : Capture) : Eff :=
  let core := w.info.coreId
  let a := (w.rdS cx.f o.a.toNat).toNat
  let cap := (w.rdS cx.f o.b.toNat).toNat
  let image := o.imm.getLsbD 0
  let imagew := o.imm.getLsbD 1
  let items := recordItems s core (s.mates w) image imagew
  let header (n : Nat) : List Byte := recordHeader s core image imagew cancel n
  let body := items.flatMap Item.bytes
  let size := 4096 + body.length
  let done (s' : State) (written : Bool) (d : Word) : Eff :=
    let c' := { c with image := image, imagew := imagew, addr := BitVec.ofNat 64 a, written := written, size := size }
    .next ((s'.putCapture w.info.group c').modWick w.info.uid (fun w => w.wrS cx.f o.d.toNat d))
  if size ≤ cap then handlerWrite s w cx a (header items.length ++ body) (fun s' => done s' true (BitVec.ofNat 64 size))
  else handlerWrite s w cx a (header 0) (fun s' => done s' false (BitVec.ofNat 64 (size + 2 ^ 63)))

def quiesceBody (s : State) (w : Wick) (cx : Cx) (o : OpY) (cancel : Bool) : Eff :=
  let core := w.info.coreId
  let uids := s.mates w
  let a := w.rdS cx.f o.a.toNat
  if a.toNat % 4096 ≠ 0 then .trap { cause := 0x12, val := a }
  else
    match s.captureOf w.info.group core with
    | none =>
      let s1 := markRays s core uids
      let s2 := if cancel then cancelWorks s1 core uids else s1
      .stay (s2.putCapture w.info.group { core := core, owner := w.info.uid, addr := a, image := false, imagew := false, written := false, size := 0 })
    | some c =>
      if c.ready then
        if c.written then .next (s.putWick (w.wrS cx.f o.d.toNat 0)) else writeRecord s w cx o cancel c
      else if c.owner ≠ w.info.uid then .wait 7
      else if worksAtRest s core uids then writeRecord (settleWorks s core uids) w cx o cancel { c with ready := true }
      else .wait 7

def execQuiesceWait (h : Hdr) (o : OpY) (s : State) : Host.Outcome State Fault Refusal :=
  wickStep (.quiesceWait h o) s (fun s w cx => quiesceBody s w cx o false)

def execQuiesceCancel (h : Hdr) (o : OpY) (s : State) : Host.Outcome State Fault Refusal :=
  wickStep (.quiesceCancel h o) s (fun s w cx => quiesceBody s w cx o true)

/-! ### WICKCTL (16 R339) -/

/-- The reply of the call the save area shows, when it has come (13 R279). -/
def Wick.shownReply (w : Wick) : Option Word := if w.books.svc.isSome then w.books.reply else w.svcWait.bind Prod.snd

/-- The call the save area shows with this reply: that under speculation, else the first that waits. -/
def Wick.setShown (w : Wick) (v : Option Word) : Wick :=
  if w.books.svc.isSome then { w with books := { w.books with reply := v } }
  else
    match w.frags.toList.findIdx? (fun g => g.wait.svc.isSome) with
    | some f => w.modWait f (fun x => { x with svc := x.svc.map (fun (c, _) => (c, v)) })
    | none => w

/-- A reply that has come and is not taken goes to the mailbox of a wick that leaves its slot (13 R279). -/
def mailReply (s : State) (w : Wick) : State :=
  match w.shownReply with
  | some v => s.post { ctx := w.info.ctx, va := (s.wsave w.info).toNat + 0x80, len := 16, value := v.toNat + at_ 1 64 }
  | none => s

def releaseBody (s : State) (w : Wick) : Eff :=
  if w.trap.entered ≠ 0x30 then .trap { cause := 0x01 }
  else
    let w1 := w.setShown none
    let w2 : Wick := { w1 with info := { w1.info with stage := .descheduled, released := true }, trap := { w1.trap with sl := false } }
    .stay (checkReleased ((mailReply s w).putWick w2) w.info.group)

def execWickctlRelease (h : Hdr) (o : OpY) (s : State) : Host.Outcome State Fault Refusal :=
  wickStep (.wickctlRelease h o) s (fun s w _ => releaseBody s w)

/-- The end of a wick by a command, and what it means for a group that saves. -/
def endWick (s : State) (w : Wick) : State := checkReleased (killWick s w) w.info.group

def execWickctlKill (h : Hdr) (o : OpY) (s : State) : Host.Outcome State Fault Refusal :=
  wickStep (.wickctlKill h o) s (fun s w _ => .stay (endWick s w))

/-- The wick leaves single-lane mode and issues nothing; a pre-emption that waited is delivered. -/
def Wick.park (w : Wick) : Wick :=
  { w with
    info := { w.info with preq := w.info.preq || w.trap.ppend }
    trap := { w.trap with sl := false, parked := true, byPark := true, ppend := false } }

def execWickctlPark (h : Hdr) (o : OpY) (s : State) : Host.Outcome State Fault Refusal :=
  wickStep (.wickctlPark h o) s (fun s w _ => .stay (s.putWick w.park))

/-- A parked wick is to enter with cause 0x32. -/
def Wick.unpark (w : Wick) : Wick := { w with info := { w.info with resume := some (BitVec.ofNat 4 (validMask w)) } }

def unparkBody (s : State) (w : Wick) (cx : Cx) (o : OpY) : Eff :=
  let id := (w.rdS cx.f o.a.toNat).toNat
  match s.wicks.find? (fun x => x.info.ctx == w.info.ctx && x.info.stage == .resident && x.trap.parked && x.info.wickId == id) with
  | some x => .next (s.putWick x.unpark)
  | none => .next s

def execWickctlUnpark (h : Hdr) (o : OpY) (s : State) : Host.Outcome State Fault Refusal :=
  wickStep (.wickctlUnpark h o) s (fun s w cx => unparkBody s w cx o)

/-- The Candelabrum kills a wick, one that has halted among them (16 R339, R346). -/
def killCommand (s : State) (wick : Nat) : State :=
  match s.findWick wick with
  | some w => endWick s w
  | none => s

def execEvWickKillCommand (wick : Nat) (s : State) : Host.Outcome State Fault Refusal := .next (killCommand s wick)

/-! ### HALT (16 R346) -/

def execHalt (h : Hdr) (o : OpY) (s : State) : Host.Outcome State Fault Refusal :=
  wickStep (.halt h o) s (fun s w cx => .stay (haltWick s w 0x40 (w.rdS cx.f o.a.toNat).toNat))

/-! ### The access slice across a pre-emption (19 R391) -/

/-- The narrow registers of an image, one after another from bit 0 of x. -/
def loadNarrow : Nat → Nat → List VReg
  | 0, _ => []
  | n + 1, x =>
    let tag := fld x 0 8
    let body := fld x 8 (8 * tagLen tag)
    ((VReg.ofSaved 0 tag body).getD (.u 0)) :: loadNarrow n (x >>> (8 + 8 * tagLen tag))

/-- An access slice with the state of an image. -/
def Access.load (a : Access) (x : Nat) : Access :=
  let v := loadNarrow 120 (x >>> (8 * 544))
  { a with
    frags := a.frags.setIfInBounds 0 { (a.frags[0]?.getD {}) with
      pc := BitVec.ofNat 64 x, qv := BitVec.ofNat 15 (x >>> 64), cd := fld x 128 64 }
    s := Vector.ofFn (fun i : Fin 44 => BitVec.ofNat 64 (x >>> (192 + 64 * i.val)))
    tx := Vector.ofFn (fun i : Fin 7 => Tx.ofImage (fld x (8 * 376 + 192 * i.val) 192))
    v := Vector.ofFn (fun i : Fin 120 => (v[i.val]?).getD (.u 0)) }

/-- The work of a wick's own accesses to its save area (17 R423). -/
def saveWork (w : Wick) : Nat := 2 ^ 50 + w.info.uid

/-! ### Pre-emption entry (16 R324, R327, R338) -/

/-- The entry of a wick outside single-lane mode whose speculation has been rolled back. -/
def enterPreempt (s : State) (w : Wick) : State :=
  let w1 := w.endWaits
  let f := (w1.deliverFrag).getD 0
  match saveAccess s w1 with
  | .error (va, p) => ownStop s w.info.ctx (saveWork w) 1 va p
  | .ok s1 => takeTrap s1 { w1 with info := { w1.info with preq := false } } f (w1.frag f).pc { cause := 0x30 }

def preemptionEntry (s : State) (wick : Nat) : State :=
  match s.findWick wick with
  | none => s
  | some w =>
    if !w.info.preq || w.info.stage != .resident || w.books.pair.isSome || (w.books.stop.isSome && w.books.svc.isNone)
      || s.isStopped w.info.ctx (saveWork w) then s
    else if w.trap.sl then s.putWick { w with info := { w.info with preq := false }, trap := { w.trap with ppend := true } }
    else
      let s1 := if w.books.svc.isSome then rollbackSvc s w none else s
      match s1.findWick wick with
      | some w1 => enterPreempt s1 w1
      | none => s1

def execEvPreemptionEntry (wick : Nat) (s : State) : Host.Outcome State Fault Refusal := .next (preemptionEntry s wick)

/-- 20 µs after the delivery, without IMAGEW, every wick still resident halts (16 R338). -/
def preemptionWatchdog (s : State) (group : Nat) : State :=
  match s.findGroup group with
  | none => s
  | some g =>
    match g.stage with
    | .saving since =>
      if s.now < since + 20 * Config.usCycles || g.captures.any (fun c => c.imagew) then s
      else
        ((s.groupWicks group).filter (fun w => w.info.stage == .resident)).foldl (fun s w => haltWick s w 0x3E 0) s
    | _ => s

def execEvPreemptionWatchdog (group : Nat) (s : State) : Host.Outcome State Fault Refusal := .next (preemptionWatchdog s group)

/-! ### Restore placement (16 R340, 01 R46) -/

/-- Two clusters change places. -/
def swapCluster (from_ goesTo cl : Nat) : Nat := if cl == from_ then goesTo else if cl == goesTo then from_ else cl

/-- A core of one cluster becomes that of the other with the same index. -/
def moveCore (from_ goesTo core : Nat) : Nat := swapCluster from_ goesTo (core / 64) * 64 + core % 64

/-- The windows of these bands find their offsets on a cluster clear of every other band's. -/
def windowsClear (s : State) (bs : List Band) (cluster : Nat) : Bool :=
  bs.all (fun b => b.win == 0 || b.cores.all (fun k =>
    clearAt b.win (b.off / 4096) (windowUnits ((s.bandsAt cluster k).filter (fun x => bs.all (fun y => y.uid != x.uid))))))

/-- The bands of a group that still need their windows. -/
def groupBands (s : State) (g : Group) : List Band :=
  s.bands.filter (fun b => b.uids.any g.uids.contains && (b.tile.isSome || b.members.any (fun r => !b.gone.contains r)))

/-- A wick takes a slot of its core and partition on a cluster, when one is free (01 R46). -/
def takeSlot (cluster : Nat) (acc : Option State) (uid : Nat) : Option State :=
  match acc with
  | none => none
  | some s =>
    match s.findWick uid with
    | none => none
    | some w =>
      if s.coreOk w.info.ctx cluster w.info.core then
        (s.slotIn (coreKey cluster w.info.core) w.info.part w.info.ng).map (fun n =>
          s.putWick { w with info := { w.info with stage := .resident, cluster := cluster, slot := n, restoring := true, released := false, preq := false,
                                                   ready := s.clock cluster, guarded := false } })
      else none

/-- The group's rays have room in the Lanterns. -/
def raysFit (s : State) (g : Group) (cluster : Nat) : Bool :=
  (List.range 64).all (fun k => decide ((s.rays.filter (fun r => r.rest && r.core == k && g.uids.contains r.uid)).length ≤ s.rayRoom (coreKey cluster k)))

/-- What the move of a group between two clusters takes with it: the groups of its context there (log 37), and the cores that its context
holds there. -/
structure Relocation where
  ctx : Nat
  src : Nat
  dst : Nat
  groups : List Group
  cores : List Nat
  deriving DecidableEq, Repr

def moveOf (s : State) (g : Group) (goesTo : Nat) : Relocation :=
  let there (cl : Nat) : Bool := cl == g.cluster || cl == goesTo
  { ctx := g.ctx, src := g.cluster, dst := goesTo, groups := s.groups.filter (fun x => x.ctx == g.ctx && there x.cluster)
    cores := (s.holders.filter (fun (k, h) => h == g.ctx && there (k / 64))).map Prod.fst }

def Relocation.there (m : Relocation) (cluster : Nat) : Bool := cluster == m.src || cluster == m.dst
def Relocation.mine (m : Relocation) (uid : Nat) : Bool := m.groups.any (fun g => g.uids.contains uid)
def Relocation.cluster (m : Relocation) (cl : Nat) : Nat := swapCluster m.src m.dst cl
def Relocation.core (m : Relocation) (k : Nat) : Nat := moveCore m.src m.dst k

/-- The core holds the context's state, or is to take it. -/
def Relocation.owns (m : Relocation) (k : Nat) : Bool := m.cores.contains k
def Relocation.takes (m : Relocation) (k : Nat) : Bool := m.owns (m.core k)

/-- The bands that move and whose windows stand, with a core of each. -/
def Relocation.windows (m : Relocation) (s : State) : List (Band × Nat) :=
  (s.bands.filter (fun b => b.uids.any m.mine)).flatMap (fun b => (b.cores.filter (fun k => s.holdsWindow b k)).map (fun k => (b, k)))

/-- A context may change the places of two clusters: every group and every work of it there is at rest, and the windows that stand find
their offsets clear (01 R46; log 37). -/
def mayMove (s : State) (g : Group) (goesTo : Nat) : Bool :=
  let m := moveOf s g goesTo
  m.groups.all (fun x => match x.stage with
      | .descheduled _ => true
      | _ => false)
    && s.wicks.all (fun w => w.info.ctx != g.ctx || !m.there w.info.cluster || w.info.stage == .descheduled)
    && s.rays.all (fun r => r.ctx != g.ctx || m.mine r.uid || !m.there r.cluster)
    && s.copies.all (fun c => c.ctx != g.ctx || c.done || m.mine c.uid || !m.there c.cluster)
    && s.quants.all (fun q => q.ctx != g.ctx || q.done || m.mine q.uid || !m.there q.cluster)
    && s.flushes.all (fun f => f.ctx != g.ctx || m.mine f.uid || !m.there (f.core / 64))
    && s.matrices.all (fun x => !m.there (x.core / 64) || x.queue.all (fun i => i.ctx != g.ctx || i.done || m.mine i.uid))
    && (m.windows s).all (fun (b, k) => clearAt b.win (b.off / 4096)
      (windowUnits ((s.bandsAt (m.cluster b.cluster) k).filter (fun x => !x.uids.any m.mine))))

/-- CLMAP after a move: the two clusters change places (13 R258). -/
def Relocation.map (m : Relocation) (x : Nat) : Nat := packElems 3 ((elems 3 8 x).map m.cluster)

/-- A matrix instruction that moves with its wick: it has not completed, or its failure is not reported (09 R220). -/
def Relocation.instr (m : Relocation) (i : MInstr) : Bool := m.mine i.uid && (!i.done || (i.failed && !i.reported))

/-- The engine of a core after a move: it keeps its own count, behind which the instructions that come take their places, and has the
latches of the core whose state it takes (09 R214; log 37). -/
def Relocation.matrix (m : Relocation) (s : State) (k : Nat) : Matrix :=
  let here := s.matrix k
  let other := s.matrix (m.core k)
  let come := ((other.queue.filter m.instr).zipIdx).map (fun ((i, j) : MInstr × Nat) => { i with seq := here.seq + 1 + j })
  let latches : Matrix := if m.takes k then other else if m.owns k then { core := k } else here
  { latches with core := k, seq := here.seq + come.length, queue := here.queue.filter (fun i => !m.instr i) ++ come }

/-- How many instructions of its new source core stand before a quantisation command after a move (07 R205). -/
def Relocation.after (m : Relocation) (s : State) (q : Quant) : Nat :=
  let k := coreKey q.cluster (fld q.record 325 6)
  (s.matrix (m.core k)).seq + ((s.matrix k).queue.filter (fun i => m.instr i && decide (i.seq ≤ q.after))).length

def Relocation.quant (m : Relocation) (s : State) (q : Quant) (j : Nat) : Quant :=
  if m.mine q.uid && m.there q.cluster && !q.done then
    { q with cluster := m.cluster q.cluster, core := m.core q.core, after := m.after s q, seq := (s.quantSeq[m.cluster q.cluster]?.getD 0) + 1 + j }
  else q

/-- Memory after a move: the CB and the WB of each core that is taken, and the windows that stand, with their contents (01 R46). -/
def Relocation.mem (m : Relocation) (s : State) : Memory :=
  let cores := m.cores.foldl (fun x k =>
    Memory.carry s.mem (keyWb k 0) (keyWb (m.core k) 0) (2 ^ 23) (Memory.carry s.mem (keyCb k 0) (keyCb (m.core k) 0) (2 ^ 18) x)) s.mem
  (m.windows s).foldl (fun x (b, k) =>
    Memory.carry s.mem (keyAb (coreKey b.cluster k) b.off) (keyAb (coreKey (m.cluster b.cluster) k) b.off) (4096 * b.win) x) cores

/-- What belongs to the context on two clusters changes places, core by core (01 R46, 13 R258). -/
def rehome (s : State) (g : Group) (goesTo : Nat) : State :=
  let m := moveOf s g goesTo
  let n := s.quants.length
  { s with
    mem := m.mem s
    wicks := s.wicks.map (fun (w : Wick) => if m.mine w.info.uid then { w with info := { w.info with cluster := m.cluster w.info.cluster } } else w)
    bands := s.bands.map (fun (b : Band) => if b.uids.any m.mine then { b with cluster := m.cluster b.cluster } else b)
    copies := s.copies.filterMap (fun (c : Copy) =>
      if m.mine c.uid && m.there c.cluster && !c.done then
        some { c with cluster := m.cluster c.cluster, chan := 4 * m.core (c.chan / 4) + c.chan % 4 }
      else if c.done && c.chan < 2048 && m.takes (c.chan / 4) && !m.owns (c.chan / 4) then none
      else some c)
    chans := s.chans.map (fun (c : Chan) =>
      if c.id < 2048 && (m.owns (c.id / 4) || m.takes (c.id / 4)) then { c with id := 4 * m.core (c.id / 4) + c.id % 4 } else c)
    quants := (s.quants.zipIdx).map (fun ((q, j) : Quant × Nat) => m.quant s q j)
    quantSeq := (s.quantSeq.setIfInBounds m.src ((s.quantSeq[m.src]?.getD 0) + n)).setIfInBounds m.dst ((s.quantSeq[m.dst]?.getD 0) + n)
    matrices := s.matrices.filter (fun (x : Matrix) => !m.there (x.core / 64))
      ++ (((s.matrices.map Matrix.core).filter (fun k => m.there (k / 64))).flatMap (fun k => [k, m.core k])).eraseDups.map (m.matrix s)
    flushes := s.flushes.map (fun (f : Flush) => if m.mine f.uid then { f with core := m.core f.core } else f)
    rays := s.rays.map (fun (r : Ray) => if m.mine r.uid then { r with cluster := m.cluster r.cluster } else r)
    env := s.env.filterMap (fun (x : EnvEntry) =>
      if m.owns x.core then some { x with core := m.core x.core } else if m.takes x.core then none else some x)
    holders := s.holders.filterMap (fun (k, h) => if m.owns k then some (m.core k, h) else if m.takes k then none else some (k, h))
    groups := s.groups.map (fun (x : Group) => if x.ctx == m.ctx && m.there x.cluster then
      { x with cluster := m.cluster x.cluster, captures := x.captures.map (fun (c : Capture) => { c with core := m.core c.core }) }
      else x) }.modCtx g.ctx (fun y => { y with regs := y.regs.setIfInBounds 0x10 (BitVec.ofNat 64 (m.map (y.regs[0x10]?.getD 0).toNat)) })

/-- The placement of a descheduled group on a cluster (16 R340, 01 R46). -/
def restoreOn (s : State) (g : Group) (cluster : Nat) : Option State :=
  if !(raysFit s g cluster && (cluster == g.cluster || mayMove s g cluster)) then none
  else
    let s0 := if cluster = g.cluster then s else rehome s g cluster
    let ws := s0.groupWicks g.id
    if !windowsClear s0 (groupBands s0 g) cluster then none
    else
      match (ws.map (fun w => w.info.uid)).foldl (takeSlot cluster) (some s0) with
      | none => none
      | some s1 =>
        let cores := (ws.map (fun w => coreKey cluster w.info.core)).eraseDups
        let s2 := cores.foldl (fun s k => passCore s k g.ctx) s1
        some ({ s2 with groups := s2.groups.map (fun (x : Group) => if x.ctx == g.ctx then { x with boost := false } else x) }.modGroup g.id
          (fun x => { x with stage := .resident }))

/-- The placement of a descheduled group in some cluster of its partition, when it fits. -/
def restoreGroup (s : State) (g : Group) : Option State :=
  (rotate (Config.freeValue s.free).toNat (s.partClusters g.part)).findSome? (fun cl => restoreOn { s with free := s.free + 1 } g cl)

/-! ### Restore entry (16 R340) -/

/-- What a restored wick holds before its handler loads it: any values, but for what the device keeps (log 19). -/
def Wick.scramble (w : Wick) (n : Nat) : Wick :=
  let word (j : Nat) : Word := Config.freeValue (n + j)
  { w with
    regs := { w.regs with
      s := Vector.ofFn (fun i : Fin 44 => word i.val)
      p := Vector.ofFn (fun i : Fin 15 => (word (64 + i.val)).setWidth 32)
      k := Vector.ofFn (fun i : Fin 16 => word (80 + i.val))
      klink := Vector.ofFn (fun i : Fin 16 => word (96 + i.val))
      kframe := Vector.ofFn (fun i : Fin 16 => (word (112 + i.val)).getLsbD 0)
      fgen := Vector.ofFn (fun i : Fin 16 => (word (128 + i.val)).setWidth 16)
      gens := Vector.ofFn (fun i : Fin 33 => (word (144 + i.val)).setWidth 32)
      forkser := (word 180).setWidth 32
      uiSavePc := word 181
      uiSaveQ := (word 182).setWidth 15
      v := Vector.ofFn (fun i : Fin 248 => freeVReg (n + 512 + 36 * i.val) i.val) }
    frags := Vector.ofFn (fun f : Fin 8 => { w.frag f.val with own := Vector.ofFn (fun i : Fin 16 => word (192 + 16 * f.val + i.val)) })
    books := { w.books with
      lastArr := Vector.ofFn (fun i : Fin 64 => word (320 + i.val)), iseq := (word 384).setWidth 16, mflags := (word 385).setWidth 4 } }

/-- Free values a restored wick takes. -/
def scrambleFree : Nat := 512 + 36 * 248

/-- The record each wick of a group names, and its access slice's image. -/
def readSaved (s : State) (w : Wick) : Except (Nat × PFault) (Nat × Nat) × State :=
  match s.ctxRead w.info.ctx ((s.wsave w.info).toNat + 0x18) 8 with
  | (.error e, s1) => (.error e, s1)
  | (.ok rec_, s1) =>
    if w.access.isNone then (.ok (rec_, 0), s1)
    else
      match s1.ctxRead w.info.ctx (accessSave s w.info) 2048 with
      | (.error e, s2) => (.error e, s2)
      | (.ok img, s2) => (.ok (rec_, img), s2)

/-- The same for several wicks, or the first failure. -/
def readAllSaved (s : State) : List Wick → Except (Nat × PFault) (List (Nat × Nat × Nat)) × State
  | [] => (.ok [], s)
  | w :: ws =>
    match readSaved s w with
    | (.error e, s1) => (.error e, s1)
    | (.ok (r, img), s1) =>
      match readAllSaved s1 ws with
      | (.error e, s2) => (.error e, s2)
      | (.ok l, s2) => (.ok ((w.info.uid, r, img) :: l), s2)

/-- A wick enters at RVEC (16 R340). -/
def enterRestore (s : State) (x : Nat × Nat × Nat) : State :=
  match s.findWick x.1 with
  | none => s
  | some w =>
    let (dbg, s1) := readDebug s w.info.ctx
    let w1 := w.scramble s1.free
    let w2 : Wick := { w1 with access := w1.access.map (fun a => a.load x.2.2), books := { w1.books with debug := dbg } }
    let f := (w2.deliverFrag).getD 0
    takeTrap { s1 with free := s1.free + scrambleFree } w2 f (w2.frag f).pc { cause := 0x31 }

/-- The group may enter its restore: it is placed, and none of its wicks has entered. -/
def mayRestore (s : State) (g : Group) : Bool :=
  let ws := s.groupWicks g.id
  g.stage == .resident && !ws.isEmpty && ws.all (fun w => w.info.restoring && !w.trap.sl && w.info.stage == .resident)

/-- The records the wicks name are reloaded, each once, and every wick enters (16 R340). While a page of what is read fails, the restore
waits (17 R423). -/
def restoreEntry (s : State) (group : Nat) : State :=
  match s.findGroup group with
  | none => s
  | some g =>
    if !mayRestore s g || s.isStopped g.ctx (2 ^ 51 + group) then s
    else
      match readAllSaved s (s.groupWicks group) with
      | (.error (va, p), s1) => ownStop s1 g.ctx (2 ^ 51 + group) 0 va p
      | (.ok l, s1) =>
        match readRecords s1 g.ctx ((l.map (fun (_, r, _) => r)).filter (fun r => r != 0)).eraseDups with
        | (.error (va, p), s2) => ownStop s2 g.ctx (2 ^ 51 + group) 0 va p
        | (.ok rs, s2) => l.foldl enterRestore (rs.foldl (reloadRecord g) s2)

def execEvRestoreEntry (group : Nat) (s : State) : Host.Outcome State Fault Refusal := .next (restoreEntry s group)

/-! ### The return (16 R341, R340, 13 R279) -/

/-- The recorded works of a core go on when the last wick of the group there has executed its ERET: those the records reloaded there name,
and its stopped tile flushes, for which a record has no item. -/
def wakeWorks (s : State) (w : Wick) : State :=
  let core := w.info.coreId
  let uids := s.mates w
  if (s.groupWicks w.info.group).any (fun x => x.info.restoring && x.info.coreId == core && x.info.uid != w.info.uid) then s
  else
    match s.captureOf w.info.group core with
    | none => s
    | some c =>
      let back (ty word : Nat) : Bool := c.back.contains (ty, word)
      let s1 : State := { s with
        copies := s.copies.map (fun (x : Copy) =>
          if x.chan / 4 == core && uids.contains x.uid && back 2 x.word then { x with rest := x.dead } else x)
        quants := s.quants.map (fun (x : Quant) => if x.core == core && uids.contains x.uid && back 3 x.token then { x with rest := x.dead } else x)
        flushes := s.flushes.map (fun (x : Flush) => if x.core == core && uids.contains x.uid then { x with rest := false } else x)
        rays := s.rays.map (fun (x : Ray) => if x.mine core uids && back 4 x.id then { x with rest := false } else x) }
      let s2 := s1.putMatrix ((s1.matrix core).modInstr (fun i => uids.contains i.uid && back 1 i.token) (fun i => { i with rest := i.dead }))
      s2.modGroup w.info.group (fun g => { g with captures := g.captures.filter (fun y => y.core != core) })

/-- The wick's state that a speculation goes back to, made anew from what the handler has loaded (13 R278, R279). -/
def refreshSnap (s : State) (w : Wick) (c : SvcCall) : State :=
  let s1 : State := { s with snaps := w :: s.snaps.filter (fun x => x.info.uid != w.info.uid) }
  s1.putWick (match c.pred with
    | some v => w.wrS c.frag c.d v
    | none => w)

/-- R279 at the first ERET after a restore: the mailbox ends the call, or the speculation goes on. -/
def takeMail (s : State) (w : Wick) : Except (Nat × PFault) (State × Wick) :=
  if w.svcShown.isNone then .ok (s, w)
  else
    let va := (s.wsave w.info).toNat + 0x80
    match s.ctxRead w.info.ctx va 16 with
    | (.error e, _) => .error e
    | (.ok m, s1) =>
      if !m.testBit 64 then .ok (s1, w)
      else
        match s1.ctxWrite w.info.ctx va 16 (m % 2 ^ 64) with
        | .error e => .error e
        | .ok s2 =>
          let v := BitVec.ofNat 64 m
          .ok ({ s2 with snaps := s2.snaps.filter (fun x => x.info.uid != w.info.uid) },
            match w.books.svc with
            | some c => { w.wrS c.frag c.d v with books := { w.books with svc := none, reply := none } }
            | none => w.setShown (some v))

/-- What follows once single-lane mode has been left: the speculation's snapshot, the recheck, and parking (16 R341, 17 R357). -/
def afterReturn (s : State) (uid : Nat) (fresh : Bool) : State :=
  match s.findWick uid with
  | none => s
  | some w =>
    if w.trap.sl || w.info.stage != .resident then s
    else
      let s1 := match w.books.svc with
        | some c => if fresh then refreshSnap s w c else s
        | none => s
      let (s2, m) := recheckWick s1 uid
      match s2.findWick uid with
      | none => s2
      | some w2 =>
        let f := (w2.deliverFrag).getD 0
        if m = 0 then s2.putWick w2.parkCheck
        else
          let s3 := if w2.books.svc.isSome then rollbackSvc s2 w2 none else s2
          match s3.findWick uid with
          | some w3 => takeTrap s3 w3 f (w3.frag f).pc { cause := 0x32, mask := BitVec.ofNat 32 m }
          | none => s3

/-- The page of the save area at which an ERET stops (17 R423): a read (0) or a write (1). -/
def eretStop (s : State) (w : Wick) : Option (Nat × Nat × PFault) :=
  match (if w.info.restoring then takeMail s w else .ok (s, w)), (if w.trap.ppend then saveAccess s w else .ok s) with
  | .error (va, p), _ => some (0, va, p)
  | _, .error (va, p) => some (1, va, p)
  | _, _ => none

/-- ERET at a PC (16 R341): the end of a restore, the debug controls read again (21 R413), and the return. -/
def eretTo (s : State) (w0 : Wick) (pc : Word) : State :=
  let fresh := w0.info.restoring
  match eretStop s w0 with
  | some (acc, va, p) => ownStop s w0.info.ctx (saveWork w0) acc va p
  | none =>
    let (s1, w1) := match (if fresh then takeMail s w0 else .ok (s, w0)) with
      | .ok x => x
      | .error _ => (s, w0)
    let s2 := if fresh then wakeWorks s1 w1 else s1
    let s3 := match (if w0.trap.ppend then saveAccess s2 w1 else .ok s2) with
      | .ok x => x
      | .error _ => s2
    let (dbg, s4) := readDebug s3 w1.info.ctx
    let w2 : Wick := { w1 with
      info := { w1.info with restoring := false }
      books := { w1.books with debug := dbg, fresh := (List.range 8).filter (fun f => (w1.frag f).state == .running) } }
    afterReturn (returnFromTrap (s4.putWick w2) w2 pc) w1.info.uid fresh

/-- ERET and ERET.NEXT; they wait while a page of the save area that they need fails (17 R423). -/
def eretBody (s : State) (w : Wick) (pc : Word) : Eff := if s.isStopped w.info.ctx (saveWork w) then .wait 10 else .stay (eretTo s w pc)

def execEret (h : Hdr) (o : OpY) (s : State) : Host.Outcome State Fault Refusal :=
  wickStep (.eret h o) s (fun s w _ => eretBody s w w.trap.tpc)

def execEretNext (h : Hdr) (o : OpY) (s : State) : Host.Outcome State Fault Refusal :=
  wickStep (.eretNext h o) s (fun s w _ => eretBody s w w.trap.tnpc)

/-! ### ERET.REFLECT (16 R342) -/

/-- The code s61 takes when a check of REFLECT fails, in the order of R342. -/
def reflectFault (s : State) (w : Wick) (hd : Word) : Option Nat :=
  let c := w.info.ctx
  if (w.frags.toList.drop 1).any (fun (g : Frag) => g.state != .free) || !w.serial.isEmpty then some 0x0A
  else
    match s.handleFault c hd true with
    | some cause => some cause
    | none =>
      if !s.refRoom c hd 1 then some 0x1E
      else if (w.frag w.trap.tfrag).cd ≥ 16 then some 0x0B
      else none

def reflectBody (s : State) (w : Wick) (cx : Cx) (o : OpY) : Eff :=
  if s.isStopped w.info.ctx (saveWork w) then .wait 10
  else
  let hd := w.rdS cx.f o.a.toNat
  let fail (s : State) (c : Nat) : Eff := .next (s.putWick { w with trap := { w.trap with s := w.trap.s.setIfInBounds 1 (BitVec.ofNat 64 c) } })
  match reflectFault s w hd with
  | some c => fail s c
  | none =>
    let pc := (s.handleEntry w.info.ctx hd).pc
    match checkTarget s w.info.coreId w.info.ctx false pc with
    | (.bad, s1) => fail s1 0x03
    | (t, s1) =>
      let w1 := w.applyFrame w.trap.tfrag o.d.toNat (if o.imm.getLsbD 0 then w.trap.tnpc else w.trap.tpc) hd
      let w2 : Wick := { w1 with books := { w1.books with entry := if t == .ok then w1.books.entry else some w.trap.tfrag } }
      let s2 := s1.addRef w.info.ctx hd 1
      -- stopped at a page of the save area, nothing of the call has happened yet
      match eretStop (s2.putWick w2) w2 with
      | some (acc, va, p) => .stay (ownStop s w.info.ctx (saveWork w) acc va p)
      | none => .stay ((eretTo (s2.putWick w2) w2 pc).holdTarget w.info.uid w.trap.tfrag pc)

def execEretReflect (h : Hdr) (o : OpY) (s : State) : Host.Outcome State Fault Refusal :=
  wickStep (.eretReflect h o) s (fun s w cx => reflectBody s w cx o)

/-! ### Resumption, sleep and the choice of the wick that issues -/

/-- A resumption that is due is entered at an issue boundary (17 R358). -/
def resumeEntry (s : State) (wick : Nat) : State :=
  match s.findWick wick with
  | none => s
  | some w =>
    match w.info.resume with
    | none => s
    | some m =>
      if w.info.stage != .resident || w.trap.sl || w.books.pair.isSome || w.books.stop.isSome || w.info.restoring then s
      else
        let s1 := if w.books.svc.isSome then rollbackSvc s w none else s
        match s1.findWick wick with
        | none => s1
        | some w1 =>
          let f := (w1.deliverFrag).getD 0
          takeTrap s1 { w1 with info := { w1.info with resume := none } } f (w1.frag f).pc { cause := 0x32, mask := BitVec.ofNat 32 m.toNat }

def execEvResumeEntry (wick : Nat) (s : State) : Host.Outcome State Fault Refusal := .next (resumeEntry s wick)

/-- SLEEP ends when its cycles have passed (06 R150). -/
def sleepExpiry (s : State) (wick frag : Nat) : State :=
  match s.findWick wick with
  | none => s
  | some w =>
    match (w.frag frag).sleep with
    | some t => if t ≤ s.clock w.info.cluster then s.putWick (w.modFrag frag (fun g => { g with sleep := none })) else s
    | none => s

def execEvSleepExpiry (wick frag : Nat) (s : State) : Host.Outcome State Fault Refusal := .next (sleepExpiry s wick frag)

/-- The wick is at an issue boundary at which a pre-emption or a resumption is due: nothing issues before its entry (16 R338, 17 R358). -/
def Wick.entryDue (w : Wick) : Bool := !w.trap.sl && w.books.pair.isNone && (w.info.preq || w.info.resume.isSome)

/-- The wick has a fragment that may issue. -/
def Wick.canRun (w : Wick) : Bool :=
  w.info.stage == .resident && (w.trap.sl || (!w.trap.parked && !w.info.restoring && !w.entryDue
    && (w.books.stop.isNone || w.books.svc.isSome || w.books.pair.isSome) && w.nextFrag.isSome))

/-- A wick that has been ready for 256 consecutive cycles of its cluster without issuing (19 R387). -/
def State.aged (s : State) (w : Wick) : Bool := w.info.guarded || decide (w.info.ready + 256 ≤ s.clock w.info.cluster)

/-- The guard noted, which it keeps until it issues. -/
def ageGuard (s : State) (wick : Nat) : State :=
  match s.findWick wick with
  | none => s
  | some w => if w.canRun && s.aged w then s.putWick { w with info := { w.info with guarded := true } } else s

def execEvAgeGuard (wick : Nat) (s : State) : Host.Outcome State Fault Refusal := .next (ageGuard s wick)

/-- The least of a list by a key, the first among equals. -/
def leastBy (key : α → Nat) : List α → Option α
  | [] => none
  | x :: xs => match leastBy key xs with
    | none => some x
    | some y => if key y < key x then some y else some x

/-- The wick that issues (19 R387): guarded wicks first, then class, then recency. -/
def chooseWick (s : State) (ws : List Wick) : Option Wick :=
  match leastBy (fun w => w.info.ready * 16 + w.info.slot) (ws.filter s.aged) with
  | some w => some w
  | none =>
    match leastBy (fun w => s.classOf w.info.pkt) ws with
    | none => none
    | some b => leastBy (fun (w : Wick) => w.info.last) (ws.filter (fun w => s.classOf w.info.pkt == s.classOf b.info.pkt))

/-- A cycle of a partition of a core: its turn is due, in which it issues from one wick (19 R387). -/
def issueCycle (s : State) (port : Nat) : State := { s with agenda := .port port :: s.agenda }

def execEvIssueCycle (port : Nat) (s : State) : Host.Outcome State Fault Refusal := .next (issueCycle s port)

end Sys2Proof.Machine
end

