-- ==== Sys2Proof/Machine/Replay.lean ====
section
/-! DEFINITION. REPLAY of a logged instruction (spec/16_privileged_state_and_preemption.md R343,
spec/02_registers_and_operands.md R58, spec/17_translation_and_faults.md R355, R359). -/

namespace Sys2Proof.Machine

/-! ### What a replay leaves -/

/-- A destination takes the replayed lanes' results as a partial write (02 R54, R58). -/
def mergeDest (live act : Mask) (res : Wick) (f : Nat) (w : Wick) (r : RegName) : Wick :=
  match r with
  | .s n => w.wrS f n (res.rdS f n)
  | .q n => w.wrQ f n (res.rdQ f n)
  | .p n => w.wrP n act (res.rdP n)
  | .k n => w.wrK n (res.rdK n)
  | .v n => w.putV n (VReg.merge live act (w.rdV n) (res.rdV n))
  | .tx n => { w with regs := { w.regs with tx := w.regs.tx.setIfInBounds n (res.regs.tx[n]?.getD {}) } }

/-- Destinations that hold a value for each lane. -/
def RegName.perLane : RegName → Bool
  | .p _ | .v _ => true
  | _ => false

/-- The fragments after a replay: what the instruction's fragment waits for is as the instruction leaves it; and when lanes have left, the
fragment goes on where it stood. -/
def mergeFrags (w res : Wick) (e : LogEntry) : Vector Frag 8 :=
  if res.live = w.live then (w.modFrag e.frag (fun g => { g with wait := (res.frag e.frag).wait })).frags
  else
    let g := res.frag e.frag
    let old := w.frag e.frag
    let g1 := { g with own := old.own, qv := old.qv }
    res.frags.setIfInBounds e.frag (if g.mask != 0 && g.pc == pcNext e.pc then { g1 with pc := old.pc, lru := old.lru } else g1)

/-- The wick after its instruction has been replayed with result res. -/
def Wick.replayed (w res : Wick) (e : LogEntry) (dests : List RegName) (act : Mask) : Wick :=
  let w1 := dests.foldl (mergeDest w.live act res e.frag) w
  { w1 with
    live := res.live
    frags := mergeFrags w1 res e
    serial := if res.live = w.live then w1.serial else res.serial
    info := { w1.info with stage := res.info.stage }
    books := { w1.books with svc := res.books.svc.orElse (fun _ => w1.books.svc), reply := res.books.reply } }

/-- Entry n of the log changed. -/
def Wick.modLog (w : Wick) (n : Nat) (f : LogEntry → LogEntry) : Wick :=
  { w with books := { w.books with log := w.books.log.setIfInBounds n (f (w.books.log[n]?.getD {})) } }

/-- A speculation begun by a replay goes back to the wick as the handler leaves it. -/
def resnap (s : State) (w : Wick) : State :=
  { s with snaps := s.snaps.map (fun (x : Wick) => if x.info.uid == w.info.uid then { w with trap := { w.trap with sl := false } } else x) }

/-- Every remaining lane completed: the entry is freed and s[D] := 0. -/
def replayDone (s : State) (w : Wick) (cx : Cx) (o : OpY) (n : Nat) (e : LogEntry) (i : Instr) (act : Mask) : Eff :=
  match s.findWick w.info.uid with
  | none => .stay s
  | some res =>
    let w1 := w.replayed res e i.writes act
    let w2 := (w1.modLog n (fun x => { x with valid := false, pending := [] })).wrS cx.f o.d.toNat 0
    .next ((resnap s w2).putWick w2)

/-- A lane faulted again: DONE grows, the fault is recorded, and s[D] := 1; while the ring has no room the REPLAY waits (17 R362). -/
def replayFault (s : State) (w : Wick) (cx : Cx) (o : OpY) (n : Nat) (e : LogEntry) (i : Instr) (done : Mask) (bad : List (Nat × Nat × PFault))
    (kind : AccKind) (foot : List (Nat × Nat × Nat)) : Eff :=
  match s.findWick w.info.uid with
  | none => .stay s
  | some res =>
    let recs := laneRecs s w e.pc 0 (some n) kind bad
    let w1 := w.replayed res e (if done = 0 then [] else i.writes.filter RegName.perLane) done
    if s.ringFull w.info.ctx recs.length then .wait 12
    else
    let w2 := (w1.modLog n (fun x => { x with done := x.done ||| done, foot := foot, bad := bad.map (fun (l, va, _) => (l, va)) })).wrS cx.f o.d.toNat 1
    .next (postFaults (s.putWick { w2 with books := { w2.books with faultSeq := w2.books.faultSeq + BitVec.ofNat 32 recs.length } }) w.info.ctx recs)

/-- A check failed: s[D] := 2, the entry stays, and the trap registers show the trap. -/
def replayTrap (s : State) (w : Wick) (cx : Cx) (o : OpY) (t : TrapInfo) : Eff :=
  .next (s.putWick ({ w with trap := { w.trap with
    tcause := BitVec.ofNat 64 t.cause, tmask := t.mask.setWidth 64, tval := t.val, tval2 := t.val2 } }.wrS cx.f o.d.toNat 2))

/-- REPLAY of a valid entry. -/
def replayEntry (s : State) (w : Wick) (cx : Cx) (o : OpY) (n : Nat) (e : LogEntry) : Eff :=
  match decode e.instr with
  | .error _ => replayTrap s w cx o { cause := 0x01 }
  | .ok i =>
    match loggedBody i with
    | none => replayTrap s w cx o { cause := 0x01 }
    | some body =>
      let w1 := w.atLog e
      let c := w.logCx e
      match body (s.putWick w1) w1 c with
      | .next s' | .jump s' _ => replayDone s' w cx o n e i c.act
      | .stay s' =>
        -- a call that may not speculate waits for its reply at the REPLAY (13 R277)
        (match s'.findWick w.info.uid with
         | some res =>
           if (res.frag e.frag).wait.svc.isSome then
             .stay (s'.putWick (w.modFrag e.frag (fun g => { g with wait := (res.frag e.frag).wait })))
           else replayDone s' w cx o n e i c.act
         | none => .stay s')
      | .trap t => replayTrap s w cx o t
      | .wait why => .wait why
      | .fault s' done bad kind foot _ => replayFault s' w cx o n e i done bad kind foot
      | .fetchFault _ _ p => replayTrap s w cx o { cause := p.cause }

def replayBody (s : State) (w : Wick) (cx : Cx) (o : OpY) : Eff :=
  let n := o.imm.toNat % 4
  let e : LogEntry := w.books.log[n]?.getD {}
  if e.valid then replayEntry s w cx o n e else .next (s.putWick (w.wrS cx.f o.d.toNat 0))

def execReplay (h : Hdr) (o : OpY) (s : State) : Host.Outcome State Fault Refusal := wickStep (.replay h o) s (fun s w cx => replayBody s w cx o)

end Sys2Proof.Machine
end

