-- ==== Sys2Proof/Machine/Debug.lean ====
section
/-! DEFINITION. Debug stops: BKPT, the PC comparators, watchpoints and steps (spec/21_debug_trace_power.md R412 to R416,
spec/06_control_and_arithmetic.md R151). -/

namespace Sys2Proof.Machine

/-! ### The controls as the wick read them (21 R413): bytes 0x40 to 0xC7 of the debug block -/

/-- The enabled comparator at a PC. -/
def Wick.pcHit (w : Wick) (pc : Word) : Option Nat :=
  (List.range 8).find? (fun n =>
    let c := fld w.books.debug (64 * n) 64
    c.testBit 63 && c % 2 ^ 57 == pc.toNat && pcForm (BitVec.ofNat 64 (c % 2 ^ 57)))

/-- Watchpoint n: base, length and ACC, when it is enabled and well formed. -/
def Wick.watch (w : Wick) (n : Nat) : Option (Nat × Nat × Nat) :=
  let c := fld w.books.debug (512 + 128 * n) 128
  if c.testBit 63 && fld c 64 32 != 0 && fld c 96 2 != 0 then some (c % 2 ^ 57, fld c 64 32, fld c 96 2) else none

/-- The wick is the one STEP names. -/
def Wick.stepping (w : Wick) : Bool :=
  let c := fld w.books.debug 1024 64
  c.testBit 63 && fld c 0 32 == w.info.lseq.toNat && fld c 32 24 == w.info.rank % 2 ^ 24

/-! ### Watchpoints -/

/-- The first watchpoint that some access meets, with the lowest address it matches. -/
def Wick.watchHit (w : Wick) (sp : List Span) : Option (Nat × Nat) :=
  (List.range 4).findSome? (fun n =>
    match w.watch n with
    | none => none
    | some (base, len, acc) =>
      let hits := sp.filter (fun x => ((acc.testBit 0 && x.rd) || (acc.testBit 1 && x.wr)) && decide (x.va < base + len) && decide (base < x.va + x.len))
      (hits.map (fun x => max x.va base)).min?.map (fun a => (n, a)))

/-! ### The stop (21 R414, R415) -/

/-- The stop taken when several kinds hold at one boundary. -/
def mkStop (w : Wick) (f : Nat) (pc : Word) (mask : Mask) (hit : Option (Nat × Nat)) (step : Bool) (cmp : Option Nat) : Option StopInfo :=
  let held := bN hit.isSome + 2 * bN step + 4 * bN cmp.isSome
  match hit, step, cmp with
  | some (n, a), _, _ => some ⟨2, n, held, f, pc, mask, BitVec.ofNat 64 a⟩
  | none, true, _ => some ⟨3, 0, held, f, pc, mask, 0⟩
  | none, false, some n => if w.books.fresh.contains f then none else some ⟨1, n, held, f, pc, mask, 0⟩
  | none, false, none => none

/-- A stop that is due: in speculation it is held as a trap. -/
def Wick.setStop (w : Wick) (x : StopInfo) : Wick :=
  let w1 := { w with books := { w.books with stop := some x } }
  if w.books.svc.isSome && w.books.held.isNone then { w1 with books := { w1.books with held := some { cause := 0x0C } } } else w1

/-- The STOP record of a wick. -/
def stopRec (s : State) (w : Wick) (x : StopInfo) : Nat :=
  traceRec s 1 x.kind x.index x.held (w.books.traceSeq + 1) w.info.wickId x.pc x.mask w.info.srcId x.addr 0

/-- The work of a wick's STOP record (17 R423). -/
def stopWork (w : Wick) : Nat := 2 ^ 53 + w.info.uid

/-- The boundary at which a stop is taken: its fragment's PC, which an ERET has changed since a REPLAY hit a watchpoint (21 R414). -/
def StopInfo.at (x : StopInfo) (w : Wick) : StopInfo := if (w.frag x.frag).state == .running then { x with pc := (w.frag x.frag).pc } else x

/-- The record is written, and the wick enters single-lane mode with cause 0x0C; while the ring is full, or its page fails, it waits. -/
def debugStop (s : State) (wick : Nat) : State :=
  match s.findWick wick with
  | none => s
  | some w =>
    match w.books.stop.map (fun x => x.at w) with
    | none => s
    | some x =>
      let w1 : Wick := { w.endWaits with books := { w.books with stop := none } }
      if w.info.stage != .resident || w.trap.sl || w.books.svc.isSome || w.books.pair.isSome || s.isStopped w.info.ctx (stopWork w) then s
      else if s.dbgen w.info.ctx then
        match writeTrace s w.info.ctx (stopRec s w x) false with
        | .error (acc, va, p) => ownStop s w.info.ctx (stopWork w) acc va p
        | .ok none => s
        | .ok (some s1) => takeTrap s1 { w1 with books := { w1.books with traceSeq := w.books.traceSeq + 1 } } x.frag x.pc { cause := 0x0C }
      else if x.kind = 0 then takeTrap s w1 x.frag x.pc { cause := 0x0C }
      else s.putWick w1

def execEvDebugStop (wick : Nat) (s : State) : Host.Outcome State Fault Refusal := .next (debugStop s wick)

/-- BKPT (06 R151): the stop is made at once when it can be. -/
def bkptBody (s : State) (w : Wick) (cx : Cx) : Eff :=
  let w1 := w.setStop ⟨0, 0, 0, cx.f, cx.pc, cx.act, 0⟩
  .stay (debugStop (s.putWick w1) w.info.uid)

def execBkpt (h : Hdr) (o : OpC) (s : State) : Host.Outcome State Fault Refusal := wickStep (.bkpt h o) s (fun s w cx => bkptBody s w cx)

/-! ### Around an issue -/

/-- A comparator at the PC a fragment is about to issue, or at the second of the pair that it begins: the stop it makes, before the pair (05
R122, log 138). -/
def stopBefore (w : Wick) (f : Nat) (i : Instr) (leads : Bool) : Option StopInfo :=
  if w.trap.sl || w.inAccess || w.books.pair.isSome then none
  else
    let cx := w.cx f i
    mkStop w f cx.pc cx.act none false ((w.pcHit cx.pc).orElse (fun _ => if leads then w.pcHit (pcNext cx.pc) else none))

/-- An issue of fragment f has changed the fragment: it completed. -/
def issued (w w' : Wick) (f : Nat) : Bool :=
  let a := w.frag f
  let b := w'.frag f
  a.pc != b.pc || a.lru != b.lru || a.state != b.state || a.mask != b.mask

/-- The lanes an instruction completed: all that were active, or those its new log entry has as done. -/
def doneLanes (w w' : Wick) (cx : Cx) : Mask :=
  match (List.range 4).find? (fun n => !(w.books.log[n]?.getD {}).valid && (w'.books.log[n]?.getD {}).valid) with
  | some n => (w'.books.log[n]?.getD {}).done
  | none => cx.act

/-- A stop found after the second half of a pair joins one found after the first (05 R122), and a comparator at the boundary is marked. -/
def joinStops (old new : Option StopInfo) (f : Nat) (pc : Word) (cmp : Option Nat) : Option StopInfo :=
  let mark (o : StopInfo) (held : Nat) : StopInfo := { o with frag := f, pc := pc, held := o.held ||| held ||| 4 * bN cmp.isSome }
  match old, new with
  | some o, some x => some (mark o x.held)
  | some o, none => some (mark o 0)
  | none, x => x

/-- The stop due after an instruction of the execute slice has completed; w issued it in s and w' is what it left. -/
def stopAfter (s : State) (w w' : Wick) (f : Nat) (i : Instr) : Option StopInfo :=
  if w.trap.sl || w.inAccess || w'.trap.sl || !issued w w' f then none
  else
    let cx := w.cx f i
    let done := doneLanes w w' cx
    let hit := w.watchHit ((accessSpans s i w cx).filter (fun x => done.getLsbD x.lane))
    let step := w.stepping && w'.books.pair.isNone
    let g := if (w'.frag f).state == .running then f else (w'.deliverFrag).getD f
    let pc := (w'.frag g).pc
    let cmp := if w'.books.pair.isNone then w.pcHit pc else none
    joinStops w.books.stop (if hit.isSome || step then mkStop w g pc cx.act hit step cmp else none) g pc cmp

/-- The stop due when a REPLAY has completed lanes (21 R414): it fires once single-lane mode has been left. -/
def stopReplay (s : State) (w w' : Wick) (n : Nat) : Option StopInfo :=
  let e : LogEntry := w.books.log[n]?.getD {}
  let e' : LogEntry := w'.books.log[n]?.getD {}
  match decode e.instr with
  | .error _ => none
  | .ok i =>
    let cx := w.logCx e
    let now := if e'.valid then e'.done &&& ~~~ e.done else cx.act
    let hit := w.watchHit ((accessSpans s i (w.atLog e) cx).filter (fun x => now.getLsbD x.lane))
    if e.valid && hit.isSome then mkStop w w'.trap.tfrag w'.trap.tpc e.active hit false none else none

end Sys2Proof.Machine
end

