-- ==== Sys2Proof/Machine/Sched.lean ====
section
/-! DEFINITION. The Candelabrum: queues, packets, validation, dependence, placement and completion
(spec/19_command_processing_and_scheduling.md R370 to R386; spec/01_execution_model.md R28 to R32, R39, R45;
spec/14_rendering_and_lantern.md R284 to R288). -/

namespace Sys2Proof.Machine

/-! ### Queues (19 R370, R371) -/

def State.queue (s : State) (die q : Nat) : Queue := (s.dies[die]?.getD {}).queues[q]?.getD {}

def State.modDie (s : State) (die : Nat) (f : Die → Die) : State := { s with dies := s.dies.setIfInBounds die (f (s.dies[die]?.getD {})) }

def State.modQueue (s : State) (die q : Nat) (f : Queue → Queue) : State :=
  s.modDie die (fun d => { d with queues := d.queues.setIfInBounds q (f (d.queues[q]?.getD {})) })

def Queue.en (q : Queue) : Bool := q.desc.getLsbD 0
def Queue.fld (q : Queue) (lo n : Nat) : Nat := Machine.fld q.desc.toNat lo n

/-- A store to TAIL: one of another size is dropped, a bad value stops the queue (20 R401: the region answers once the firmware runs). -/
def tailWrite (s : State) (die queue size : Nat) (value : Word) : State :=
  let q := s.queue die queue
  let n := value.toNat
  if s.cfg.boot ≠ 1 ∨ die ≥ 4 ∨ queue ≥ 64 ∨ size ≠ 8 ∨ !q.en ∨ q.stopped then s
  else if n < q.tail ∨ n > q.head + 63 then s.modQueue die queue (fun q => { q with stopped := true })
  else s.modQueue die queue (fun q => { q with tail := n })

def execEvTailWrite (die queue size : Nat) (value : Word) (s : State) : Host.Outcome State Fault Refusal := .next (tailWrite s die queue size value)

/-- The offset of a command window. -/
def windowOff (die q : Nat) : Nat := die * 0x40000 + q * 0x1000

/-- The packet in slot n mod 63 of a window. -/
def windowPacket (s : State) (die q n : Nat) : Nat := s.mem.read (keyCtl (windowOff die q + 64 * (n % 63))) 64

/-! ### Packets (19 R373, R374) -/

def pType (b : Nat) : Nat := fld b 0 8

/-- A range entry that may be absent: BASE, W, LEN (19 R376). -/
def rangeOk (e : Nat) (absent : Bool) : Bool :=
  fld e 57 6 == 0 && ((absent && fld e 64 64 == 0) || (decide (1 ≤ fld e 64 64) && decide (fld e 64 64 ≤ 2 ^ 57)))

def parseRange (e : Nat) : Range := ⟨fld e 0 57, fld e 64 64, e.testBit 63⟩

/-- A packet keeps R373 and R374; a launch's KIND says whether it has the closure fields. -/
def packetOk (b kind : Nat) : Bool :=
  fld b 10 22 == 0 && (match pType b with
    | 0 => fld b 64 448 == 0
    | 1 => fld b 64 8 == 0 && fld b 256 256 == 0 && (kind == 4 || fld b 128 128 == 0)
    | 2 => fld b 128 384 == 0
    | 3 => fld b 448 64 == 0 && rangeOk (fld b 192 128) true && rangeOk (fld b 320 128) true
    | 4 => fld b 257 255 == 0
    | 5 => fld b 64 3 == 0 && fld b 193 319 == 0
    | 6 => fld b 92 36 == 0 && fld b 134 58 == 0 && fld b 256 256 == 0
    | 7 => fld b 64 3 == 0 && fld b 195 317 == 0 && decide (fld b 192 3 < 6)
    | 8 => fld b 70 58 == 0 && fld b 192 320 == 0
    | 9 => fld b 80 432 == 0
    | 10 => fld b 80 48 == 0 && fld b 192 320 == 0
    | _ => false)

/-- The order in which a round takes the types (19 R372). -/
def typeOrder (t : Nat) : Nat :=
  match t with
  | 5 | 6 => 0
  | 7 => 1
  | 1 => 2
  | 2 => 3
  | 3 => 4
  | 4 => 5
  | _ => 6 + t

/-! ### Launch records (19 R375, R376) -/

/-- Range i of a record. -/
def recRange (r i : Nat) : Nat := fld r (1024 + 128 * i) 128

/-- A launch record keeps R375, R376 and the first of R377's cases. -/
def launchOk (r : Nat) : Bool :=
  let kind := fld r 0 3
  let nband := fld r 40 9
  let nrange := fld r 8 4
  let n := fld r 64 32
  let node := kind == 2
  decide (kind ≤ 4) && fld r 12 4 == 0 && decide (nrange ≤ 8) && fld r 32 3 == 0 && decide (8 ≤ fld r 32 8) && decide (fld r 32 8 ≤ 128)
    && decide (nband ≤ 256) && fld r 49 15 == 0
    && (if kind = 0 then decide (1 ≤ n) && decide (n ≤ 2 ^ 24) else node || n == 0)
    && (node || fld r 96 32 == 0) && (!(node || kind == 4) || fld r 128 64 == 0) && (r.testBit 6 || fld r 192 64 == 0)
    && (nband != 0 || (fld r 320 64 == 0 && fld r 384 64 == 0)) && fld r 448 31 == 0 && fld r 512 12 == 0 && decide (fld r 544 32 ≤ 2 ^ 30)
    && (!(kind == 0 || kind == 4) || fld r 704 64 == 0) && (node || fld r 768 64 == 0)
    && (if node then decide (1 ≤ fld r 832 16) else fld r 832 16 == 0) && fld r 848 176 == 0
    && (List.range 8).all (fun i => if i < nrange then rangeOk (recRange r i) false else recRange r i == 0)
    && (!r.testBit 5 || fld r 640 64 != 0)
    && (nband == 0 || kind == 0 || kind == 3)

/-- The ranges a launch declares; a pass's colour targets are write ranges (19 R378). -/
def launchRanges (r pass : Nat) : List Range :=
  if !launchOk r then []
  else
    (List.range (fld r 8 4)).map (fun i => parseRange (recRange r i))
      ++ (if fld r 0 3 = 3 then (List.range (pTargets pass)).map (fun j => ⟨pRt pass j, pPitch pass * pH pass, true⟩) else [])

/-- The ranges a COPY declares. -/
def copyRanges (b : Nat) : List Range :=
  ([fld b 192 128, fld b 320 128].filter (fun e => fld e 64 64 != 0)).map parseRange

/-! ### Parse rounds (19 R372, R379) -/

/-- Entries of a die's interval table in use. -/
def State.intervals (s : State) (die : Nat) : Nat := ((s.packets.filter (fun p => p.die == die)).map (fun p => p.ranges.length)).foldl (· + ·) 0

/-- The accesses of the Candelabrum in a context. -/
def candAcc (ctx : Nat) : EAcc := ⟨ctx, true, 0⟩

/-- The pass record of a launch record, zero for a launch that is no pass. -/
def readPassRec (ctx r : Nat) : EM Nat := if fld r 0 3 = 3 then eRd (candAcc ctx) (fld r 704 64) 128 else pure 0

/-- The launch record, and for a pass its pass record, whose colour targets are ranges, as the Candelabrum finds them when it accepts the
packet (19 R378). Of a packet or a record that is malformed no pass record is read (19 R373, R377). Validation reads the pass record for itself
(14 R285, log 26). -/
def readLaunch (ctx body : Nat) : EM (Nat × Nat) := do
  let r ← eRd (candAcc ctx) (fld body 64 64) 256
  let p ← if packetOk body (fld r 0 3) && launchOk r then readPassRec ctx r else pure 0
  pure (r, p)

/-- A lane of the round may accept its head packet. -/
def laneReady (s : State) (die q : Nat) : Bool :=
  let x := s.queue die q
  let mine := s.packets.filter (fun p => p.die == die && p.queue == q)
  x.en && !x.stopped && decide (x.head < x.tail) && mine.all (fun p => pType p.body != 7 && p.n + x.fld 128 32 != x.head)

/-- The packet a queue accepts. -/
def mkPacket (s : State) (die q body : Nat) : Packet :=
  let x := s.queue die q
  { id := s.nextUid, die := die, queue := q, n := x.head, part := x.fld 2 3, ctx := x.fld 16 16, pasid := x.fld 32 20, cap := x.fld 6 2,
    priv := x.desc.getLsbD 1, msix := x.fld 8 8, crbase := x.fld 64 64, crsize := x.fld 128 32, body := body, lseq := (s.dies[die]?.getD {}).lseq + 1 }

/-- A packet accepted: LSEQ and HEAD count. One that breaks R373 or R374 is over at once, and so is one the queue denies. -/
def acceptPacket (s : State) (p : Packet) : State :=
  let kind := ((p.launch.map (fun l => l.fld 0 3)).getD 0)
  let t := pType p.body
  let p1 : Packet :=
    if !packetOk p.body kind then { p with status := 1, ended := true, launch := none }
    else if decide (8 ≤ t) && decide (t ≤ 10) && !p.priv then { p with status := 5, ended := true }
    else if t = 2 then { p with sync := some { world := fld p.body 64 64 } }
    else if t = 3 then { p with ranges := copyRanges p.body }
    else match p.launch with
      | some l => { p with ranges := launchRanges l.record l.pass }
      | none => p
  let s1 := s.modDie p.die (fun d => { d with lseq := d.lseq + 1 })
  let s2 := s1.modQueue p.die p.queue (fun q => { q with head := q.head + 1 })
  { s2 with nextUid := s2.nextUid + 1, packets := s2.packets ++ [p1] }

/-- The work of a queue whose head packet's record cannot be read (17 R423). -/
def laneWork (die q : Nat) : Nat := 2 ^ 52 + die * 64 + q

/-- One lane takes its head packet, when the interval table has room and its records can be read. A packet that breaks R373 or R374
whatever its launch's kind has no other effect: no record of it is read. -/
def acceptLane (s : State) (die q : Nat) : State :=
  let body := windowPacket s die q (s.queue die q).head
  let p := mkPacket s die q body
  let enter (s : State) (p : Packet) (need : Nat) : State := if s.intervals die + need ≤ 4096 then acceptPacket s p else s
  if !packetOk body 4 then enter s p 0
  else if pType body = 1 then
    if s.isStopped p.ctx (laneWork die q) then s
    else
    match readLaunch p.ctx body s with
    | .ok ((r, pass), s1) =>
      enter s1 { p with launch := some { record := r, pass := pass, handle := BitVec.ofNat 64 (fld body 128 64), arg := BitVec.ofNat 64 (fld body 192 64) } }
        (launchRanges r pass).length
    | .error (.page k a f) => ownStop s p.ctx (laneWork die q) k a f
    | .error (.malf _) => s
  else enter s p (if pType body = 3 then (copyRanges body).length else 0)

/-- A list sorted by a key, equal elements in their order. -/
def sortBy (key : α → Nat) : List α → List α
  | [] => []
  | x :: xs => insert_ x (sortBy key xs)
where
  insert_ (x : α) : List α → List α
    | [] => [x]
    | y :: ys => if key x ≤ key y then x :: y :: ys else y :: insert_ x ys

/-- A parse round: the lanes in the mask, one type at a time and by queue within it. -/
def parseRound (s : State) (die : Nat) : State :=
  if die ≥ 4 then s
  else
    let lanes := (List.range 64).filter (laneReady s die)
    (sortBy (fun q => typeOrder (pType (windowPacket s die q (s.queue die q).head))) lanes).foldl (fun s q => acceptLane s die q) s

def execEvParseRound (die : Nat) (s : State) : Host.Outcome State Fault Refusal := .next (parseRound s die)

/-! ### The group table (01 R28 to R32, R39) -/

/-- The ranks of a list-mode entry: bits [31:24] must be zero. -/
def readList (acc : EAcc) (addr : Nat) : Nat → EM (List Nat)
  | 0 => pure []
  | n + 1 => do
    let x ← eRd acc addr 4
    let rest ← readList acc (addr + 4) n
    if x ≥ 2 ^ 24 then eMalf addr else pure (x :: rest)

/-- One entry as the Candelabrum validates it. -/
def readBand (acc : EAcc) (addr : Nat) : EM BandSpec := do
  let e ← eRd acc addr 32
  let cntm := fld e 32 8
  let list := e.testBit 75
  let ok := fld e 24 8 == 0 && fld e 76 52 == 0 && fld e 192 64 == 0 && fld e 73 2 != 3 && decide (fld e 40 8 ≤ cntm) && decide (fld e 64 9 ≤ 256)
    && (if list then fld e 0 24 == 0 && fld e 48 16 == 0 && fld e 128 2 == 0 else fld e 48 16 != 0 && fld e 128 64 == 0)
  if !ok then eMalf addr
  else
    let members ← if list then readList acc (fld e 128 64) (cntm + 1) else pure ((List.range (cntm + 1)).map (fun j => fld e 0 24 + j * fld e 48 16))
    if members.eraseDups.length ≠ members.length then eMalf addr
    else pure ⟨members, fld e 40 8, fld e 64 9, fld e 73 2⟩

/-- A tile-band template (01 R39, 14 R286); its STRIDE says nothing (log 110). -/
def readTemplate (acc : EAcc) (addr pass : Nat) : EM BandSpec := do
  let e ← eRd acc addr 32
  let b ← readBand acc addr
  if e.testBit 75 ∨ fld e 0 24 ≠ 0 ∨ !(b.place == 2 || b.members.length == 1) ∨ b.win < tileUnits pass then eMalf addr
  else pure { b with members := List.range b.members.length }

/-- The table of a launch. -/
def readSpecs (acc : EAcc) (l : Launch) : EM (List BandSpec) := do
  let n := l.fld 40 9
  let gtab := l.fld 320 64
  if l.fld 0 3 = 3 then
    if n = 0 then pure []
    else if n > 1 then eMalf gtab
    else
      let b ← readTemplate acc gtab l.pass
      pure [b]
  else (List.range n).mapM (fun i => readBand acc (gtab + 32 * i))

/-- The ranks joined to some ranks through bands; fuel is one more than the number of bands. -/
def joinRanks (specs : List BandSpec) : Nat → List Nat → List Nat
  | 0, rs => rs
  | n + 1, rs =>
    let more := (specs.filter (fun b => b.members.any rs.contains)).flatMap (fun b => b.members.filter (fun m => !rs.contains m))
    if more.isEmpty then rs else joinRanks specs n (rs ++ more.eraseDups)

/-- The placement group of a rank (01 R31): its members in ascending rank, and its bands with their indices. -/
def groupOf (specs : List BandSpec) (rank : Nat) : List Nat × List (Nat × BandSpec) :=
  let rs := joinRanks specs (specs.length + 1) [rank]
  (sortBy id rs, (specs.zipIdx).filterMap (fun (b, i) => if b.members.any rs.contains then some (i, b) else none))

/-- The lowest ranks of the groups of a table. -/
def groupHeads (specs : List BandSpec) : List Nat :=
  let firsts := specs.map (fun b => (groupOf specs (b.members.head?.getD 0)).1.head?.getD 0)
  firsts.eraseDups

/-- The errors of R30 that give PLACEMENT. -/
def placementBad (s : State) (p : Packet) (l : Launch) (specs : List BandSpec) : Bool :=
  let ng := l.fld 32 8
  let slots := 4 * min 16 (1024 / max ng 1)
  let ranks := (specs.flatMap BandSpec.members).eraseDups
  specs.any (fun b => (l.fld 0 3 == 0 && b.members.any (fun m => decide (m ≥ l.fld 64 32))) || (b.place == 1 && decide (b.members.length > 64))
      || (b.place == 2 && decide (b.members.length > slots)))
    || ranks.any (fun r => decide ((specs.filter (fun b => b.members.contains r)).length > 4))
    || (groupHeads specs).any (fun h => let g := groupOf specs h; !groupFits s p.ctx ng g.1 (g.2.map Prod.snd))

/-! ### Validation (19 R377) -/

/-- The graph of a node launch or of a pass's geometry phase. -/
def mkGraph (id : Nat) (p : Packet) (l : Launch) : Graph :=
  if l.fld 0 3 = 2 then
    { id := id, pkt := p.id, ctx := p.ctx, table := l.fld 704 64, count := l.fld 832 16, root := l.fld 96 32, rootAddr := l.fld 768 64,
      rootLeft := l.fld 64 32 }
  else
    { id := id, pkt := p.id, ctx := p.ctx, table := fld l.pass 320 64, count := fld l.pass 400 16, root := fld l.pass 384 16,
      rootAddr := fld l.pass 448 64, rootLeft := fld l.pass 416 32 }

/-- The pass record keeps R285, its root count against the root's descriptor among it. -/
def readPass (p : Packet) (l : Launch) : EM Unit := do
  if l.fld 0 3 = 3 then
    if !passOk l.pass ∨ l.fld 704 7 ≠ 0 then eMalf (l.fld 704 64)
    else
      let d ← readNode (mkGraph 0 p l) (fld l.pass 384 16)
      if fld l.pass 416 32 > d.qcap then eMalf (l.fld 704 64)
  else pure ()

/-- What validation reads: the pass's records, the group table and the world's. -/
def readAll (p : Packet) (l : Launch) : EM (List BandSpec) := do
  readPass p l
  let specs ← readSpecs (candAcc p.ctx) l
  if l.fld 640 64 ≠ 0 then checkWorld (candAcc p.ctx) (l.fld 640 64)
  pure specs

/-- A packet ends with a status and no other effect; it holds its ranges until its completion (19 R379). -/
def State.endPacket (s : State) (pkt status : Nat) : State := s.modPacket pkt (fun p => { p with status := status, ended := true })

/-- A closure packet takes its reference (13 R265, R269). -/
def takeClosure (s : State) (p : Packet) (l : Launch) : State ⊕ Nat :=
  if l.fld 0 3 ≠ 4 then .inl s
  else if (s.handleFault p.ctx l.handle true).isSome then .inr 1
  else if !s.refRoom p.ctx l.handle 1 then .inr 7
  else .inl (s.addRef p.ctx l.handle 1)

/-- Validation after acceptance; a page that fails makes it wait (17 R423). A group table with an error of each kind completes with
MALFORMED (DESIGN CHOICE, log entry 129: 01 R30 and 19 R377 do not order the two statuses). -/
def validateLaunch (s : State) (pkt : Nat) : State :=
  match s.findPacket pkt with
  | none => s
  | some p =>
    match p.launch with
    | none => s
    | some l =>
      if l.valid || p.ended || s.isStopped p.ctx (packetWork pkt 3) then s
      else if !launchOk l.record then s.endPacket pkt 1
      else
        match (do let r ← readPassRec p.ctx l.record; let specs ← readAll p { l with pass := r }; pure (r, specs)) s with
        | .error (.malf _) => s.endPacket pkt 1
        | .error (.page k a f) => ownStop s p.ctx (packetWork pkt 3) k a f
        | .ok ((r, specs), s1) =>
          let l1 := { l with pass := r }
          if placementBad s1 p l1 specs then s1.endPacket pkt 2
          else
            match takeClosure s1 p l1 with
            | .inr status => s1.endPacket pkt status
            | .inl s2 => (s2.modLaunch pkt (fun l => { l with pass := r, specs := specs, valid := true })).modPacket pkt
                (fun p => { p with ranges := launchRanges l.record r })

def execEvLaunch (pkt : Nat) (s : State) : Host.Outcome State Fault Refusal := .next (validateLaunch s pkt)

/-! ### Dependence and start (19 R378, R373; 11 R235, R245) -/

def Range.meets (a b : Range) : Bool := (a.write || b.write) && decide (a.base < b.base + b.len) && decide (b.base < a.base + a.len)

/-- P depends on an earlier packet of its partition. -/
def dependsOn (p e : Packet) : Bool := decide (e.id < p.id) && e.part == p.part && p.ranges.any (fun a => e.ranges.any (fun b => a.meets b))

/-- A launch of a world waits for the application of every sync accepted before it, in WRITE mode for the compaction too. -/
def waitsForSync (s : State) (p : Packet) (l : Launch) : Bool :=
  l.fld 640 64 != 0 && s.packets.any (fun q => q.ctx == p.ctx && !q.ended && (match q.sync with
    | some y => y.world == l.fld 640 64 && ((decide (q.id < p.id) && decide (y.phase < 2)) || (!l.record.testBit 5 && y.phase == 2)
        || (decide (q.id < p.id) && !l.record.testBit 5))
    | none => false))

/-- A packet may start its work. -/
def mayStart (s : State) (p : Packet) : Bool :=
  !p.started && !p.ended && !s.partStopped p.part
    && (!p.body.testBit 8 || s.packets.all (fun q => !(q.die == p.die && q.queue == p.queue && decide (q.id < p.id))))
    && s.packets.all (fun q => !dependsOn p q)
    && (match p.launch with
      | some l => l.valid && !waitsForSync s p l
      | none => pType p.body != 4 || p.snap.isSome)

/-- Every bin's header zeroed (14 R288). -/
def clearBins (acc : EAcc) (r : Nat) : Nat → EM Unit
  | 0 => pure ()
  | n + 1 => do
    eWr acc (binAddr r n) 64 0
    clearBins acc r n

/-- What a launch does at its start beside the placement of its wicks. -/
def startLaunch (s : State) (p : Packet) (l : Launch) : Except EErr State :=
  match l.fld 0 3 with
  | 1 =>
    match queryTables (candAcc p.ctx) (l.fld 640 64) (l.fld 704 64) s with
    | .ok (ts, s1) => .ok (s1.modLaunch p.id (fun l => { l with query := some ts }))
    | .error e => .error e
  | 2 => .ok (addGraph s)
  | 3 =>
    match clearBins (candAcc p.ctx) l.pass (pTx l.pass * pTy l.pass) s with
    | .ok (_, s1) => .ok (addGraph s1)
    | .error e => .error e
  | _ => .ok s
where
  addGraph (s : State) : State :=
    let g := mkGraph s.nextUid p l
    { s with nextUid := s.nextUid + 1, graphs := s.graphs ++ [g] }.modLaunch p.id (fun l => { l with graph := some g.id })

def packetStart (s : State) (pkt : Nat) : State :=
  match s.findPacket pkt with
  | none => s
  | some p =>
    if !mayStart s p || s.isStopped p.ctx (packetWork pkt 4) then s
    else
      let go (s : State) : State := s.modPacket pkt (fun p => { p with started := true, start := s.now })
      match p.launch with
      | none => go s
      | some l =>
        match startLaunch s p l with
        | .ok s1 => go s1
        | .error (.page k a f) => ownStop s p.ctx (packetWork pkt 4) k a f
        | .error (.malf _) => (go s).endPacket pkt 1

def execEvPacketStart (pkt : Nat) (s : State) : Host.Outcome State Fault Refusal := .next (packetStart s pkt)

/-! ### The other packets -/

/-- A packet of this type that has started and is not over. -/
def State.active (s : State) (pkt ty : Nat) : Option Packet := (s.findPacket pkt).filter (fun p => pType p.body == ty && p.started && !p.ended)

def execEvNopPacket (pkt : Nat) (s : State) : Host.Outcome State Fault Refusal :=
  .next (match s.active pkt 0 with
    | some _ => s.modPacket pkt (fun p => { p with ended := true })
    | none => s)

/-- The sync of a world is entered (11 R245). -/
def worldsync (s : State) (pkt : Nat) : State :=
  s.modPacket pkt (fun p => if pType p.body = 2 && !p.ended && p.sync.isNone then { p with sync := some { world := fld p.body 64 64 } } else p)

def execEvWorldsync (pkt : Nat) (s : State) : Host.Outcome State Fault Refusal := .next (worldsync s pkt)

/-- The two shapes of a COPY keep R182 with SPACE 0 and no translation register. -/
def packetShapes (r1 r2 : Nat) : Option (Shape × Shape) :=
  let a := parseShape r1
  let b := parseShape r2
  if shapeOk r1 && shapeOk r2 && a.space == 0 && b.space == 0 && a.tx == 7 && b.tx == 7 && a.esz == b.esz && decide (shapeBytes b ≤ 2 ^ 36) then some (a, b)
  else none

/-- A COPY goes to the Candelabrum's channel of its die (19 R374). -/
def copyPacket (s : State) (pkt : Nat) : State :=
  match s.active pkt 3 with
  | none => s
  | some p =>
    let a := fld p.body 64 64
    let d := fld p.body 128 64
    if s.copies.any (fun c => c.pkt == pkt) || s.isStopped p.ctx (packetWork pkt 4) then s
    else if a % 8 ≠ 0 ∨ d % 8 ≠ 0 then s.endPacket pkt 1
    else
      match (do let x ← eRd (candAcc p.ctx) a 64; let y ← eRd (candAcc p.ctx) d 64; pure (x, y)) s with
      | .error (.page k va f) => ownStop s p.ctx (packetWork pkt 4) k va f
      | .error (.malf _) => s.endPacket pkt 1
      | .ok ((r1, r2), s1) =>
        match packetShapes r1 r2 with
        | none => s1.endPacket pkt 1
        | some (src, dst) =>
          let id := 2048 + p.die
          let k := s1.chan id
          let c : Copy :=
            { chan := id, seq := k.seq + 1, uid := 0, pkt := pkt, rank := 0, ctx := p.ctx, cluster := 0, core := 0, band := 0, batch := 0, src := src, dst := dst }
          if (rangeCheck { uid := 0, pkt := pkt, index := 0, members := [] } c).isSome then s1.endPacket pkt 1
          else { s1.putChan { k with seq := k.seq + 1 } with copies := s1.copies ++ [c] }

def execEvCopy (pkt : Nat) (s : State) : Host.Outcome State Fault Refusal := .next (copyPacket s pkt)

/-- SIGNAL: one read-modify-write (19 R382); an address that does not translate gives FAULT (19 R380). -/
def signal (s : State) (pkt : Nat) : State :=
  match s.active pkt 5 with
  | none => s
  | some p =>
    let a := fld p.body 64 64
    match s.ctxRead p.ctx a 8 with
    | (.error _, _) => s.endPacket pkt 8
    | (.ok old, s1) =>
      let v := if p.body.testBit 192 then (old + fld p.body 128 64) % 2 ^ 64 else fld p.body 128 64
      match s1.ctxWrite p.ctx a 8 v with
      | .error _ => s.endPacket pkt 8
      | .ok s2 => s2.modPacket pkt (fun p => { p with ended := true })

def execEvSignal (pkt : Nat) (s : State) : Host.Outcome State Fault Refusal := .next (signal s pkt)

/-- UIRAISE: sent once, and over when its answer has come (19 R382, 13 R272). -/
def uiraise (s : State) (pkt : Nat) : State :=
  match s.active pkt 6 with
  | none => s
  | some p =>
    if p.target.isSome then s
    else
      let s1 := s.modPacket pkt (fun p => { p with target := some 0 })
      let vec := fld p.body 128 6
      let payload := BitVec.ofNat 64 (fld p.body 192 64)
      match sendTo s (fld p.body 80 12) with
      | .refused => s1.endPacket pkt 7
      | .local_ => s1.send (fld p.body 64 16) ⟨.host p.pasid, vec, payload, .packet pkt⟩
      | .peer n => { s1 with out := { s1.out with links := s1.out.links ++ [.send n p.ctx (fld p.body 64 16) vec payload] } }

def execEvUiraise (pkt : Nat) (s : State) : Host.Outcome State Fault Refusal := .next (uiraise s pkt)

/-- WAIT rereads its word: none when the address does not translate. -/
def waitHolds (s : State) (p : Packet) : Option Bool :=
  match s.ctxRead p.ctx (fld p.body 64 64) 8 with
  | (.error _, _) => none
  | (.ok v, _) => some (waitmCond (fld p.body 192 3) 8 v (fld p.body 128 64))

/-- WAIT has been accepted and blocks its queue (19 R372, R382); an address that does not translate gives FAULT. -/
def waitPacket (s : State) (pkt : Nat) : State :=
  match s.active pkt 7 with
  | none => s
  | some p => if (waitHolds s p).isNone then s.endPacket pkt 8 else s

def execEvWait (pkt : Nat) (s : State) : Host.Outcome State Fault Refusal := .next (waitPacket s pkt)

def waitSatisfied (s : State) (pkt : Nat) : State :=
  match s.active pkt 7 with
  | none => s
  | some p =>
    match waitHolds s p with
    | none => s.endPacket pkt 8
    | some true => (s.ctxRead p.ctx (fld p.body 64 64) 8).2.modPacket pkt (fun p => { p with ended := true })
    | some false => s

def execEvWaitSatisfied (pkt : Nat) (s : State) : Host.Outcome State Fault Refusal := .next (waitSatisfied s pkt)

/-- PREEMPT: every resident group of the context (19 R384). -/
def preemptPacket (s : State) (pkt : Nat) : State :=
  match s.active pkt 9 with
  | none => s
  | some p =>
    let c := fld p.body 64 16
    let s1 := ((s.groups.filter (fun g => g.ctx == c)).map Group.id).foldl deliverPreempt s
    s1.modPacket pkt (fun p => { p with ended := true })

def execEvPreempt (pkt : Nat) (s : State) : Host.Outcome State Fault Refusal := .next (preemptPacket s pkt)

/-- RESUME: the context's stopped work is rechecked, and the parked wicks it names are to enter (19 R384). -/
def resumePacket (s : State) (pkt : Nat) : State :=
  match s.active pkt 10 with
  | none => s
  | some p =>
    let c := fld p.body 64 16
    let id := fld p.body 128 64
    let s1 := recheckOwn (recheckEngines s c (fun _ _ => true)) c (fun _ _ => true)
    let s2 : State := { s1 with wicks := s1.wicks.map (fun (w : Wick) =>
      if w.info.ctx == c && w.trap.parked && w.info.stage == .resident && (id == 0 || w.info.wickId == id) then w.unpark else w) }
    s2.modPacket pkt (fun p => { p with ended := true })

def execEvResume (pkt : Nat) (s : State) : Host.Outcome State Fault Refusal := .next (resumePacket s pkt)

/-! ### CANCEL (19 R383) -/

/-- Continuation records of a launch that will start nothing are dropped, with what they hold. -/
def dropConts (s : State) (pkt : Nat) : State :=
  let gone := s.conts.filter (fun r => r.pkt == pkt && r.final.isSome)
  let s1 := gone.foldl (fun s r =>
    if r.kind = 4 then s.release r.ctx r.handle
    else if r.kind = 6 then (match r.ray with
      | some ray => giveVerdict s ray 0
      | none => s)
    else s) s
  { s1 with conts := s1.conts.filter (fun r => !(r.pkt == pkt && r.final.isSome)) }

/-- Engine work of a cancelled launch that stopped at an unresolved fault is abandoned, and what was at rest goes on. The matrix
instructions that what is abandoned leaves waiting are abandoned when they come to be executed. -/
def abandonWorks (s : State) (pkt : Nat) : State :=
  { s with
    copies := s.copies.map (fun (c : Copy) =>
      if c.pkt == pkt && !c.done then
        let over_ := (c.stopped && !c.due) || c.dead
        { c with rest := false, done := over_, shadow := if over_ then [] else c.shadow }
      else c)
    quants := s.quants.map (fun (q : Quant) => if q.pkt == pkt && !q.done then { q with rest := false, done := (q.stopped && !q.due) || q.dead } else q)
    flushes := (s.flushes.filter (fun f => !(f.pkt == pkt && f.stopped && !f.due))).map (fun (f : Flush) => if f.pkt == pkt then { f with rest := false } else f)
    rays := (s.rays.filter (fun r => !(r.pkt == pkt && r.leaving.isSome))).map (fun (r : Ray) => if r.pkt == pkt then { r with rest := false } else r)
    texels := s.texels.filter (fun t => !(t.stopped && !t.due && s.conts.any (fun r => r.uid == t.record && r.pkt == pkt)))
    conts := s.conts.filter (fun r => !(r.pkt == pkt && r.final.isNone
      && (s.texels.any (fun t => t.record == r.uid && t.stopped && !t.due) || s.rays.any (fun y => y.cont == r.uid && y.leaving.isSome))))
    matrices := s.matrices.map (fun (m : Matrix) => m.modInstr (fun i => i.pkt == pkt && !i.done) (fun i => { i with rest := false, done := i.dead })) }

/-- The copy of a cancelled COPY is abandoned when it has stopped at an unresolved fault. -/
def abandonCopy (s : State) (pkt : Nat) : State :=
  match s.copies.find? (fun c => c.pkt == pkt && !c.done) with
  | some c => if (c.stopped && !c.due) || c.dead then (s.putCopy { c with done := true, shadow := [] }).endPacket pkt 3 else s
  | none => s

/-- A cancelled packet: what of its work stops after the CANCEL is abandoned too, and no record of its lanes starts a wick (19 R383). -/
def State.abandonLate (s : State) (pkt : Nat) : State :=
  match s.findPacket pkt with
  | none => s
  | some p =>
    if !p.revoked || p.ended then s
    else if p.launch.isSome then dropConts (abandonWorks s pkt) pkt else abandonCopy s pkt

/-- A running launch ends with a status: every wick ends as WICKCTL.KILL gives. -/
def cancelLaunch (s : State) (pkt status : Nat) : State :=
  let s1 := s.modPacket pkt (fun p => { p with cancelled := true, status := status })
  let s2 := (s1.wicks.filter (fun w => w.info.pkt == pkt)).foldl (fun s w => match s.findWick w.info.uid with
    | some w => endWick s w
    | none => s) s1
  let s3 : State := { s2 with graphs := s2.graphs.filter (fun g => g.pkt != pkt) }
  dropConts (abandonWorks s3 pkt) pkt

/-- CANCEL acts on its target once, and is over when the target has completed. -/
def cancelPacket (s : State) (pkt : Nat) : State :=
  match s.active pkt 8 with
  | none => s
  | some p =>
    match p.target with
    | some t => if (s.findPacket t).isSome then s else s.modPacket pkt (fun p => { p with ended := true })
    | none =>
      match s.packets.find? (fun q => q.die == p.die && q.queue == fld p.body 64 6 && q.n == fld p.body 128 64 && q.id != pkt) with
      | none => s.modPacket pkt (fun p => { p with ended := true })
      | some q =>
        let s1 := s.modPacket pkt (fun p => { p with target := some q.id })
        if q.ended then s1
        else if !q.started then s1.endPacket q.id 3
        else if q.launch.isSome then cancelLaunch s1 q.id 3
        else
          let begun := (match q.sync with
            | some y => decide (1 ≤ y.phase)
            | none => false) || (match q.snap with
            | some x => decide (1 ≤ x.stage)
            | none => false)
          match s1.copies.find? (fun c => c.pkt == q.id && !c.done) with
          | some _ => (s1.modPacket q.id (fun q => { q with cancelled := true, status := 3 })).abandonLate q.id
          | none => if begun then s1.modPacket q.id (fun q => { q with status := 3 }) else s1.endPacket q.id 3

def execEvCancel (pkt : Nat) (s : State) : Host.Outcome State Fault Refusal := .next (cancelPacket s pkt)

/-! ### Placement (19 R385, R386; 01 R31, R32) -/

/-- What waits for a place in a partition. -/
inductive Waiting where
  | restore (g : Group) (key : Nat)
  | launch (p : Packet) (key : Nat)
  deriving Repr

def Waiting.key : Waiting → Nat
  | .restore _ k => k
  | .launch _ k => k

/-- The groups and launches that wait. -/
def waitingList (s : State) (part : Nat) : List Waiting :=
  (s.groups.filter (fun g => g.part == part)).filterMap (fun g => match g.stage with
    | .descheduled t => some (.restore g (restoreKey s g t))
    | _ => none)
    ++ (s.packets.filter (fun p => p.part == part && p.hasMore)).map (fun p => .launch p (launchKey s p))

/-- What a wick of a grid starts with (01 R38). -/
def gridStart (p : Packet) (l : Launch) (rank : Nat) : Start :=
  { launchStart p l rank .grid (BitVec.ofNat 64 (l.fld 128 64)) with
    sregs := [(0, BitVec.ofNat 64 rank), (1, BitVec.ofNat 64 (l.fld 64 32)), (2, 32)]
    vregs := [(136, .a (BitVec.ofNat 32 (32 * rank)) 1)] }

/-- What the wick of a closure launch starts with (01 R38). -/
def closureStart (s : State) (p : Packet) (l : Launch) : Start :=
  { launchStart p l 0 .closure (s.handleEntry p.ctx l.handle).pc with
    k15 := l.handle
    sregs := [(0, l.arg), (1, BitVec.ofNat 64 p.queue)] }

/-- The rank after the ranks placed from a rank on; fuel is one more than the ranks placed above it. -/
def nextFree (placed : List Nat) : Nat → Nat → Nat
  | 0, r => r
  | n + 1, r => if placed.contains r then nextFree placed n (r + 1) else r

/-- The next group of a grid. -/
def placeGrid (s : State) (p : Packet) (l : Launch) : Option State :=
  let (ranks, bands) := groupOf l.specs l.nextRank
  (startGroup s p.id p.ctx (l.fld 32 8) none ranks bands (gridStart p l)).map (fun s1 => s1.modLaunch p.id (fun l =>
    let placed := l.placed ++ ranks
    let next := nextFree placed (placed.length + 1) l.nextRank
    { l with nextRank := next, placed := placed.filter (fun r => decide (next ≤ r)) }))

/-- A launch's next start, when it fits. -/
def placeLaunch (s : State) (p : Packet) : Option State :=
  match p.launch with
  | none => none
  | some l =>
    match l.fld 0 3 with
    | 0 => placeGrid s p l
    | 1 => if (s.openCores p.ctx (l.fld 32 8)).isEmpty then none else some (queryDispatch s p.id)
    | 3 => startTile s p l
    | 4 => (startAlone s (closureStart s p l) (s.openCores p.ctx (l.fld 32 8))).map (fun s1 => s1.modLaunch p.id (fun l => { l with nextRank := 1 }))
    | _ => none

def placeWaiting (s : State) : Waiting → Option State
  | .restore g _ => restoreGroup s g
  | .launch p _ => placeLaunch s p

def Waiting.isRt (s : State) : Waiting → Bool
  | .restore g _ => s.restoreClass g == 0
  | .launch p _ => s.classOf p.id == 0

/-- The device without the groups that are saving, as placement will find it. -/
def withoutSaving (s : State) : State :=
  { s with wicks := s.wicks.map (fun (w : Wick) =>
      match s.findGroup w.info.group with
      | some g => (match g.stage with
        | .saving _ => if w.info.stage == .resident then { w with info := { w.info with stage := .descheduled } } else w
        | _ => w)
      | none => w) }

/-- LSEQ of the launch of a group. -/
def State.groupLseq (s : State) (g : Group) : Nat := ((s.findPacket g.pkt).map Packet.lseq).getD 0

/-- The non-RT groups a partition may give up, lowest class first and then highest LSEQ. -/
def victims (s : State) (part : Nat) : List Group :=
  (sortBy (fun g => (3 - s.classOf g.pkt) * 2 ^ 129 + (2 ^ 128 - s.groupLseq g))
    (s.groups.filter (fun g => g.part == part && g.stage == .resident && s.classOf g.pkt != 0)))

/-- Pre-emption delivered to victims one after another until the waiting group would fit; none when all of them are not enough. -/
def makeRoom (x : Waiting) (s : State) : List Group → Option State
  | [] => if (placeWaiting (withoutSaving s) x).isSome then some s else none
  | g :: gs => if (placeWaiting (withoutSaving s) x).isSome then some s else makeRoom x (deliverPreempt s g.id) gs

/-- A descheduled group that no cluster of its partition can hold, a core it needs being retired there (20 R404). -/
def stranded (s : State) (g : Group) : Bool :=
  (match g.stage with
    | .descheduled _ => true
    | _ => false)
    && (s.partClusters g.part).all (fun cl => (s.groupWicks g.id).any (fun w => s.coreRetired cl w.info.core))

def placement (s : State) (part : Nat) : State :=
  if s.partStopped part then s
  else
    match s.groups.find? (fun g => g.part == part && stranded s g) with
    | some g => cancelLaunch s g.pkt 2
    | none =>
    match leastBy Waiting.key (waitingList s part) with
    | none => s
    | some x =>
      match placeWaiting s x with
      | some s1 => s1
      | none => if x.isRt s then (makeRoom x s (victims s part)).getD s else s

def execEvPlacement (part : Nat) (s : State) : Host.Outcome State Fault Refusal := .next (placement s part)

/-! ### Completion (19 R380, R381; 01 R45) -/

/-- Nothing a launch started is left. -/
def launchIdle (s : State) (p : Packet) : Bool :=
  s.wicks.all (fun w => w.info.pkt != p.id) && s.conts.all (fun r => r.pkt != p.id)
    && s.copies.all (fun c => c.pkt != p.id || c.detach || c.dead || (c.done && c.callback.isNone))
    && s.quants.all (fun q => q.pkt != p.id || q.done || q.dead) && s.matrices.all (fun m => m.queue.all (fun i => i.pkt != p.id || i.done || i.dead))
    && s.flushes.all (fun f => f.pkt != p.id) && s.rays.all (fun r => r.pkt != p.id)
    && s.texels.all (fun t => s.conts.all (fun r => !(r.uid == t.record && r.pkt == p.id)))

/-- A launch has started everything it starts. -/
def launchStarted (s : State) (p : Packet) (l : Launch) : Bool :=
  match l.fld 0 3 with
  | 0 => decide (l.fld 64 32 ≤ l.nextRank)
  | 1 => (l.query.getD []).all (fun q => q.next == some 0)
  | 2 => (match l.graph.bind s.findGraph with
    | some g => s.graphDone g
    | none => true)
  | 3 => l.tilePhase && decide (pTx l.pass * pTy l.pass ≤ l.nextTile) && l.tiles.isEmpty
  | _ => p.started && l.nextRank != 0

/-- The work of a packet is over. -/
def workDone (s : State) (p : Packet) : Bool :=
  p.ended || (match p.launch with
    | some l => p.started && launchIdle s p && (p.cancelled || launchStarted s p l)
    | none => p.halted)

/-- STATUS (19 R380). -/
def Packet.finalStatus (p : Packet) : Nat := if p.status ≠ 0 then p.status else if p.halted then 4 else 0

/-- Some bin of a pass dropped a record (14 R290). -/
def anyDrop (acc : EAcc) (r : Nat) : Nat → EM Bool
  | 0 => pure false
  | n + 1 => do
    let d ← eRd acc (binAddr r n + 4) 4
    let more ← anyDrop acc r n
    pure (d != 0 || more)

/-- ENERGY (21 R420): zero for NOP, SIGNAL, UIRAISE, WAIT and the control packets, and for a packet none of whose work has started, which has no
event to count; of other work the sum of its event counts, each by a coefficient calibrated at manufacture, and its static share, which no rule
gives a number: a free value (log 96). -/
def State.energy (s : State) (p : Packet) : Nat :=
  if p.started && [1, 2, 3, 4].contains (pType p.body) then (Config.energy (p.id + s.free)).toNat else 0

/-- The completion record (19 R380). -/
def completionRec (s : State) (p : Packet) (overflow : Bool) : Nat :=
  p.n + 1 + at_ (fld p.body 32 32) 64 + at_ p.finalStatus 96 + at_ (bN overflow) 104 + at_ (bN p.mfail.isSome) 105 + at_ (bN p.killed) 106
    + at_ (bN p.atrap) 107 + at_ p.lseq 128 + at_ (p.start / 6) 192 + at_ s.timer 256 + at_ (s.energy p) 320
    + at_ ((p.mfail.getD 0) % 2 ^ 128) 384

/-- The record written: bytes 8 to 63, then SEQ, then the vector. -/
def writeCompletion (s : State) (p : Packet) (overflow : Bool) : Except (Nat × PFault) State :=
  let a := p.crbase + 64 * (p.n % max p.crsize 1)
  let r := completionRec s p overflow
  match s.ctxWrite p.ctx (a + 8) 56 (r / 2 ^ 64) with
  | .error e => .error e
  | .ok s1 =>
    match s1.ctxWrite p.ctx a 8 (r % 2 ^ 64) with
    | .error e => .error e
    | .ok s2 => .ok (if p.body.testBit 9 then { s2 with out := { s2.out with msix := s2.out.msix ++ [(p.die, p.msix)] } } else s2)

/-- A copy of a core's channel whose token still tells its own state (07 R193). -/
def State.tokenLive (s : State) (c : Copy) : Bool := decide (c.chan < 2048) && decide ((s.chan c.chan).seq ≤ c.seq + 64)

/-- Copies with CALLBACK that are left of a launch: not complete, or their wicks not started (07 R192). -/
def Copy.outlasts (c : Copy) (pkt : Nat) : Bool := c.pkt == pkt && !c.dead && c.callback.isSome

/-- What a completed packet leaves behind is forgotten, but for what a token may still ask of (07 R193, R202) and the launch of a DETACH
copy whose callback is to come. -/
def forgetPacket (s : State) (p : Packet) : State :=
  { s with
    packets := s.packets.filter (fun q => q.id != p.id)
    late := if s.copies.any (fun c => c.outlasts p.id) then s.late ++ [p] else s.late
    bands := s.bands.filter (fun b => b.pkt != p.id)
    graphs := s.graphs.filter (fun g => g.pkt != p.id)
    copies := s.copies.filter (fun c => !(c.pkt == p.id && (c.done || c.dead) && c.callback.isNone) || s.tokenLive c)
    quants := s.quants.filter (fun q => q.pkt != p.id || q.special || q.dead)
    matrices := s.matrices.map (fun (m : Matrix) => { m with queue := m.queue.filter (fun i => !(i.pkt == p.id && i.dead)) }) }

/-- Launches nothing is left of: no copy with a callback to come, no wick and no continuation record. Their copies are forgotten when no
token tells their state any more. -/
def State.forgetLate (s : State) : State :=
  let runs (id : Nat) : Bool := s.copies.any (fun c => c.outlasts id) || s.wicks.any (fun w => w.info.pkt == id) || s.conts.any (fun r => r.pkt == id)
  { s with
    late := s.late.filter (fun p => runs p.id)
    copies := s.copies.filter (fun c => !(c.done && c.callback.isNone && (s.findRun c.pkt).isNone) || s.tokenLive c) }

/-- DSTAT of a snapshot whose list has this header (20 R409). -/
def dstatWord (state cut moved : Nat) : Nat := state + at_ cut 32 + at_ moved 64

/-- A drain's status word written. -/
def State.postDstat (s : State) (ctx header state cut moved : Nat) : State :=
  s.post { ctx := ctx, va := fld header 512 64, len := 16, value := dstatWord state cut moved }

/-- The drain that follows a completed snapshot (20 R409). -/
def startDrain (s : State) (p : Packet) : State :=
  match p.snap with
  | some x =>
    if x.stage ≠ 4 ∨ p.finalStatus ≠ 0 then s
    else
      let size := (x.regions.map Prod.snd).foldl (· + ·) 0
      let cut := fld p.body 224 32
      let d : Drain := { pkt := p.id, part := p.part, ctx := p.ctx, header := x.header, shadow := fld p.body 160 64, cut := cut, size := size, stage := 1, since := s.now }
      { s with drains := s.drains ++ [d] }.postDstat p.ctx x.header 1 cut size
  | none => s

/-- The record of a packet whose work is over. The writes of its own that still wait for a page come before it. -/
def postCompletion (s : State) (pkt : Nat) : State :=
  match s.findPacket pkt with
  | none => s
  | some p =>
    if !workDone s p || s.posts.any (fun x => x.ctx == p.ctx) || s.isStopped p.ctx (packetWork pkt 5) then s
    else
      let ended := match p.launch with
        | some l => if l.fld 0 3 = 3 && p.started then anyDrop (candAcc p.ctx) l.pass (pTx l.pass * pTy l.pass) s else .ok (false, s)
        | none => .ok (false, s)
      match ended with
      | .error (.page k a f) => ownStop s p.ctx (packetWork pkt 5) k a f
      | .error (.malf _) => s
      | .ok (overflow, s1) =>
        match writeCompletion s1 p overflow with
        | .error (a, f) => ownStop s p.ctx (packetWork pkt 5) 1 a f
        | .ok s2 => startDrain (forgetPacket s2.forgetLate p) p

def packetCompletion (s : State) (pkt : Nat) : State := postCompletion (s.abandonLate pkt) pkt

def execEvPacketCompletion (pkt : Nat) (s : State) : Host.Outcome State Fault Refusal := .next (packetCompletion s pkt)

end Sys2Proof.Machine
end

