-- ==== Sys2Proof/Machine/Errors.lean ====
section
/-! DEFINITION. The error ring, lasting faults, poison and retired cores (spec/20_host_fabric_reliability.md R402 to R406). -/

namespace Sys2Proof.Machine

/-! ### Error records (20 R405, R406) -/

/-- An error or retirement event: KIND, UNIT, SRCID, COUNT, physical address, the partitions affected. -/
structure ErrEvent where
  kind : Nat
  unit : Nat
  srcid : Nat
  count : Nat := 0
  addr : Nat := 0
  parts : Nat := 0
  deriving DecidableEq, Repr

/-- The record of an event, whose SEQ is that of its source. -/
def errRecord (s : State) (e : ErrEvent) (seq : Nat) : Nat :=
  e.kind % 256 + at_ (e.unit % 256) 8 + at_ (e.srcid % 2 ^ 32) 32 + at_ (seq % 2 ^ 32) 64 + at_ (e.count % 2 ^ 32) 96 + at_ (e.addr % 2 ^ 64) 128
    + at_ (s.timer % 2 ^ 64) 192 + at_ (e.parts % 256) 256

/-- A record in the ring at ERBASE, when a ring is set up and has room. -/
def writeErr (s : State) (r : Nat) : Option State :=
  let base := s.cfg.erbase.toNat
  let size := s.cfg.ersize.toNat
  let widx := s.mem.read (keyLocal base) 4
  let ridx := s.mem.read (keyLocal (base + 4)) 4
  if size = 0 ∨ (widx + 2 ^ 32 - ridx) % 2 ^ 32 ≥ size then none
  else
    let m := s.mem.write (keyLocal (base + 64 + 64 * (widx % size))) 64 r
    some { s with mem := m.write (keyLocal base) 4 ((widx + 1) % 2 ^ 32) }

/-- Records written in order while there is room. -/
def writeErrs : List Nat → State → State
  | [], s => { s with errPend := [] }
  | r :: rs, s =>
    match writeErr s r with
    | some s' => writeErrs rs s'
    | none => { s with errPend := r :: rs }

/-- The records that wait are tried again. -/
def State.flushErrs (s : State) : State := writeErrs s.errPend s

/-- SEQ of the last record of a source. -/
def State.lastErr (s : State) (srcid : Nat) : Nat := ((s.errSeq.find? (fun (k, _) => k == srcid)).map Prod.snd).getD 0

/-- An event goes to the ring, or waits for room there. -/
def State.postErr (s : State) (e : ErrEvent) : State :=
  let n := s.lastErr e.srcid + 1
  let r := errRecord s e n
  { s with errSeq := (e.srcid, n) :: s.errSeq.filter (fun (k, _) => k != e.srcid), errPend := s.errPend ++ [r] }.flushErrs

/-! ### Retirement (20 R403, R404) -/

/-- The groups with a wick in a slot of a core. -/
def groupsOn (s : State) (cluster core : Nat) : List Nat :=
  ((s.wicks.filter (fun w => w.onCore (coreKey cluster core))).map (fun w => w.info.group)).eraseDups

/-- A core is disabled: nothing new goes there and every group on it is pre-empted. -/
def retireCore (s : State) (cluster core : Nat) : State :=
  let mask : BitVec 64 := s.retired[cluster]?.getD 0
  let s1 : State := { s with retired := s.retired.setIfInBounds cluster (mask ||| BitVec.ofNat 64 (2 ^ core)) }
  (groupsOn s1 cluster core).foldl deliverPreempt s1

/-- Core cycles in ten minutes. -/
def tenMinutes : Nat := 600000000 * Config.usCycles

/-- The unit of an error: a row by its place, whatever partitions it affects; a core's logic (7) and register files (4) are one. -/
def wholeUnit (u : UnitId) : UnitId :=
  if u.unit = 4 ∨ u.unit = 7 then { unit := 7, srcId := u.srcId &&& 0x7FF, addr := 0, parts := 0 } else { u with parts := 0 }

/-- The errors of a unit in the current window. -/
def State.unitTimes (s : State) (u : UnitId) : List Nat :=
  ((s.errs.find? (fun e => e.unit == (wholeUnit u))).map ErrUnit.times).getD [] |>.filter (fun t => decide (s.now < t + tenMinutes))

/-- What a lasting fault does: UNIT 0 a DRAM row, 4 and 7 a core's logic and registers, 8 a link, which is no such unit, every other a row of
SRAM. Without a spare the core that SRCID names is disabled, whichever array the row is of (log 125). -/
def lastingFault (s : State) (u : UnitId) (spare : Bool) (count : Nat) : State :=
  let unit := u.unit.toNat
  let rec_ : ErrEvent := { kind := 3, unit := unit, srcid := u.srcId.toNat, count := count, addr := u.addr.toNat, parts := u.parts.toNat }
  let core (s : State) : State := retireCore s (fld u.srcId.toNat 2 3) (fld u.srcId.toNat 5 6)
  if unit = 0 then (if spare then s else s.postErr rec_)
  else if unit = 4 ∨ unit = 7 then core (s.postErr rec_)
  else if unit = 8 ∨ spare then s
  else core (s.postErr rec_)

/-- A correctable error: counted, recorded, and lasting when three others came in the ten minutes before. -/
def correctableError (s : State) (u : UnitId) (spare : Bool) : State :=
  let others := s.unitTimes u
  let s1 : State := { s with errs := ⟨(wholeUnit u), s.now :: others⟩ :: s.errs.filter (fun e => e.unit != (wholeUnit u)) }
  let n := others.length + 1
  let s2 := s1.postErr { kind := 1, unit := u.unit.toNat, srcid := u.srcId.toNat, count := n, addr := u.addr.toNat, parts := u.parts.toNat }
  if others.length ≥ 3 then lastingFault s2 u spare n else s2

def execEvCorrectableError (unit : UnitId) (spare : Bool) (s : State) : Host.Outcome State Fault Refusal := .next (correctableError s unit spare)

/-! ### Poison (20 R402) -/

/-- The 32-byte sector of a key. -/
def sectorOf (key : Nat) : Nat := key / 32 * 32

/-- Memory outside the device. -/
def outsideKey (k : Nat) : Bool := decide (2 ^ 64 ≤ k) && decide (k < 3 * 2 ^ 64)

/-- An uncorrectable error poisons a sector and is recorded. A sector outside the device is one that the host refuses (R396) or that no
partition of the peer holds (R399): the access that asks for it is recorded, not this. -/
def uncorrectableError (s : State) (u : UnitId) (key : Nat) : State :=
  if outsideKey key then { s with poison := (sectorOf key, 0) :: s.poison.filter (fun (k, _) => k != sectorOf key) }
  else
  let s1 := s.postErr { kind := 2, unit := u.unit.toNat, srcid := u.srcId.toNat, count := (s.unitTimes u).length, addr := u.addr.toNat, parts := u.parts.toNat }
  { s1 with poison := (sectorOf key, s1.lastErr u.srcId.toNat) :: s1.poison.filter (fun (k, _) => k != sectorOf key) }

def execEvUncorrectableError (unit : UnitId) (key : Nat) (s : State) : Host.Outcome State Fault Refusal := .next (uncorrectableError s unit key)

/-- Some byte of a range of keys is poisoned. -/
def State.poisoned (s : State) (key len : Nat) : Bool := s.poison.any (fun (k, _) => decide (k < key + len) && decide (key < k + 32))

/-- The launch of a stopped command completes with HALTED once its wicks have ended. -/
def State.haltPacket (s : State) (pkt : Nat) : State := s.modPacket pkt (fun p => { p with halted := true })

/-- A ray that consumes poison is gone, and so is the continuation that would have taken its result. -/
def killRay (s : State) (ray : Nat) : State :=
  match s.rays.find? (fun r => r.id == ray) with
  | none => s
  | some r =>
    { s with rays := s.rays.filter (fun x => x.id != ray), conts := s.conts.filter (fun c => c.uid != r.cont) }.haltPacket r.pkt

/-- What consumes the data of one of the poisoned sectors. -/
def consume (s : State) (by_ : Consumer) (seq : Nat) : State :=
  match by_ with
  | .wick id =>
    match s.findWick id with
    | some w => if w.info.stage == .resident then haltWick s w 0x40 seq else s
    | none => s
  | .channel chan =>
    match s.headCopy chan with
    | some c => (s.putCopy { c with dead := true, rest := true }).haltPacket c.pkt
    | none => s
  | .quant cluster =>
    match s.headQuant cluster with
    | some q => (s.putQuant { q with dead := true, rest := true }).haltPacket q.pkt
    | none => s
  | .matrix core =>
    match (s.matrix core).head with
    | some i =>
      (s.putMatrix { s.matrix core with queue := (s.matrix core).queue.map (fun (j : MInstr) =>
        if j.seq == i.seq then { j with dead := true, rest := true } else j) }).haltPacket i.pkt
    | none => s
  | .lantern ray => killRay s ray
  | .tableStore pkt => s.modPacket pkt (fun p => { p with sync := p.sync.map (fun y => { y with stuck := true }) })

/-- A texture fetch that consumes poison is gone, and so is the continuation that would have taken its result. -/
def killTexel (s : State) (rec_ : Nat) : State :=
  match s.conts.find? (fun c => c.uid == rec_) with
  | none => s
  | some c => { s with texels := s.texels.filter (fun t => t.record != rec_), conts := s.conts.filter (fun x => x.uid != rec_) }.haltPacket c.pkt

/-- Who makes an access: SRCID, which names a die, a cluster and a core, and the partition affected, as a mask (20 R405). -/
structure Asker where
  srcid : Nat
  parts : Nat
  deriving DecidableEq, Repr

/-- The error of an access that the host refuses or no peer's partition holds, recorded against the access that made it: UNIT link, at the
requester (20 R396, R399, R405). -/
def outsideError (s : State) (by_ : Asker) (key : Nat) : State × Nat :=
  let s1 := s.postErr { kind := 2, unit := 8, srcid := by_.srcid, addr := key % 2 ^ 64, parts := by_.parts }
  (s1, s1.lastErr by_.srcid)

/-- The poison of some keys goes with their bytes to others (20 R402). -/
def State.carry (s : State) (src dst : List Nat) : State :=
  let more := ((src.zip dst).filterMap (fun (k, d) => (s.poison.find? (fun (x, n) => x == sectorOf k && n != 0)).map (fun (_, n) => (sectorOf d, n)))).eraseDups
  { s with poison := more ++ s.poison.filter (fun (k, _) => !more.any (fun (d, _) => d == k)) }

/-! ### What a move consumes (20 R402) -/

/-- Every byte of a sector another. -/
def State.flipSector (s : State) (k : Nat) : State :=
  { s with mem := (bytesFrom k 32).foldl (fun m a => m.set a (~~~ (s.mem.get a))) s.mem }

/-- Two outcomes are the same but for the bytes of a sector. -/
def sameBut (k : Nat) (a b : Host.Outcome State Fault Refusal) : Bool :=
  match a, b with
  | .next x, .next y => ({ x with mem := x.mem.wipe k 32 } : State) == { y with mem := y.mem.wipe k 32 }
  | .fault _, .fault _ => true
  | .refused _, .refused _ => true
  | _, _ => false

/-- What stands in a sector after a move. -/
def sectorAfter (k : Nat) (a : Host.Outcome State Fault Refusal) : Nat :=
  match a with
  | .next x => x.mem.read k 32
  | _ => 0

/-- A move writes a sector: its bytes, or others in their place, do not stay. -/
def State.writes (s : State) (f : State → Host.Outcome State Fault Refusal) (k : Nat) : Bool :=
  let s1 := s.flipSector k
  sectorAfter k (f s) != s.mem.read k 32 || sectorAfter k (f s1) != s1.mem.read k 32

/-- A move uses the data of a sector: it would end otherwise were the bytes others. Of a sector that refuses accesses, a write counts too. -/
def State.consumes (s : State) (f : State → Host.Outcome State Fault Refusal) (k seq : Nat) : Bool :=
  !sameBut k (f s) (f (s.flipSector k)) || (outsideKey k && seq == 0 && s.writes f k)

/-- A move that uses poisoned data has no effect, and what makes it stops: take gives that, for the SEQ of the error record (log 73). -/
def State.guarded (s : State) (by_ : Asker) (take : State → Nat → State) (f : State → Host.Outcome State Fault Refusal) :
    Host.Outcome State Fault Refusal :=
  match s.poison.find? (fun (k, seq) => s.consumes f k seq) with
  | none => f s
  | some (k, seq) =>
    if seq = 0 then (match outsideError s by_ k with
      | (s1, n) => .next (take s1 n))
    else .next (take s seq)

/-- The sectors that refuse accesses and that a move would access. -/
def State.refusedBy (s : State) (f : State → Host.Outcome State Fault Refusal) : List Nat :=
  (s.poison.filter (fun (k, seq) => seq == 0 && s.consumes f k seq)).map Prod.fst

/-- Sectors with free bytes in them. -/
def State.unread (s : State) (ks : List Nat) : State :=
  { s with mem := (ks.flatMap (fun k => bytesFrom k 32)).foldl (fun m a => m.set a (Config.refusedByte s.free a)) s.mem }

/-- Sectors as they stand in another memory. -/
def State.unwritten (s : State) (m0 : Memory) (ks : List Nat) : State :=
  { s with mem := (ks.flatMap (fun k => bytesFrom k 32)).foldl (fun m a => m.set a (m0.get a)) s.mem }

/-- A move of the Candelabrum or of the Ocris for a wick, which no poison stops. Of a sector that refuses accesses it performs no byte: what
it reads there is a free value, and each is recorded (20 R396, R399, log 73). -/
def State.besides (s : State) (by_ : Asker) (f : State → Host.Outcome State Fault Refusal) : Host.Outcome State Fault Refusal :=
  match s.refusedBy f with
  | [] => f s
  | ks =>
    match f (s.unread ks) with
    | .next t => .next (ks.foldl (fun t k => (outsideError t by_ k).1) (t.unwritten s.mem ks))
    | x => x

/-- Poisoned data is consumed, where there is some; which sector it was is open. -/
def poisonConsumption (s : State) (by_ : Consumer) : State :=
  match s.choose s.poison with
  | (some (_, seq), s1) => consume s1 by_ seq
  | (none, _) => s

def execEvPoisonConsumption (by_ : Consumer) (s : State) : Host.Outcome State Fault Refusal := .next (poisonConsumption s by_)

end Sys2Proof.Machine
end

