-- ==== Sys2Proof/Machine/Fabric.lean ====
section
/-! DEFINITION. Knaos links, lost nodes, cut messages and peers' requests (spec/20_host_fabric_reliability.md R397 to R399, R408,
R410). -/

namespace Sys2Proof.Machine

/-! ### Links (20 R394, R397, R398) -/

def mkPort (en gen : Bool) (state peer : Nat) : BitVec 12 := BitVec.ofNat 12 (bN en + at_ (bN gen) 1 + at_ (state % 4) 2 + at_ (peer % 256) 4)

/-- Partitions that are enabled, as a mask. -/
def State.enabledParts (s : State) : Nat := packElems 1 (s.cfg.partcfg.toList.map (fun r => bN (r.extractLsb' 0 8 != 0)))

/-! ### The loss of a node (20 R410) -/

/-- The register names a page of a node. -/
def Tx.onNode (n : Nat) (t : Tx) : Tx := if t.home == 1 && fld t.pbase.toNat 44 8 == n then { t with valid := false } else t

/-- Translation registers that reach a node no longer do: their results equal those of translating (04 R98). -/
def Wick.dropNode (n : Nat) (w : Wick) : Wick :=
  { w with
    regs := { w.regs with tx := w.regs.tx.map (Tx.onNode n) }
    access := w.access.map (fun a => { a with tx := a.tx.map (Tx.onNode n) }) }

/-- The notice to one context: vector 63, when its interrupt block is installed. -/
def lossSend (n : Nat) (s : State) (c : Nat) : State :=
  if s.ctxReg c 0x0D = 0 then s else s.send c ⟨.loss, 63, BitVec.ofNat 64 (2 ^ (n % 64)), .nobody⟩

/-- Sends to the node that wait for an answer: UISEND returns 1, UIRAISE is refused. -/
def failSends (s : State) (n : Nat) : State :=
  { s with
    wicks := s.wicks.map (fun (w : Wick) => { w with frags := w.frags.map (fun (g : Frag) =>
      if g.wait.send == some none && g.wait.sendNode == n then { g with wait := { g.wait with send := some (some false) } } else g) })
    packets := s.packets.map (fun (p : Packet) =>
      if pType p.body == 6 && p.started && !p.ended && p.target.isSome && fld p.body 80 12 == n then { p with ended := true, status := 7 } else p) }

/-- What each surviving member does at a loss, once. -/
def loseNode (s : State) (n : Nat) : State :=
  if n ≥ 256 ∨ s.cfg.job = false ∨ n = s.cfg.nodeId.toNat ∨ s.cfg.lost.getLsbD n then s
  else
    let s1 : State := { s with
      cfg := { s.cfg with lost := s.cfg.lost ||| BitVec.ofNat 256 (2 ^ n) }
      wicks := s.wicks.map (Wick.dropNode n)
      snaps := s.snaps.map (Wick.dropNode n) }
    let s2 := (failSends s1 n).postErr { kind := 4, unit := 8, srcid := at_ n 8, parts := s.enabledParts }
    (s2.ctxs.map Ctx.id).foldl (lossSend n) s2

/-- A member that declares the loss itself tells its neighbours. -/
def declareLost (s : State) (n : Nat) : State :=
  let s1 := loseNode s n
  if s1.cfg.lost.getLsbD n && !s.cfg.lost.getLsbD n then
    { s1 with out := { s1.out with links := s1.out.links ++ ((s1.neighbours.map BitVec.toNat).filter (fun m => m != n)).map (fun m => .loss m n) } }
  else s1

def execEvLinkHeartbeatTimeout (node : Nat) (s : State) : Host.Outcome State Fault Refusal := .next (declareLost s node)

/-- A loss notice comes over the links. -/
def lossNotice (s : State) (node : Nat) : State := if s.neighbours.isEmpty then s else loseNode s node

def execEvLossNotice (node : Nat) (s : State) : Host.Outcome State Fault Refusal := .next (lossNotice s node)

/-- A port gets a new control word; a change of STATE is recorded, and every node that no link in STATE 2 reaches any more is lost. -/
def setPort (s : State) (n : Nat) (k : BitVec 12) : State :=
  let old := s.port n
  let s1 : State := { s with cfg := { s.cfg with klctl := s.cfg.klctl.setIfInBounds n k } }
  let s2 := if portState old = portState k then s1 else s1.postErr { kind := 5, unit := 8, srcid := n / 4 + at_ n 8, parts := s.enabledParts }
  if portState old = 2 ∧ portState k ≠ 2 then ((List.range 256).filter (fun m => s.reaches m && !s2.reaches m)).foldl declareLost s2 else s2

/-- A queue of a die is enabled. -/
def State.dieBusy (s : State) (die : Nat) : Bool := (s.dies[die]?.getD {}).queues.toList.any Queue.en

/-- A queue of a partition is enabled. -/
def State.partBusy (s : State) (part : Nat) : Bool := s.dies.toList.any (fun d => d.queues.toList.any (fun q => q.en && q.fld 2 3 == part))

/-- A write of KLCTL: training starts when EN is set, the port goes down when it is cleared, and GEN changes only while EN is 0. -/
def klctlWrite (s : State) (port : Nat) (value : BitVec 32) : State :=
  let k := s.port port
  let en := value.getLsbD 0
  if port ≥ 16 ∨ s.dieBusy (port / 4) then s
  else if portEn k then (if en then s else setPort s port (mkPort false (portGen k) 0 0))
  else setPort s port (mkPort en (value.getLsbD 1) (if en then 1 else 0) 0)

def execEvKlctlWrite (port : Nat) (value : BitVec 32) (s : State) : Host.Outcome State Fault Refusal := .next (klctlWrite s port value)

/-- Every enabled port fails. -/
def failPorts (s : State) : State :=
  (List.range 16).foldl (fun s n => let k := s.port n; if portEn k then setPort s n (mkPort true (portGen k) 3 0) else s) s

/-- This device's number is that of a node it reaches: its ports carry nothing and go to STATE 3 (20 R398). -/
def duplicateCheck (s : State) : State := if s.cfg.job && s.reaches s.cfg.nodeId.toNat then failPorts s else s

/-- Training ends or a link fails: generations that differ give STATE 3, and a node number met twice takes every port down. -/
def linkStateChange (s : State) (port : Nat) (up : Bool) (peer : BitVec 8) (peerGen : Bool) : State :=
  let k := s.port port
  if port ≥ 16 ∨ !portEn k then s
  else if !up then (if portState k = 1 ∨ portState k = 2 then setPort s port (mkPort true (portGen k) 3 0) else s)
  else if portState k ≠ 1 then s
  else if peerGen ≠ portGen k then setPort s port (mkPort true (portGen k) 3 0)
  else duplicateCheck (setPort s port (mkPort true (portGen k) 2 peer.toNat))

def execEvLinkStateChange (port : Nat) (up : Bool) (peer : BitVec 8) (peerGen : Bool) (s : State) : Host.Outcome State Fault Refusal :=
  .next (linkStateChange s port up peer peerGen)

/-! ### Requests of peers (20 R398, R399) -/

/-- DRAM of a partition: base and length in bytes (20 R400). -/
def State.partDram (s : State) (part : Nat) : Nat × Nat :=
  let r : BitVec 25 := s.cfg.partcfg[part]?.getD 0
  ((r.extractLsb' 8 8).toNat * 2 ^ 30, (r.extractLsb' 16 9).toNat * 2 ^ 30)

/-- Some partition holds the bytes. -/
def State.someDram (s : State) (pa len : Nat) : Bool :=
  (List.range 8).any (fun p => !(s.partClusters p).isEmpty && decide ((s.partDram p).1 ≤ pa) && decide (pa + len ≤ (s.partDram p).1 + (s.partDram p).2))

/-- An atomic of a peer on n bytes. -/
def peerAtomic (op n old a b : Nat) : Nat := if op = 0x0E then (if old = b % 2 ^ (8 * n) then a % 2 ^ (8 * n) else old) else atomOp op n old (a % 2 ^ (8 * n))

/-- The partitions that hold some of these bytes of device DRAM, as a mask. -/
def State.dramParts (s : State) (pa len : Nat) : Nat :=
  packElems 1 ((List.range 8).map (fun p => let (base, n) := s.partDram p; bN (decide (pa < base + n) && decide (base < pa + len))))

/-- Data that carries poison is written: its sectors are poisoned, an uncorrectable error of the link recorded, with the die whose DRAM it is
and the partitions that hold it (20 R395, R402, R405, log 73). -/
def State.poisonBytes (s : State) (key size : Nat) : State :=
  let src := key / 2 ^ 36 % 4
  let s1 := s.postErr { kind := 2, unit := 8, srcid := src, addr := key % 2 ^ 64, parts := s.dramParts (key - keyLocal 0) size }
  let hit := ((bytesFrom key size).map sectorOf).eraseDups
  { s1 with poison := hit.map (fun k => (k, s1.lastErr src)) ++ s1.poison.filter (fun (k, _) => !hit.contains k) }

/-- The node may ask, and what it names is held by a partition. -/
def peerAllowed (s : State) (node pa size : Nat) : Bool :=
  s.cfg.job && s.cfg.boot == 1 && s.reaches node && !s.cfg.lost.getLsbD node && s.someDram pa size

/-- A read, write or atomic of a peer; refused, no byte is performed and the answer is none. -/
def peerRequest (s : State) (node pa size : Nat) (req : PeerReq) : State :=
  let answer (s : State) (a : Option Nat) : State := { s with out := { s.out with answer := a } }
  if !peerAllowed s node pa size then answer s none
  else
    let key := keyLocal pa
    let old := s.mem.read key size
    match req with
    | .read => answer s (if s.poisoned key size then none else some old)
    | .write v => (answer (s.storePieces [(key, size)] (leBytes size v)) (some 0)).flushErrs
    | .poisonedWrite v => ((answer (s.storePieces [(key, size)] (leBytes size v)) (some 0)).poisonBytes key size).flushErrs
    | .atomic op a b =>
      if s.poisoned key size then answer s none
      else (answer (s.storePieces [(key, size)] (leBytes size (peerAtomic op.toNat size old a.toNat b.toNat))) (some old)).flushErrs

def execEvPeerMemoryRequest (node pa size : Nat) (req : PeerReq) (s : State) : Host.Outcome State Fault Refusal := .next (peerRequest s node pa size req)

end Sys2Proof.Machine
end

