-- ==== Sys2Proof/Machine/Snapshot.lean ====
section
/-! DEFINITION. Checkpoints: the region list, the stop, the cut, the copy, and the drain (spec/20_host_fabric_reliability.md R407 to
R410). -/

namespace Sys2Proof.Machine

/-! ### The region list (20 R407) -/

/-- An entry: BASE and LEN. -/
def parseRegion (e : Nat) : Nat × Nat := (fld e 0 57, fld e 64 64)

def regionOk (e : Nat) : Bool := fld e 57 7 == 0 && fld e 0 12 == 0 && fld e 64 12 == 0 && decide (fld e 0 57 + fld e 64 64 ≤ 2 ^ 57)

/-- The header keeps its table. -/
def snapHeaderOk (s : State) (h : Nat) (cutsync : Bool) : Bool :=
  fld h 264 56 == 0 && fld h 456 56 == 0 && fld h 576 448 == 0 && decide (1 ≤ fld h 448 8) && decide (fld h 448 8 ≤ 224) && fld h 512 4 == 0
    && (!cutsync || h.testBit s.cfg.nodeId.toNat)

/-- The pieces of a range and the homes they lie in: none where a byte fails to translate. -/
def homePieces (s : State) (c : Nat) (k : AccKind) (base len : Nat) : Option (List (Nat × Nat)) :=
  match xlatePieces s c true k (pages base len) with
  | (.ok l, _) => some l
  | (.error _, _) => none

/-- Every piece lies in device DRAM. -/
def allLocal (l : List (Nat × Nat)) : Bool := l.all (fun (k, _) => decide (k < 2 ^ 64))

/-- Two lists of pieces share a byte. -/
def piecesMeet (a b : List (Nat × Nat)) : Bool := a.any (fun (k, n) => b.any (fun (j, m) => decide (k < j + m) && decide (j < k + n)))

/-- Regions and shadow translate, are local, and do not overlap. -/
def placesOk (s : State) (c shadow : Nat) (rs : List (Nat × Nat)) : Bool :=
  let size := (rs.map Prod.snd).foldl (· + ·) 0
  match rs.mapM (fun (b, l) => homePieces s c ⟨0, 0, 0⟩ b l), homePieces s c ⟨1, 0, 0⟩ shadow size with
  | some src, some dst => allLocal src.flatten && allLocal dst && !piecesMeet src.flatten dst
  | _, _ => false

/-- The buddy's copy lies on the buddy, and the host's on the host; a buddy that is lost is not asked. -/
def copiesOk (s : State) (c h size : Nat) : Bool :=
  let buddy := fld h 256 8
  (s.cfg.lost.getLsbD buddy || (match homePieces s c ⟨1, 0, 0⟩ (fld h 320 64) size with
    | some l => l.all (fun (k, _) => decide (2 ^ 64 ≤ k) && decide (k < 2 * 2 ^ 64) && fld k 44 8 == buddy)
    | none => false))
    && (match homePieces s c ⟨1, 0, 0⟩ (fld h 384 64) size with
      | some l => l.all (fun (k, _) => decide (2 * 2 ^ 64 ≤ k))
      | none => false)

/-- The list read: its header and its entries. -/
def readRegions (c list count : Nat) : EM (Nat × List Nat) := do
  let h ← eRd (candAcc c) list 128
  let es ← (List.range count).mapM (fun i => eRd (candAcc c) (list + 128 + 16 * i) 16)
  pure (h, es)

/-- SNAPSHOT is validated before it starts; a list that breaks R407 stops nothing. -/
def snapshot (s : State) (pkt : Nat) : State :=
  match (s.findPacket pkt).filter (fun p => pType p.body == 4 && !p.ended && p.snap.isNone && !s.isStopped p.ctx (packetWork pkt 3)) with
  | none => s
  | some p =>
    match readRegions p.ctx (fld p.body 64 64) (fld p.body 128 32) s with
    | .error (.page k a f) => ownStop s p.ctx (packetWork pkt 3) k a f
    | .error (.malf _) => s.endPacket pkt 1
    | .ok ((h, es), s1) =>
      let rs := es.map parseRegion
      let size := (rs.map Prod.snd).foldl (· + ·) 0
      if es.all regionOk && snapHeaderOk s1 h (p.body.testBit 256) && placesOk s1 p.ctx (fld p.body 160 64) rs && copiesOk s1 p.ctx h size then
        s1.modPacket pkt (fun p => { p with snap := some { header := h, regions := rs } })
      else s1.endPacket pkt 1

def execEvSnapshot (pkt : Nat) (s : State) : Host.Outcome State Fault Refusal := .next (snapshot s pkt)

/-! ### Stop, cut, copy (20 R408) -/

/-- A snapshot moves to a stage. -/
def State.setStage (s : State) (pkt stage : Nat) : State :=
  s.modPacket pkt (fun p => { p with snap := p.snap.map (fun x => { x with stage := stage, since := s.now }) })

/-- The other nodes of MEMBERS. -/
def otherMembers (s : State) (x : Snap) : List Nat := (List.range 256).filter (fun n => x.header.testBit n && n != s.cfg.nodeId.toNat)

/-- The members whose cut message has neither come nor is to be expected. -/
def missingMembers (s : State) (p : Packet) (x : Snap) : List Nat :=
  (otherMembers s x).filter (fun n => !s.cuts.contains (n, fld p.body 224 32) && !s.cfg.lost.getLsbD n)

/-- Nothing of the partition holds a slot and runs. -/
def partReleased (s : State) (part : Nat) : Bool := s.wicks.all (fun w => s.ctxPart w.info.ctx != part || w.info.stage != .resident)

/-- Earlier drains of the partition have ended, and no other snapshot of it is on its way. -/
def mayStop (s : State) (p : Packet) : Bool :=
  s.drains.all (fun d => d.part != p.part)
    && s.packets.all (fun q => q.id == p.id || q.part != p.part || (match q.snap with
      | some y => y.stage == 0
      | none => true))

/-- The cut messages go out. -/
def sendCuts (s : State) (p : Packet) (x : Snap) : State :=
  { s with out := { s.out with links := s.out.links ++ ((otherMembers s x).filter (fun n => !s.cfg.lost.getLsbD n)).map (fun n => .cut n (fld p.body 224 32)) } }

/-- A snapshot that has started goes on: it stops its partition, waits for it, makes the cut, and begins to copy. -/
def snapshotStart (s : State) (pkt : Nat) : State :=
  match s.active pkt 4 with
  | none => s
  | some p =>
    match p.snap with
    | none => s
    | some x =>
      match x.stage with
      | 0 =>
        if mayStop s p then
          ((s.groups.filter (fun g => g.part == p.part)).map Group.id).foldl deliverPreempt (s.setStage pkt 1)
        else s
      | 1 =>
        if !partReleased s p.part then s
        else if p.body.testBit 256 then (sendCuts s p x).setStage pkt 2
        else s.setStage pkt 3
      | 2 => if (missingMembers s p x).isEmpty then { s with cuts := s.cuts.filter (fun (_, c) => c != fld p.body 224 32) }.setStage pkt 3 else s
      | _ => s

def execEvSnapshotStart (pkt : Nat) (s : State) : Host.Outcome State Fault Refusal := .next (snapshotStart s pkt)

/-- A cut message is kept until the snapshot of its cut has used it. -/
def cutMessage (s : State) (node : Nat) (cut : BitVec 32) : State :=
  if !s.cfg.job ∨ !s.reaches node ∨ s.cuts.contains (node, cut.toNat) then s else { s with cuts := s.cuts ++ [(node, cut.toNat)] }

def execEvCutMessage (node : Nat) (cut : BitVec 32) (s : State) : Host.Outcome State Fault Refusal := .next (cutMessage s node cut)

/-- 10 ms in core cycles. -/
def cutLimit : Nat := 10000 * Config.usCycles

/-- Members that have not answered within 10 ms are lost. -/
def cutTimeout (s : State) (pkt : Nat) : State :=
  match s.active pkt 4 with
  | none => s
  | some p =>
    match p.snap with
    | none => s
    | some x => if x.stage = 2 ∧ x.since + cutLimit ≤ s.now then (missingMembers s p x).foldl declareLost s else s

def execEvCutTimeout (pkt : Nat) (s : State) : Host.Outcome State Fault Refusal := .next (cutTimeout s pkt)

/-- The pieces of some ranges of a context, one after another. -/
def rangePieces (c : Nat) : List (Nat × Nat) → State → Except (Nat × PFault) (List (Nat × Nat)) × State
  | [], s => (.ok [], s)
  | (b, l) :: rest, s =>
    match xlatePieces s c true ⟨0, 0, 0⟩ (pages b l) with
    | (.error e, s1) => (.error e, s1)
    | (.ok ps, s1) =>
      match rangePieces c rest s1 with
      | (.error e, s2) => (.error e, s2)
      | (.ok qs, s2) => (.ok (ps ++ qs), s2)

/-- The keys of pieces, byte by byte. -/
def pieceKeys (ps : List (Nat × Nat)) : List Nat := ps.flatMap (fun (k, n) => bytesFrom k n)

/-- Ranges copied to one place, poison with its data (20 R402): the failure says whether it was a write. -/
def copyRange (s : State) (c : Nat) (src : List (Nat × Nat)) (dst : Nat) : Except (Nat × Nat × PFault) State :=
  match rangePieces c src s with
  | (.error (a, f), _) => .error (0, a, f)
  | (.ok ps, s1) =>
    let bs := readPieces s1.mem ps
    match xlatePieces s1 c true ⟨1, 0, 0⟩ (pages dst bs.length) with
    | (.error (a, f), _) => .error (1, a, f)
    | (.ok qs, s2) => .ok ((s2.storePieces qs bs).carry (pieceKeys ps) (pieceKeys qs))

/-- The copy takes its time at 16 TB/s, and then the partition runs again. -/
def snapshotCopy (s : State) (pkt : Nat) : State :=
  match s.active pkt 4 with
  | none => s
  | some p =>
    match p.snap with
    | none => s
    | some x =>
      let size := (x.regions.map Prod.snd).foldl (· + ·) 0
      if x.stage ≠ 3 ∨ (s.now - x.since) * 80000 < size * 3 ∨ s.isStopped p.ctx (packetWork pkt 4) then s
      else
        match copyRange s p.ctx x.regions (fld p.body 160 64) with
        | .error (k, a, f) => ownStop s p.ctx (packetWork pkt 4) k a f
        | .ok s1 => (s1.setStage pkt 4).modPacket pkt (fun p => { p with ended := true })

def execEvSnapshotCopyComplete (pkt : Nat) (s : State) : Host.Outcome State Fault Refusal := .next (snapshotCopy s pkt)

/-! ### The drain (20 R409) -/

/-- RATE in GB/s leaves a stage its time. -/
def drainDue (s : State) (d : Drain) : Bool := decide (d.size * 3 ≤ (s.now - d.since) * fld d.header 448 8 * 5)

/-- A drain replaced. -/
def State.putDrain (s : State) (d : Drain) : State := { s with drains := modFirst (fun (x : Drain) => x.pkt == d.pkt) (fun _ => d) s.drains }

def State.dropDrain (s : State) (pkt : Nat) : State := { s with drains := s.drains.filter (fun d => d.pkt != pkt) }

/-- A stage of a drain ends: the buddy's copy, then the host's; a lost buddy is passed over, and a host write that fails ends it. -/
def drainStage (s : State) (pkt : Nat) (ok : Bool) : State :=
  match s.drains.find? (fun d => d.pkt == pkt) with
  | none => s
  | some d =>
    let toBuddy := d.stage == 1 && !s.cfg.lost.getLsbD (fld d.header 256 8)
    let dst := if toBuddy then fld d.header 320 64 else fld d.header 384 64
    if !ok then
      if toBuddy then s
      else
        let (n, s1) := s.fresh
        (s1.dropDrain pkt).postDstat d.ctx d.header 4 d.cut (n % (d.size + 1))
    else if !drainDue s d || s.isStopped d.ctx (packetWork pkt 6) then s
    else
      match copyRange s d.ctx [(d.shadow, d.size)] dst with
      | .error (k, a, f) => ownStop s d.ctx (packetWork pkt 6) k a f
      | .ok s1 =>
        if toBuddy then (s1.putDrain { d with stage := 2, since := s.now }).postDstat d.ctx d.header 2 d.cut d.size
        else (s1.dropDrain pkt).postDstat d.ctx d.header 3 d.cut d.size

def execEvDrainStageComplete (pkt : Nat) (ok : Bool) (s : State) : Host.Outcome State Fault Refusal := .next (drainStage s pkt ok)

end Sys2Proof.Machine
end

