-- ==== Sys2Proof/Machine/Reset.lean ====
section
/-! DEFINITION. The reset ladder, secure boot and the resets of the device (spec/19_command_processing_and_scheduling.md R392, R393;
spec/20_host_fabric_reliability.md R401). -/

namespace Sys2Proof.Machine

/-! ### What a partition's reset loses (19 R393, rung 3) -/

/-- The core whose typed buffer a key lies in. -/
def bufferCore (k : Nat) : Option Nat :=
  match k / 2 ^ 64 with
  | 3 => some (k % 2 ^ 64 / 2 ^ 20)
  | 4 => some (k % 2 ^ 64 / 2 ^ 18)
  | 5 => some (k % 2 ^ 64 / 2 ^ 23)
  | _ => none

/-- Memory without the entries whose key fails a test. -/
def Memory.keep (m : Memory) (f : Nat → Bool) : Memory := m.filter (fun (a, _) => f a)

/-- A packet that completes with RESET; it holds its ranges until then (19 R378, R379). -/
def Packet.reset (p : Packet) : Packet :=
  { p with status := 6, ended := true, cancelled := true, launch := none, sync := none, snap := none }

/-- The packets of a queue that were not accepted, as packets of LSEQ 0; HEAD := TAIL. -/
def resetQueue (s : State) (dq : Nat × Nat) : State :=
  let x := s.queue dq.1 dq.2
  let ns := (List.range (x.tail - x.head)).map (fun i => x.head + i)
  let ps := (ns.zipIdx).map (fun ((n, i) : Nat × Nat) =>
    ({ mkPacket s dq.1 dq.2 (windowPacket s dq.1 dq.2 n) with id := s.nextUid + i, n := n, lseq := 0 } : Packet).reset)
  { s with nextUid := s.nextUid + ns.length, packets := s.packets ++ ps }.modQueue dq.1 dq.2 (fun q => { q with head := q.tail })

/-- The enabled queues of a partition. -/
def partQueues (s : State) (part : Nat) : List (Nat × Nat) :=
  ((List.range 4).flatMap (fun d => (List.range 64).map (fun q => (d, q)))).filter (fun (d, q) => (s.queue d q).en && (s.queue d q).fld 2 3 == part)

/-- Everything of a partition but its memory, its packets' records to come, and its descriptors. The sequence numbers of its cores' channels
and engines start again (07 R187, 09 R214). -/
def partReset (s : State) (part : Nat) : State :=
  let mine (c : Nat) : Bool := s.ctxPart c == part
  let gone (u : Nat) : Bool := s.wicks.any (fun w => w.info.uid == u && mine w.info.ctx)
  let cls := s.partClusters part
  let core (k : Nat) : Bool := cls.contains (k / 64)
  let s1 : State :=
    { s with
      packets := s.packets.map (fun (p : Packet) => if p.part == part then p.reset else p)
      wicks := s.wicks.filter (fun w => !mine w.info.ctx)
      snaps := s.snaps.filter (fun w => !mine w.info.ctx)
      late := s.late.filter (fun p => p.part != part)
      ctxs := s.ctxs.map (fun (x : Ctx) => if x.part == part then { x with stops := x.stops.filter (fun t => decide (t.work < 8)) } else x)
      requests := s.requests.filter (fun r => !gone r.uid)
      verdicts := s.verdicts.filter (fun v => !gone v.uid)
      bands := s.bands.filter (fun b => !s.packets.any (fun p => p.id == b.pkt && p.part == part))
      conts := s.conts.filter (fun r => !mine r.ctx)
      copies := s.copies.filter (fun c => !mine c.ctx)
      chans := s.chans.map (fun (k : Chan) => if k.id < 2048 && core (k.id / 4) then { id := k.id, faults := k.faults } else k)
      flushSeq := s.flushSeq.filter (fun (k, _) => !core k)
      quants := s.quants.filter (fun q => !mine q.ctx)
      matrices := s.matrices.map (fun (m : Matrix) => if core m.core then { core := m.core } else m)
      flushes := s.flushes.filter (fun f => !mine f.ctx)
      texels := s.texels.filter (fun t => !mine t.ctx)
      rays := s.rays.filter (fun r => !mine r.ctx)
      graphs := s.graphs.filter (fun g => !mine g.ctx)
      groups := s.groups.filter (fun g => g.part != part)
      env := s.env.filter (fun x => !core x.core)
      holders := s.holders.filter (fun (k, _) => !core k)
      mem := s.mem.keep (fun k => match bufferCore k with
        | some c => !core c
        | none => true) }
  (partQueues s1 part).foldl resetQueue s1

/-! ### The ladder (19 R369, R393) -/

/-- A rung is requested: a higher one supersedes the one that is BUSY. -/
def requestRung (s : State) (die rung : Nat) (effect : State → State) : State :=
  let d : Die := s.dies[die]?.getD {}
  if s.cfg.boot ≠ 1 ∨ die ≥ 4 ∨ (d.busy ∧ rung ≤ d.lastRung.toNat) then s
  else (effect s).modDie die (fun d => { d with lastRung := BitVec.ofNat 3 rung, busy := true })

/-- Rung 1: the parse round in progress is parsed again; a round of the model is never in progress between two steps. -/
def recover (s : State) (die : Nat) : State := requestRung s die 1 id

def execEvRecover (die : Nat) (s : State) : Host.Outcome State Fault Refusal := .next (recover s die)

/-- A launch accepted and not started is validated again; the reference its validation took is given back. -/
def revalidate (s : State) (p : Packet) : State :=
  match p.launch with
  | none => s
  | some l =>
    if p.started || p.ended || !l.valid then s
    else
      let s1 := if l.fld 0 3 = 4 then s.release p.ctx l.handle else s
      s1.modLaunch p.id (fun l => { l with valid := false, specs := [] })

/-- Rung 2: the Candelabrum starts again. -/
def resetRung2 (s : State) (die : Nat) : State :=
  requestRung s die 2 (fun s => (s.packets.filter (fun p => p.die == die)).foldl revalidate s)

def execEvResetRung2 (die : Nat) (s : State) : Host.Outcome State Fault Refusal := .next (resetRung2 s die)

/-- Rung 3: a partition's engines. -/
def resetRung3 (s : State) (die part : Nat) : State := requestRung s die 3 (fun s => partReset s part)

def execEvResetRung3 (die part : Nat) (s : State) : Host.Outcome State Fault Refusal := .next (resetRung3 s die part)

/-- The partitions with a cluster on a die (20 R400). -/
def State.partsOn (s : State) (die : Nat) : List Nat := (List.range 8).filter (fun p => (s.partClusters p).any (fun c => c / 2 == die))

/-- The bytes whose last values a die reset may lose with its L2: device DRAM of the partitions on the die, and memory of peers and the
host. -/
def State.dirtyKey (s : State) (parts : List Nat) (k : Nat) : Bool :=
  if k < 2 ^ 64 then parts.any (fun p => decide ((s.partDram p).1 ≤ k) && decide (k < (s.partDram p).1 + (s.partDram p).2))
  else decide (k < 3 * 2 ^ 64)

/-- What a die loses beside its partitions' engines. -/
def dieReset (s : State) (die : Nat) : State :=
  let parts := s.partsOn die
  let s1 := parts.foldl partReset s
  let gone (c : Nat) : Bool := parts.contains (s.ctxPart c)
  let past := (s.older.past.filter (fun x => s.dirtyKey parts x.key)).map (fun x => (x.key, x.byte))
  { s1 with
    mem := s1.mem.putBack s1.free 0 past
    free := s1.free + 1
    tlb := s1.tlb.filter (fun t => !gone t.ctx)
    posts := s1.posts.filter (fun x => !gone x.ctx)
    drains := s1.drains.filter (fun d => !parts.contains d.part) }.modDie die (fun d =>
      { tick := s.now, lastRung := d.lastRung, busy := d.busy, rungs := d.rungs, uidrop := d.uidrop })

/-- Rung 4: a die. -/
def resetRung4 (s : State) (die : Nat) : State := requestRung s die 4 (fun s => dieReset s die)

def execEvResetRung4 (die : Nat) (s : State) : Host.Outcome State Fault Refusal := .next (resetRung4 s die)

/-- The rung requested is done. -/
def rungCompletion (s : State) (die : Nat) : State :=
  if die ≥ 4 then s else s.modDie die (fun d => if d.busy then { d with busy := false, rungs := d.rungs + 1 } else d)

def execEvRungCompletion (die : Nat) (s : State) : Host.Outcome State Fault Refusal := .next (rungCompletion s die)

/-! ### Boot (20 R401) -/

/-- BOOTST.STATE after a boot of an image: the first check that failed, or running. -/
def bootState (f : Firmware) : BitVec 4 :=
  if !f.ecdsaOk then 2 else if !f.lmsOk then 3 else if f.svn.toNat < Config.fuseSvn.toNat then 4 else 1

/-- Configuration after a reset that booted an image. -/
def bootCfg (f : Firmware) : DeviceCfg := { boot := bootState f, svn := if bootState f = 1 then f.svn else Config.fuseSvn }

/-- Every register at its reset value, and the firmware verified; what a test keeps of memory stays, and what the model itself
holds (what is still to come, what has gone out, the numbers taken). -/
def rebooted (s : State) (f : Firmware) (now : Nat) (cycles : Vector Nat 8) (kept : Nat → Bool) : State :=
  { now := now, cycles := cycles, cycBase := cycles, mem := s.mem.keep kept, free := s.free, agenda := s.agenda, nextUid := s.nextUid, out := s.out,
    older := { seen := s.mem.keep kept }, poison := s.poison.filter (fun (k, _) => kept k), cfg := bootCfg f, dies := Vector.replicate 4 { tick := now } }

/-- Rung 5: under CXL device DRAM keeps its contents. -/
def functionReset (s : State) (cxl : Bool) (f : Firmware) : State :=
  rebooted s f s.now s.cycles (fun k => outsideKey k || (cxl && decide (k < 2 ^ 64)))

def execEvFunctionLevelReset (cxl : Bool) (image : Firmware) (s : State) : Host.Outcome State Fault Refusal := .next (functionReset s cxl image)

/-- A cold reset: TIMER counts from zero. Memory, which no reset touches but a function-level reset under PCIe (00 R11, 19 R393), stays. -/
def coldReset (s : State) (f : Firmware) : State := rebooted s f 0 (Vector.replicate 8 0) (fun k => outsideKey k || decide (k < 2 ^ 64))

def execEvColdReset (image : Firmware) (s : State) : Host.Outcome State Fault Refusal := .next (coldReset s image)

/-- 1 ms in core cycles. -/
def pilotPeriod : Nat := 1000 * Config.usCycles

/-- PILOT counts once the firmware runs (19 R392). -/
def pilotTick (s : State) (die : Nat) : State :=
  if s.cfg.boot = 1 ∧ die < 4 ∧ (s.dies[die]?.getD {}).tick + pilotPeriod ≤ s.now then
    s.modDie die (fun d => { d with pilot := d.pilot + 1, tick := d.tick + pilotPeriod })
  else s

def execEvPilotTick (die : Nat) (s : State) : Host.Outcome State Fault Refusal := .next (pilotTick s die)

end Sys2Proof.Machine
end

