-- ==== Sys2Proof/Machine/Host.lean ====
section
/-! DEFINITION. What the host and the driver do: configuration writes, queue descriptors, accesses to the control region and to device
memory, attestation, and the power manager (spec/19_command_processing_and_scheduling.md R368 to R371;
spec/20_host_fabric_reliability.md R394 to R401, R411; spec/21_debug_trace_power.md R418, R419). -/

namespace Sys2Proof.Machine

/-! ### Configuration (20 R394, R396, R400; 16 R329) -/

/-- Two ranges share a byte. -/
def rangesMeet (a b : Nat × Nat) : Bool := decide (max a.1 b.1 < min (a.1 + a.2) (b.1 + b.2))

/-- PARTCFG i with a value would share a cluster or a byte of DRAM with another enabled partition. -/
def partClash (s : State) (part : Nat) (r : BitVec 25) : Bool :=
  r.extractLsb' 0 8 != 0 && (List.range 8).any (fun q =>
    let o : BitVec 25 := s.cfg.partcfg[q]?.getD 0
    q != part && o.extractLsb' 0 8 != 0
      && (r.extractLsb' 0 8 &&& o.extractLsb' 0 8 != 0
        || rangesMeet ((r.extractLsb' 8 8).toNat, (r.extractLsb' 16 9).toNat) ((o.extractLsb' 8 8).toNat, (o.extractLsb' 16 9).toNat)))

def partcfgWrite (s : State) (part : Nat) (value : BitVec 32) : State :=
  let r : BitVec 25 := value.extractLsb' 0 25
  if part ≥ 8 ∨ s.partBusy part ∨ (r.extractLsb' 16 9).toNat > 256 ∨ partClash s part r then s
  else { s with cfg := { s.cfg with partcfg := s.cfg.partcfg.setIfInBounds part r } }

def execEvPartcfgWrite (part : Nat) (value : BitVec 32) (s : State) : Host.Outcome State Fault Refusal := .next (partcfgWrite s part value)

/-- PLIMIT: a write outside 600 to 1,500 W is ignored. -/
def plimitWrite (s : State) (value : BitVec 32) : State :=
  let x : BitVec 11 := value.extractLsb' 0 11
  if 600 ≤ x.toNat ∧ x.toNat ≤ 1500 then { s with cfg := { s.cfg with plimit := x } } else s

def execEvPlimitWrite (value : BitVec 32) (s : State) : Host.Outcome State Fault Refusal := .next (plimitWrite s value)

/-- A context's registers as installed: CTXID is the context with its partition, VTMO 100 unless it is set, reserved bits of TRCCTL
and CLMAP zero. -/
def ctxRegs (c : CtxInstall) : Vector Word 18 :=
  let v := setMany ((Vector.replicate 18 (0 : Word)).setIfInBounds 0x0E 100) (c.regs.map (fun (n, x) =>
    (n.toNat, if n = 0x00F then x &&& 0xFFFFFFFFFFFFF003 else if n = 0x010 then x &&& 0xFFFFFF else x)))
  v.setIfInBounds 0 (BitVec.ofNat 64 (c.ctx.toNat + at_ c.part.toNat 16))

/-- The Candelabrum installs a context, in place of an earlier installation. -/
def installCtx (s : State) (c : CtxInstall) : State :=
  let id := c.ctx.toNat
  match s.findCtx id with
  | some _ => s.modCtx id (fun x => { x with part := c.part.toNat, pasid := c.pasid, regs := ctxRegs c })
  | none => { s with ctxs := s.ctxs ++ [{ id := id, part := c.part.toNat, pasid := c.pasid, regs := ctxRegs c }] }

/-- A power of two between two others. -/
def powBetween (n lo hi : Nat) : Bool := (List.range (hi + 1)).any (fun k => decide (lo ≤ k) && n == 2 ^ k)

/-- Some queue of the device is enabled. -/
def State.anyBusy (s : State) : Bool := (List.range 4).any s.dieBusy

/-- NODE written: a number that a node reached has already takes the ports down (20 R398). -/
def nodeWrite (s : State) (v : BitVec 32) : State :=
  if s.anyBusy then s else duplicateCheck { s with cfg := { s.cfg with nodeId := v.extractLsb' 0 8, job := v.getLsbD 8 } }

def erBaseWrite (s : State) (v : Word) : State :=
  if s.anyBusy ∨ v.toNat % 4096 ≠ 0 then s else { s with cfg := { s.cfg with erbase := v } }.flushErrs

def erSizeWrite (s : State) (v : BitVec 32) : State :=
  if s.anyBusy ∨ !powBetween v.toNat 6 16 then s else { s with cfg := { s.cfg with ersize := v } }.flushErrs

/-- The registers of the DVSEC capability, at their byte offsets (20 R394); what is not listed reads zero. -/
def State.dvsec (s : State) : Nat :=
  let c := s.cfg
  at_ (c.nodeId.toNat + at_ (bN c.job) 8) (8 * 0x10) + at_ (c.boot.toNat + at_ c.svn.toNat 8) (8 * 0x14) + at_ c.plimit.toNat (8 * 0x18)
    + at_ (packElems 32 (c.klctl.toList.map BitVec.toNat)) (8 * 0x20) + at_ (packElems 32 (c.partcfg.toList.map BitVec.toNat)) (8 * 0x60)
    + at_ c.erbase.toNat (8 * 0x80) + at_ c.ersize.toNat (8 * 0x88) + at_ c.lost.toNat (8 * 0x90)
    + at_ (packElems 64 (s.retired.toList.map BitVec.toNat)) (8 * 0xB0)

/-- A configuration cycle that writes four bytes at an offset of the capability: RO registers and what is not listed take nothing. -/
def dvsecWrite (s : State) (o : Nat) (v : BitVec 32) : State :=
  if o % 4 ≠ 0 then s
  else if o = 0x10 then nodeWrite s v
  else if o = 0x18 then plimitWrite s v
  else if 0x20 ≤ o ∧ o < 0x60 then klctlWrite s ((o - 0x20) / 4) v
  else if 0x60 ≤ o ∧ o < 0x80 then partcfgWrite s ((o - 0x60) / 4) v
  else if o = 0x80 then erBaseWrite s (BitVec.ofNat 64 (setFld s.cfg.erbase.toNat 0 32 v.toNat))
  else if o = 0x84 then erBaseWrite s (BitVec.ofNat 64 (setFld s.cfg.erbase.toNat 32 32 v.toNat))
  else if o = 0x88 then erSizeWrite s v
  else s

def configWrite (s : State) (reg : ConfigReg) : State :=
  match reg with
  | .cycle o (some v) => dvsecWrite s o v
  | .cycle o none => { s with out := { s.out with answer := some (fld s.dvsec (8 * o) 32) } }
  | .node v => nodeWrite s v
  | .erBase v => erBaseWrite s v
  | .erSize v => erSizeWrite s v
  | .atomicRequester on => { s with cfg := { s.cfg with atomReq := on } }
  | .context c => if s.cfg.boot = 1 then installCtx s c else s

def execEvConfigRegisterWrite (reg : ConfigReg) (s : State) : Host.Outcome State Fault Refusal := .next (configWrite s reg)

/-! ### Queue descriptors (19 R370) -/

/-- The home die of a partition: that of its lowest cluster (20 R400). -/
def State.homeDie (s : State) (part : Nat) : Option Nat := (s.partClusters part).head?.map (· / 2)

/-- Reserved bits of a descriptor's words are zero. -/
def descWord (index : Nat) (v : Word) : Word :=
  match index with
  | 0 => v &&& 0x000FFFFFFFFFFFDF
  | 1 => v
  | 2 => v &&& 0xFFFFFFFF
  | _ => 0

/-- A descriptor with one 64-bit word replaced. -/
def setWord (d : BitVec 256) (index : Nat) (v : Word) : BitVec 256 := BitVec.ofNat 256 (setFld d.toNat (64 * index) 64 v.toNat)

/-- A write of word index of a descriptor: while EN is 1 only EN itself changes; a write that sets EN starts the queue afresh, when
PART is at home on the die. -/
def descWrite (s : State) (die queue index : Nat) (value : Word) : State :=
  if s.cfg.boot ≠ 1 ∨ die ≥ 4 ∨ queue ≥ 64 ∨ index ≥ 4 then s
  else
    let q := s.queue die queue
    let v := descWord index value
    if q.en then
      if index = 0 ∧ !v.getLsbD 0 then s.modQueue die queue (fun q => { q with desc := q.desc &&& ~~~(1 : BitVec 256) }) else s
    else if index = 0 ∧ v.getLsbD 0 then
      if s.homeDie (fld v.toNat 2 3) = some die then s.modQueue die queue (fun q => { desc := setWord q.desc 0 v })
      else s.modQueue die queue (fun q => { q with desc := setWord q.desc 0 (v &&& ~~~(1 : Word)) })
    else s.modQueue die queue (fun q => { q with desc := setWord q.desc index v })

def execEvQueueDescriptorWrite (die queue index : Nat) (value : Word) (s : State) : Host.Outcome State Fault Refusal :=
  .next (descWrite s die queue index value)

/-! ### The control region (19 R368, R369, R371) -/

/-- Byte i of a number. -/
def byteOf (v i : Nat) : Byte := BitVec.ofNat 8 (v >>> (8 * i))

/-- A byte of a command window: slots read back, TAIL reads zero, HEAD reads the packets accepted. -/
def windowByte (s : State) (off : Nat) : Byte :=
  let o := off % 0x1000
  if o < 0xFC0 then s.mem.get (keyCtl off)
  else if 0xFC8 ≤ o ∧ o < 0xFD0 then byteOf (s.queue (off / 0x40000) (off / 0x1000 % 64)).head (o - 0xFC8)
  else 0

/-- RSTAT. -/
def rstat (d : Die) : Nat := d.lastRung.toNat + at_ (bN d.busy) 3 + at_ d.rungs.toNat 32

/-- A byte of a management page. -/
def pageByte (s : State) (die o : Nat) : Byte :=
  let d : Die := s.dies[die]?.getD {}
  if o < 8 then byteOf d.pilot.toNat o
  else if 24 ≤ o ∧ o < 32 then byteOf (rstat d) (o - 24)
  else if 32 ≤ o ∧ o < 40 then byteOf d.uidrop.toNat (o - 32)
  else if 1024 ≤ o ∧ o < 3072 then byteOf (s.queue die ((o - 1024) / 32)).desc.toNat ((o - 1024) % 32)
  else 0

/-- A byte of the control region. -/
def ctlByte (s : State) (off : Nat) : Byte :=
  if s.cfg.boot ≠ 1 then 0
  else if off < 0x100000 then windowByte s off
  else if off < 0x104000 then pageByte s ((off - 0x100000) / 0x1000) (off % 0x1000)
  else 0

/-- A store to a die's RESET: 2 to 4 in the rung, a partition only for rung 3, every other bit zero. -/
def resetStore (s : State) (die v : Nat) : State :=
  match fld v 0 3, v / 8 with
  | 2, 0 => resetRung2 s die
  | 4, 0 => resetRung4 s die
  | 3, _ => if v = 3 + at_ (fld v 8 3) 8 then resetRung3 s die (fld v 8 3) else s
  | _, _ => s

/-- A store to a descriptor's bytes, as a write of the word they lie in. -/
def descStore (s : State) (die o size v : Nat) : State :=
  let q := (o - 1024) / 32
  let index := (o - 1024) % 32 / 8
  let b := o % 8
  if b + size > 8 then s
  else
    let old := fld (s.queue die q).desc.toNat (64 * index) 64
    descWrite s die q index (BitVec.ofNat 64 (setFld old (8 * b) (8 * size) v))

/-- A store to a management page. -/
def pageStore (s : State) (die o size v : Nat) : State :=
  if 8 ≤ o ∧ o < 16 then recover s die
  else if o = 16 then resetStore s die (v % 2 ^ (8 * size))
  else if 1024 ≤ o ∧ o < 3072 then descStore s die o size v
  else s

/-- A store to the control region. -/
def ctlStore (s : State) (off size v : Nat) : State :=
  if s.cfg.boot ≠ 1 then s
  else if off < 0x100000 then
    if off % 0x1000 + size ≤ 0xFC0 then { s with mem := s.mem.write (keyCtl off) size v }
    else if off % 0x1000 = 0xFC0 then tailWrite s (off / 0x40000) (off / 0x1000 % 64) size (BitVec.ofNat 64 v)
    else s
  else if off < 0x104000 then pageStore s ((off - 0x100000) / 0x1000) (off % 0x1000) size v
  else if 0x110000 ≤ off ∧ off < 0x118000 ∧ size = 16 then
    serviceReply s ((off - 0x110000) / 0x1000) (BitVec.ofNat 64 v) (BitVec.ofNat 64 (v / 2 ^ 64))
  else s

/-! ### Host accesses (20 R395, R396, R401) -/

/-- The size of the control region, and of the device DRAM that follows it. -/
def ctlSize : Nat := 0x200000
def dramSize : Nat := 256 * 2 ^ 30

/-- The memory a host access reaches: device DRAM after the control region, and, from 2^64 on, the host's own memory by its physical
address (log 22). -/
def hostKey (s : State) (addr size : Nat) : Option Nat :=
  if 2 ^ 64 ≤ addr then some (keyHost (addr - 2 ^ 64))
  else if s.cfg.boot = 1 ∧ ctlSize ≤ addr ∧ addr + size ≤ ctlSize + dramSize then some (keyLocal (addr - ctlSize))
  else none

/-- A load or store of the host. Poison goes out as such: the answer is none; a store is its value and whether its data
carries poison in. -/
def hostAccess (s : State) (addr size : Nat) (store : Option (Nat × Bool)) : State :=
  let answer (s : State) (a : Option Nat) : State := { s with out := { s.out with answer := a } }
  match store with
  | some (v, poisoned) =>
    if addr < ctlSize then ctlStore s addr size v
    else
      match hostKey s addr size with
      | some k =>
        let s1 := s.storePieces [(k, size)] (leBytes size v)
        (if poisoned then s1.poisonBytes k size else s1).flushErrs
      | none => s
  | none =>
    if addr < ctlSize then answer s (some (leVal ((List.range size).map (fun i => ctlByte s (addr + i)))))
    else
      match hostKey s addr size with
      | some k => answer s (if s.poisoned k size then none else some (s.mem.read k size))
      | none => answer s none

def execEvHostMemoryAccess (addr size : Nat) (store : Option (Nat × Bool)) (s : State) : Host.Outcome State Fault Refusal :=
  .next (hostAccess s addr size store)

/-- The DOE mailbox answers in every boot state (20 R401): signed measurements, the DVSEC registers among them. -/
def spdm (s : State) (request : Nat) : State :=
  { s with free := s.free + 1, out := { s.out with answer := some (Config.spdmAnswer request (s.free + at_ s.dvsec 64)) } }

def execEvSpdmRequest (request : Nat) (s : State) : Host.Outcome State Fault Refusal := .next (spdm s request)

/-! ### The power manager (20 R411, 21 R418, R419) -/

/-- The clusters of a domain, its number among the sources, and its SRCID. -/
def Domain.clusters : Domain → List Nat
  | .die d => [2 * d, 2 * d + 1]
  | .cluster c => [c]

def Domain.source : Domain → Nat
  | .die d => d
  | .cluster c => 4 + c

def Domain.srcid : Domain → Nat
  | .die d => d % 4 + 32
  | .cluster c => c / 2 % 4 + at_ (c % 8) 2

/-- The BODY of a THROTTLE record. -/
def throttleBody (old new : Power) : Nat :=
  old.mhz.toNat + at_ new.mhz.toNat 16 + at_ old.mv.toNat 32 + at_ new.mv.toNat 48 + at_ old.limit.toNat 64 + at_ new.limit.toNat 72

/-- A change of a domain's clock, voltage and issue limit, recorded in each context with TREN that has a cluster there. -/
def throttle (s : State) (d : Domain) (t : Throttle) : State :=
  let cls := Domain.clusters d
  if cls.any (fun c => decide (c ≥ 8)) ∨ t.limit.toNat < 1 ∨ t.limit.toNat > 16 ∨ t.kind.toNat > 3 then s
  else
    let old : Power := s.power[cls.head?.getD 0]?.getD {}
    let new : Power := ⟨t.mhz, t.mv, t.limit⟩
    let n := Domain.source d
    let seq := (s.domSeq[n]?.getD 0) + 1
    let s1 : State := { s with
      power := cls.foldl (fun (v : Vector Power 8) c => v.setIfInBounds c new) s.power
      domSeq := s.domSeq.setIfInBounds n seq }
    let goesTo := (s1.ctxs.filter (fun x => s1.tren x.id && (s1.partClusters x.part).any cls.contains)).map Ctx.id
    goesTo.foldl (fun s c => postTrace s c (traceRec s 3 t.kind.toNat 0 0 seq 0 0 0 (Domain.srcid d) 0 (throttleBody old new))) s1

def execEvThrottleChange (domain : Domain) (change : Throttle) (s : State) : Host.Outcome State Fault Refusal := .next (throttle s domain change)

end Sys2Proof.Machine
end

