-- ==== Sys2Proof/Machine/Dispatch.lean ====
section
/-! DEFINITION. The dispatch: one arm for every constructor of Instr, each a direct call of its meaning. -/

namespace Sys2Proof.Machine

open Sys2Proof

def exec (i : Instr) (s : State) : Host.Outcome State Fault Refusal :=
  match i with
  | .nop h o => Sys2Proof.Machine.execNop h o s
  | .bra h o => Sys2Proof.Machine.execBra h o s
  | .brq h o => Sys2Proof.Machine.execBrq h o s
  | .brp h o => Sys2Proof.Machine.execBrp h o s
  | .brs h o => Sys2Proof.Machine.execBrs h o s
  | .call h o => Sys2Proof.Machine.execCall h o s
  | .calli h o => Sys2Proof.Machine.execCalli h o s
  | .ret h o => Sys2Proof.Machine.execRet h o s
  | .loop h o => Sys2Proof.Machine.execLoop h o s
  | .fork h o => Sys2Proof.Machine.execFork h o s
  | .join h o => Sys2Proof.Machine.execJoin h o s
  | .exit h o => Sys2Proof.Machine.execExit h o s
  | .sleep h o => Sys2Proof.Machine.execSleep h o s
  | .yield h o => Sys2Proof.Machine.execYield h o s
  | .bkpt h o => Sys2Proof.Machine.execBkpt h o s
  | .trapu h o => Sys2Proof.Machine.execTrapu h o s
  | .sadd h o => Sys2Proof.Machine.execSadd h o s
  | .ssub h o => Sys2Proof.Machine.execSsub h o s
  | .smul h o => Sys2Proof.Machine.execSmul h o s
  | .sdiv h o => Sys2Proof.Machine.execSdiv h o s
  | .sand h o => Sys2Proof.Machine.execSand h o s
  | .sor h o => Sys2Proof.Machine.execSor h o s
  | .sxor h o => Sys2Proof.Machine.execSxor h o s
  | .sshl h o => Sys2Proof.Machine.execSshl h o s
  | .sshr h o => Sys2Proof.Machine.execSshr h o s
  | .smin h o => Sys2Proof.Machine.execSmin h o s
  | .smax h o => Sys2Proof.Machine.execSmax h o s
  | .scmp h o => Sys2Proof.Machine.execScmp h o s
  | .ssel h o => Sys2Proof.Machine.execSsel h o s
  | .smov h o => Sys2Proof.Machine.execSmov h o s
  | .sbit h o => Sys2Proof.Machine.execSbit h o s
  | .sbfx h o => Sys2Proof.Machine.execSbfx h o s
  | .sfop h o => Sys2Proof.Machine.execSfop h o s
  | .sfcmp h o => Sys2Proof.Machine.execSfcmp h o s
  | .scvt h o => Sys2Proof.Machine.execScvt h o s
  | .qop h o => Sys2Proof.Machine.execQop h o s
  | .shi h o => Sys2Proof.Machine.execShi h o s
  | .wickctlRelease h o => Sys2Proof.Machine.execWickctlRelease h o s
  | .wickctlKill h o => Sys2Proof.Machine.execWickctlKill h o s
  | .wickctlPark h o => Sys2Proof.Machine.execWickctlPark h o s
  | .wickctlUnpark h o => Sys2Proof.Machine.execWickctlUnpark h o s
  | .replay h o => Sys2Proof.Machine.execReplay h o s
  | .halt h o => Sys2Proof.Machine.execHalt h o s
  | .eret h o => Sys2Proof.Machine.execEret h o s
  | .eretNext h o => Sys2Proof.Machine.execEretNext h o s
  | .eretReflect h o => Sys2Proof.Machine.execEretReflect h o s
  | .mfpr h o => Sys2Proof.Machine.execMfpr h o s
  | .mtpr h o => Sys2Proof.Machine.execMtpr h o s
  | .savev h o => Sys2Proof.Machine.execSavev h o s
  | .loadv h o => Sys2Proof.Machine.execLoadv h o s
  | .savekSave h o => Sys2Proof.Machine.execSavekSave h o s
  | .savekLoad h o => Sys2Proof.Machine.execSavekLoad h o s
  | .quiesceWait h o => Sys2Proof.Machine.execQuiesceWait h o s
  | .quiesceCancel h o => Sys2Proof.Machine.execQuiesceCancel h o s
  | .tlbinv h o => Sys2Proof.Machine.execTlbinv h o s
  | .vadd h o => Sys2Proof.Machine.execVadd h o s
  | .vsub h o => Sys2Proof.Machine.execVsub h o s
  | .vmul h o => Sys2Proof.Machine.execVmul h o s
  | .vmad h o => Sys2Proof.Machine.execVmad h o s
  | .vand h o => Sys2Proof.Machine.execVand h o s
  | .vor h o => Sys2Proof.Machine.execVor h o s
  | .vxor h o => Sys2Proof.Machine.execVxor h o s
  | .vshl h o => Sys2Proof.Machine.execVshl h o s
  | .vshr h o => Sys2Proof.Machine.execVshr h o s
  | .vmin h o => Sys2Proof.Machine.execVmin h o s
  | .vmax h o => Sys2Proof.Machine.execVmax h o s
  | .vabsd h o => Sys2Proof.Machine.execVabsd h o s
  | .vcmp h o => Sys2Proof.Machine.execVcmp h o s
  | .vsel h o => Sys2Proof.Machine.execVsel h o s
  | .vmov h o => Sys2Proof.Machine.execVmov h o s
  | .vaddmin h o => Sys2Proof.Machine.execVaddmin h o s
  | .vaddmax h o => Sys2Proof.Machine.execVaddmax h o s
  | .vbit h o => Sys2Proof.Machine.execVbit h o s
  | .vbfx h o => Sys2Proof.Machine.execVbfx h o s
  | .vdot h o => Sys2Proof.Machine.execVdot h o s
  | .vclamp h o => Sys2Proof.Machine.execVclamp h o s
  | .fadd h o => Sys2Proof.Machine.execFadd h o s
  | .fsub h o => Sys2Proof.Machine.execFsub h o s
  | .fmul h o => Sys2Proof.Machine.execFmul h o s
  | .ffma h o => Sys2Proof.Machine.execFfma h o s
  | .fmin h o => Sys2Proof.Machine.execFmin h o s
  | .fmax h o => Sys2Proof.Machine.execFmax h o s
  | .fcmp h o => Sys2Proof.Machine.execFcmp h o s
  | .fclass h o => Sys2Proof.Machine.execFclass h o s
  | .frcp h o => Sys2Proof.Machine.execFrcp h o s
  | .frsq h o => Sys2Proof.Machine.execFrsq h o s
  | .fsqrt h o => Sys2Proof.Machine.execFsqrt h o s
  | .fexp2 h o => Sys2Proof.Machine.execFexp2 h o s
  | .flog2 h o => Sys2Proof.Machine.execFlog2 h o s
  | .fsincos h o => Sys2Proof.Machine.execFsincos h o s
  | .fdiv h o => Sys2Proof.Machine.execFdiv h o s
  | .fdot2 h o => Sys2Proof.Machine.execFdot2 h o s
  | .fcvt h o => Sys2Proof.Machine.execFcvt h o s
  | .icvt h o => Sys2Proof.Machine.execIcvt h o s
  | .fpack h o => Sys2Proof.Machine.execFpack h o s
  | .funpack h o => Sys2Proof.Machine.execFunpack h o s
  | .fscale h o => Sys2Proof.Machine.execFscale h o s
  | .lshf h o => Sys2Proof.Machine.execLshf h o s
  | .lrot h o => Sys2Proof.Machine.execLrot h o s
  | .lperm h o => Sys2Proof.Machine.execLperm h o s
  | .lbcast h o => Sys2Proof.Machine.execLbcast h o s
  | .lred h o => Sys2Proof.Machine.execLred h o s
  | .lscan h o => Sys2Proof.Machine.execLscan h o s
  | .lbal h o => Sys2Proof.Machine.execLbal h o s
  | .lpack h o => Sys2Proof.Machine.execLpack h o s
  | .lmatch h o => Sys2Proof.Machine.execLmatch h o s
  | .plop h o => Sys2Proof.Machine.execPlop h o s
  | .pset h o => Sys2Proof.Machine.execPset h o s
  | .aff h o => Sys2Proof.Machine.execAff h o s
  | .vshape h o => Sys2Proof.Machine.execVshape h o s
  | .vcomp h o => Sys2Proof.Machine.execVcomp h o s
  | .vexp h o => Sys2Proof.Machine.execVexp h o s
  | .mfs h o => Sys2Proof.Machine.execMfs h o s
  | .mts h o => Sys2Proof.Machine.execMts h o s
  | .ld h o => Sys2Proof.Machine.execLd h o s
  | .st h o => Sys2Proof.Machine.execSt h o s
  | .ldaBcast h o => Sys2Proof.Machine.execLdaBcast h o s
  | .ldaSeq h o => Sys2Proof.Machine.execLdaSeq h o s
  | .sta h o => Sys2Proof.Machine.execSta h o s
  | .ldc h o => Sys2Proof.Machine.execLdc h o s
  | .stc h o => Sys2Proof.Machine.execStc h o s
  | .lds h o => Sys2Proof.Machine.execLds h o s
  | .sts h o => Sys2Proof.Machine.execSts h o s
  | .atom h o => Sys2Proof.Machine.execAtom h o s
  | .satom h o => Sys2Proof.Machine.execSatom h o s
  | .cas h o => Sys2Proof.Machine.execCas h o s
  | .fence h o => Sys2Proof.Machine.execFence h o s
  | .icinv h o => Sys2Proof.Machine.execIcinv h o s
  | .cache h o => Sys2Proof.Machine.execCache h o s
  | .txl h o => Sys2Proof.Machine.execTxl h o s
  | .txi h o => Sys2Proof.Machine.execTxi h o s
  | .waitm h o => Sys2Proof.Machine.execWaitm h o s
  | .ldq h o => Sys2Proof.Machine.execLdq h o s
  | .cpy h o => Sys2Proof.Machine.execCpy h o s
  | .cpyg h o => Sys2Proof.Machine.execCpyg h o s
  | .cpys h o => Sys2Proof.Machine.execCpys h o s
  | .cpym h o => Sys2Proof.Machine.execCpym h o s
  | .seal h o => Sys2Proof.Machine.execSeal h o s
  | .waitb h o => Sys2Proof.Machine.execWaitb h o s
  | .binit h o => Sys2Proof.Machine.execBinit h o s
  | .barv h o => Sys2Proof.Machine.execBarv h o s
  | .bwait h o => Sys2Proof.Machine.execBwait h o s
  | .btest h o => Sys2Proof.Machine.execBtest h o s
  | .waitwp h o => Sys2Proof.Machine.execWaitwp h o s
  | .chrst h o => Sys2Proof.Machine.execChrst h o s
  | .qsub h o => Sys2Proof.Machine.execQsub h o s
  | .qwait h o => Sys2Proof.Machine.execQwait h o s
  | .cpyst h o => Sys2Proof.Machine.execCpyst h o s
  | .mma h o => Sys2Proof.Machine.execMma h o s
  | .mmas h o => Sys2Proof.Machine.execMmas h o s
  | .mmac h o => Sys2Proof.Machine.execMmac h o s
  | .mzero h o => Sys2Proof.Machine.execMzero h o s
  | .mzeroLat h o => Sys2Proof.Machine.execMzeroLat h o s
  | .mdrain h o => Sys2Proof.Machine.execMdrain h o s
  | .mldw h o => Sys2Proof.Machine.execMldw h o s
  | .mwait h o => Sys2Proof.Machine.execMwait h o s
  | .mstat h o => Sys2Proof.Machine.execMstat h o s
  | .ecrt h o => Sys2Proof.Machine.execEcrt h o s
  | .edel h o => Sys2Proof.Machine.execEdel h o s
  | .eadd h o => Sys2Proof.Machine.execEadd h o s
  | .erem h o => Sys2Proof.Machine.execErem h o s
  | .hres h o => Sys2Proof.Machine.execHres h o s
  | .ecol h o => Sys2Proof.Machine.execEcol h o s
  | .eqry h o => Sys2Proof.Machine.execEqry h o s
  | .estat h o => Sys2Proof.Machine.execEstat h o s
  | .ecnt h o => Sys2Proof.Machine.execEcnt h o s
  | .capt h o => Sys2Proof.Machine.execCapt h o s
  | .apply h o => Sys2Proof.Machine.execApply h o s
  | .applyV h o => Sys2Proof.Machine.execApplyV h o s
  | .kdup h o => Sys2Proof.Machine.execKdup h o s
  | .krel h o => Sys2Proof.Machine.execKrel h o s
  | .kld h o => Sys2Proof.Machine.execKld h o s
  | .kmov h o => Sys2Proof.Machine.execKmov h o s
  | .kref h o => Sys2Proof.Machine.execKref h o s
  | .uisend h o => Sys2Proof.Machine.execUisend h o s
  | .uimask h o => Sys2Proof.Machine.execUimask h o s
  | .uimaskClaim h o => Sys2Proof.Machine.execUimaskClaim h o s
  | .uipendTake h o => Sys2Proof.Machine.execUipendTake h o s
  | .uipendPeek h o => Sys2Proof.Machine.execUipendPeek h o s
  | .uiret h o => Sys2Proof.Machine.execUiret h o s
  | .uiwait h o => Sys2Proof.Machine.execUiwait h o s
  | .svc h o => Sys2Proof.Machine.execSvc h o s
  | .svcw h o => Sys2Proof.Machine.execSvcw h o s
  | .emit h o => Sys2Proof.Machine.execEmit h o s
  | .nodefin h o => Sys2Proof.Machine.execNodefin h o s
  | .bin h o => Sys2Proof.Machine.execBin h o s
  | .rast h o => Sys2Proof.Machine.execRast h o s
  | .ztest h o => Sys2Proof.Machine.execZtest h o s
  | .rtw h o => Sys2Proof.Machine.execRtw h o s
  | .tilef h o => Sys2Proof.Machine.execTilef h o s
  | .tex h o => Sys2Proof.Machine.execTex h o s
  | .trace h o => Sys2Proof.Machine.execTrace h o s
  | .cont h o => Sys2Proof.Machine.execCont h o s
  | .rsusp h o => Sys2Proof.Machine.execRsusp h o s
  | .rres h o => Sys2Proof.Machine.execRres h o s
  | .lntp h o => Sys2Proof.Machine.execLntp h o s
  | .mNode => Sys2Proof.Machine.execMNode s
  | .mBoxn => Sys2Proof.Machine.execMBoxn s
  | .mOrder => Sys2Proof.Machine.execMOrder s
  | .mPushc => Sys2Proof.Machine.execMPushc s
  | .mPop => Sys2Proof.Machine.execMPop s
  | .mLeaf => Sys2Proof.Machine.execMLeaf s
  | .mPrim => Sys2Proof.Machine.execMPrim s
  | .mHit => Sys2Proof.Machine.execMHit s
  | .mCallk => Sys2Proof.Machine.execMCallk s
  | .mAccept => Sys2Proof.Machine.execMAccept s
  | .mIgnore => Sys2Proof.Machine.execMIgnore s
  | .mSett sel => Sys2Proof.Machine.execMSett sel s
  | .mJmp target => Sys2Proof.Machine.execMJmp target s
  | .mJif neg cond target => Sys2Proof.Machine.execMJif neg cond target s
  | .mCnt op value => Sys2Proof.Machine.execMCnt op value s
  | .mTerm => Sys2Proof.Machine.execMTerm s
  | .mDone => Sys2Proof.Machine.execMDone s
  | .evSleepExpiry wick frag => Sys2Proof.Machine.execEvSleepExpiry wick frag s
  | .evRaySuspension ray => Sys2Proof.Machine.execEvRaySuspension ray s
  | .evVerdictArrival wick => Sys2Proof.Machine.execEvVerdictArrival wick s
  | .evVerdictTimeout ray => Sys2Proof.Machine.execEvVerdictTimeout ray s
  | .evRunaway ray => Sys2Proof.Machine.execEvRunaway ray s
  | .evTexelFetchComplete rec => Sys2Proof.Machine.execEvTexelFetchComplete rec s
  | .evContinuationWickStart rec => Sys2Proof.Machine.execEvContinuationWickStart rec s
  | .evChandelierGatherTimer rec => Sys2Proof.Machine.execEvChandelierGatherTimer rec s
  | .evNodeWickStart graph node => Sys2Proof.Machine.execEvNodeWickStart graph node s
  | .evGatherTimer graph node => Sys2Proof.Machine.execEvGatherTimer graph node s
  | .evTilePhaseStart pkt => Sys2Proof.Machine.execEvTilePhaseStart pkt s
  | .evTileCompletion pkt tile => Sys2Proof.Machine.execEvTileCompletion pkt tile s
  | .evCopyCompletion chan => Sys2Proof.Machine.execEvCopyCompletion chan s
  | .evCopyFaultStop chan => Sys2Proof.Machine.execEvCopyFaultStop chan s
  | .evCopyContinue work => Sys2Proof.Machine.execEvCopyContinue work s
  | .evMatrixInstructionComplete core => Sys2Proof.Machine.execEvMatrixInstructionComplete core s
  | .evMmacRendezvous band => Sys2Proof.Machine.execEvMmacRendezvous band s
  | .evStreamingKBlock core => Sys2Proof.Machine.execEvStreamingKBlock core s
  | .evQuantCommandComplete cluster => Sys2Proof.Machine.execEvQuantCommandComplete cluster s
  | .evQuantFaultStop cluster => Sys2Proof.Machine.execEvQuantFaultStop cluster s
  | .evApplicationPhase pkt => Sys2Proof.Machine.execEvApplicationPhase pkt s
  | .evCompactionMove pkt => Sys2Proof.Machine.execEvCompactionMove pkt s
  | .evQueryBlockDispatch pkt => Sys2Proof.Machine.execEvQueryBlockDispatch pkt s
  | .evFaultRecord ctx => Sys2Proof.Machine.execEvFaultRecord ctx s
  | .evIssueCycle port => Sys2Proof.Machine.execEvIssueCycle port s
  | .evAgeGuard wick => Sys2Proof.Machine.execEvAgeGuard wick s
  | .evPreemptionEntry wick => Sys2Proof.Machine.execEvPreemptionEntry wick s
  | .evPreemptionWatchdog group => Sys2Proof.Machine.execEvPreemptionWatchdog group s
  | .evRestoreEntry group => Sys2Proof.Machine.execEvRestoreEntry group s
  | .evResumeEntry wick => Sys2Proof.Machine.execEvResumeEntry wick s
  | .evUserInterruptDelivery ctx => Sys2Proof.Machine.execEvUserInterruptDelivery ctx s
  | .evDebugStop wick => Sys2Proof.Machine.execEvDebugStop wick s
  | .evTailWrite die queue size value => Sys2Proof.Machine.execEvTailWrite die queue size value s
  | .evParseRound die => Sys2Proof.Machine.execEvParseRound die s
  | .evNopPacket pkt => Sys2Proof.Machine.execEvNopPacket pkt s
  | .evLaunch pkt => Sys2Proof.Machine.execEvLaunch pkt s
  | .evWorldsync pkt => Sys2Proof.Machine.execEvWorldsync pkt s
  | .evCopy pkt => Sys2Proof.Machine.execEvCopy pkt s
  | .evSnapshot pkt => Sys2Proof.Machine.execEvSnapshot pkt s
  | .evSignal pkt => Sys2Proof.Machine.execEvSignal pkt s
  | .evUiraise pkt => Sys2Proof.Machine.execEvUiraise pkt s
  | .evWait pkt => Sys2Proof.Machine.execEvWait pkt s
  | .evWaitSatisfied pkt => Sys2Proof.Machine.execEvWaitSatisfied pkt s
  | .evCancel pkt => Sys2Proof.Machine.execEvCancel pkt s
  | .evPreempt pkt => Sys2Proof.Machine.execEvPreempt pkt s
  | .evResume pkt => Sys2Proof.Machine.execEvResume pkt s
  | .evPacketStart pkt => Sys2Proof.Machine.execEvPacketStart pkt s
  | .evPlacement part => Sys2Proof.Machine.execEvPlacement part s
  | .evPacketCompletion pkt => Sys2Proof.Machine.execEvPacketCompletion pkt s
  | .evSnapshotStart pkt => Sys2Proof.Machine.execEvSnapshotStart pkt s
  | .evCutMessage node cut => Sys2Proof.Machine.execEvCutMessage node cut s
  | .evCutTimeout pkt => Sys2Proof.Machine.execEvCutTimeout pkt s
  | .evDrainStageComplete pkt ok => Sys2Proof.Machine.execEvDrainStageComplete pkt ok s
  | .evDoorbellSend pasid offset size payload => Sys2Proof.Machine.execEvDoorbellSend pasid offset size payload s
  | .evPeerSend node sender target vector payload => Sys2Proof.Machine.execEvPeerSend node sender target vector payload s
  | .evServiceReply part token value => Sys2Proof.Machine.execEvServiceReply part token value s
  | .evHostMemoryAccess addr size store => Sys2Proof.Machine.execEvHostMemoryAccess addr size store s
  | .evPeerMemoryRequest node pa size req => Sys2Proof.Machine.execEvPeerMemoryRequest node pa size req s
  | .evQueueDescriptorWrite die queue index value => Sys2Proof.Machine.execEvQueueDescriptorWrite die queue index value s
  | .evRecover die => Sys2Proof.Machine.execEvRecover die s
  | .evResetRung2 die => Sys2Proof.Machine.execEvResetRung2 die s
  | .evResetRung3 die part => Sys2Proof.Machine.execEvResetRung3 die part s
  | .evResetRung4 die => Sys2Proof.Machine.execEvResetRung4 die s
  | .evFunctionLevelReset cxl image => Sys2Proof.Machine.execEvFunctionLevelReset cxl image s
  | .evColdReset image => Sys2Proof.Machine.execEvColdReset image s
  | .evPilotTick die => Sys2Proof.Machine.execEvPilotTick die s
  | .evSpdmRequest request => Sys2Proof.Machine.execEvSpdmRequest request s
  | .evKlctlWrite port value => Sys2Proof.Machine.execEvKlctlWrite port value s
  | .evPartcfgWrite part value => Sys2Proof.Machine.execEvPartcfgWrite part value s
  | .evPlimitWrite value => Sys2Proof.Machine.execEvPlimitWrite value s
  | .evConfigRegisterWrite reg => Sys2Proof.Machine.execEvConfigRegisterWrite reg s
  | .evLinkStateChange port up peer peerGen => Sys2Proof.Machine.execEvLinkStateChange port up peer peerGen s
  | .evLinkHeartbeatTimeout node => Sys2Proof.Machine.execEvLinkHeartbeatTimeout node s
  | .evLossNotice node => Sys2Proof.Machine.execEvLossNotice node s
  | .evCorrectableError unit spare => Sys2Proof.Machine.execEvCorrectableError unit spare s
  | .evUncorrectableError unit key => Sys2Proof.Machine.execEvUncorrectableError unit key s
  | .evPoisonConsumption by_ => Sys2Proof.Machine.execEvPoisonConsumption by_ s
  | .evThrottleChange domain change => Sys2Proof.Machine.execEvThrottleChange domain change s
  | .evCopyElementDelivery chan => Sys2Proof.Machine.execEvCopyElementDelivery chan s
  | .evTexelFetchFaultStop rec => Sys2Proof.Machine.execEvTexelFetchFaultStop rec s
  | .evTilefCompletion core => Sys2Proof.Machine.execEvTilefCompletion core s
  | .evSnapshotCopyComplete pkt => Sys2Proof.Machine.execEvSnapshotCopyComplete pkt s
  | .evRungCompletion die => Sys2Proof.Machine.execEvRungCompletion die s
  | .evWickKillCommand wick => Sys2Proof.Machine.execEvWickKillCommand wick s
  | .evPeerSendAnswer wick accepted => Sys2Proof.Machine.execEvPeerSendAnswer wick accepted s

end Sys2Proof.Machine
end

