-- ==== Sys2Proof/Machine/Front.lean ====
section
/-! DEFINITION. The front end and the turns: fetching a line and its checks (spec/05_encoding_and_assembly.md R119 to R125), the order
of checks of R136, pairs (R122), the fragments and wicks that may issue (spec/01_execution_model.md R20,
spec/19_command_processing_and_scheduling.md R387, R389), stall counters (spec/21_debug_trace_power.md R417), the issue limit (R418), a
ray's microinstruction (spec/14_rendering_and_lantern.md R313), and the turns the device may take when nothing else is asked. -/

namespace Sys2Proof.Machine

open Sys2Proof

/-! ### Lines (05 R119, R122 to R124, R134) -/

/-- The opcode of a slot of a line. -/
def slotOpc (line j : Nat) : Nat := fld line (96 * j + 88) 8

/-- PAIR bit j of a line. -/
def linePair (line j : Nat) : Bool := decide (j < 4) && (lineWord line).testBit (5 + j)

/-- A pair of slots j and j + 1 may not be joined. -/
def pairIllegal (line j : Nat) : Bool :=
  let a := opcClass (slotOpc line j)
  let b := opcClass (slotOpc line (j + 1))
  (a == .s) == (b == .s) || a == .solo || b == .solo || decide (slotOpc line j < 0x10)

/-- 05 R122: the line is illegal. -/
def lineIllegal (line : Nat) : Bool :=
  fld (lineWord line) 16 16 != 0
    || (List.range 4).any (fun j => linePair line j && (pairIllegal line j || linePair line (j + 1)))

/-- LPAR and PAR of slot j hold (05 R119). -/
def parityOk (line j : Nat) : Bool :=
  popN 15 (lineWord line) % 2 == 0 && (popN 96 (lineSlot line j).toNat + bN ((lineWord line).testBit (9 + j))) % 2 == 0

/-- What a fetch gives: a page that fails, a parity that fails twice, or the line. -/
inductive Fetched where
  | fail (p : PFault)
  | parity
  | line (l : Nat)
  deriving DecidableEq, Repr

/-- A line for slot j: the one the fragment holds, or one that is fetched; a parity that fails is met by one fetch more (05 R124, R125). -/
def fetchChecked (s : State) (core c : Nat) (sl : Bool) (addr j : Nat) (held : Option Nat) : Fetched × State :=
  let again (s1 : State) : Fetched × State :=
    match fetchLine s1.fresh.2 core c sl addr with
    | (.error p, s2) => (.fail p, s2)
    | (.ok l, s2) => (if parityOk l j then .line l else .parity, s2)
  match held with
  | some l => if parityOk l j then (.line l, s) else again s
  | none =>
    match fetchLine s core c sl addr with
    | (.error p, s1) => (.fail p, s1)
    | (.ok l, s1) => if parityOk l j then (.line l, s1) else again s1

/-! ### The front end (05 R136, steps 1 to 5) -/

/-- The PC a wick issues at. -/
def Wick.issuePc (w : Wick) (f : Nat) : Word := if w.trap.sl then w.trap.pc else (w.frag f).pc

/-- The entry of a wick or of its access slice is still to be checked for T (05 R121). -/
def Wick.atEntry (w : Wick) (f : Nat) : Bool :=
  if w.inAccess then (match w.access with
    | some a => a.entry
    | none => false)
  else !w.trap.sl && w.books.entry == some f

/-- The entry has been checked. -/
def Wick.pastEntry (w : Wick) (f : Nat) : Wick :=
  if w.inAccess then { w with access := w.access.map (fun a => { a with entry := false }) }
  else if w.atEntry f then { w with books := { w.books with entry := none } } else w

/-- The cause of bits that decode to nothing: a privileged opcode outside single-lane mode, else illegal (05 R136). -/
def decodeCause (w : Wick) (bits : BitVec 96) (e : DecodeError) : Nat :=
  let o := (opcOf bits).toNat
  if e == .opcode || w.trap.sl || !(decide (0x25 ≤ o) && decide (o < 0x30)) then 0x01 else 0x04

/-- What the front end makes of an issue: it ends here, or an instruction of a line goes on. -/
inductive Front where
  | ends (s : State)
  | go (s : State) (w : Wick) (i : Instr) (line : Nat)

/-- A comparator stops a fragment before it issues; a stop that is due already is not made again. -/
def comparator (w : Wick) (f : Nat) (i : Instr) (line : Nat) : Option StopInfo :=
  if w.books.stop.isSome then none else stopBefore w f i (linePair line (pcSlot (w.issuePc f)))

/-- The slot of a line decoded: a comparator's stop, a decode trap, or the instruction. -/
def decodeSlot (s : State) (w : Wick) (f line : Nat) : Front :=
  let bits := lineSlot line (pcSlot (w.issuePc f))
  match decode bits with
  | .ok i =>
    match comparator w f i line with
    | some x => .ends (s.putWick (w.setStop x))
    | none => .go s w i line
  | .error e =>
    match comparator w f .mNode line with
    | some x => .ends (s.putWick (w.setStop x))
    | none => .ends (raiseTrap s w (w.cx f .mNode) { cause := decodeCause w bits e })

/-- A line that has been fetched: parity, the entry's T bit, legality, then its slot. -/
def checkLine (s : State) (w : Wick) (f line : Nat) : Front :=
  let pc := w.issuePc f
  let cx := w.cx f .mNode
  if w.atEntry f && !lineT line (pcSlot pc) then .ends (raiseTrap s (w.pastEntry f) cx { cause := 0x03, val := pc })
  else if lineIllegal line then .ends (raiseTrap s (w.pastEntry f) cx { cause := 0x02, val := BitVec.ofNat 64 (pcLine pc) })
  else decodeSlot s (w.pastEntry f) f line

/-- The issue of fragment f up to its decoding. A PC that is badly formed, wherever it came from (UIRET, ERET, LOADV, a transfer or a
sequential successor past 2^57), fails 05 R120 here (log 126). -/
def frontEnd (s : State) (w : Wick) (f : Nat) : Front :=
  let pc := w.issuePc f
  let cx := w.cx f .mNode
  if !pcForm pc then .ends (raiseTrap s (w.pastEntry f) cx { cause := 0x03, val := pc })
  else
    match fetchChecked s w.info.coreId w.info.ctx w.trap.sl (pcLine pc) (pcSlot pc) (w.heldLine f pc) with
    | (.fail p, s1) => .ends (fetchFails s1 w cx (pcLine pc) p)
    | (.parity, s1) => .ends (raiseTrap s1 w cx { cause := 0x38, val := BitVec.ofNat 64 (pcLine pc) })
    | (.line l, s1) => checkLine s1 (w.holdLine f pc l) f l

/-! ### Around exec -/

/-- The issue is the first half of a pair, and the second follows in the same cycle, in a fragment that goes on (05 R122). -/
def pairGoesOn (w w' : Wick) (f line : Nat) : Bool :=
  !w.trap.sl && !w.inAccess && !w'.trap.sl && w'.info.stage == .resident && (w'.frag f).state == .running
    && linePair line (pcSlot (w.issuePc f)) && issued w w' f && (w'.frag f).pc == pcNext (w.issuePc f)

/-- The instruction of an issue has not completed: the wick stands where it stood. -/
def waitsStill (w w' : Wick) (f : Nat) : Bool := !issued w w' f && w'.trap.sl == w.trap.sl && w'.info.stage == .resident

/-- The pair that stands open after an issue: the first half of one, or one whose second half still waits. -/
def pairAfter (w w' : Wick) (f line : Nat) (second : Bool) : Option Nat :=
  if w.inAccess then w'.books.pair
  else if second then (if waitsStill w w' f then w'.books.pair else none)
  else if pairGoesOn w w' f line then some f else none

/-- The debug stop due after an issue that began in s (21 R414). -/
def dueStop (s : State) (w w' : Wick) (f : Nat) (i : Instr) : Option StopInfo :=
  match i with
  | .replay _ o => stopReplay s w w' (o.imm.toNat % 4)
  | _ => stopAfter s w w' f i

/-- What the step adds to a wick after exec began in s0: the marks of a pair and of the first instruction after an ERET, and a debug stop. -/
def afterIssue (s0 s : State) (w : Wick) (f : Nat) (i : Instr) (line : Nat) (second : Bool) : State :=
  match s.findWick w.info.uid with
  | none => s
  | some w1 =>
    let fresh := if issued w w1 f && !w.trap.sl then w1.books.fresh.filter (fun g => g != f) else w1.books.fresh
    let w2 : Wick := { w1 with books := { w1.books with fresh := fresh, pair := pairAfter w w1 f line second } }
    s.putWick (match dueStop s0 w w2 f i with
      | some x => w2.setStop x
      | none => w2)

/-- One instruction of fragment f: the trap that is held, or the front end, exec, and what follows. -/
def issueOne (s : State) (uid f : Nat) (second : Bool) : Host.Outcome State Fault Refusal :=
  match s.findWick uid with
  | none => .next s
  | some w =>
    match heldTurn s w with
    | some s1 => .next s1
    | none =>
      match frontEnd s w f with
      | .ends s1 => .next s1
      | .go s1 w1 i line =>
        match exec i { s1.putWick w1 with cur := .wick uid f } with
        | .next s2 => .next (afterIssue s1 s2 w1 f i line second)
        | .fault x => .fault x
        | .refused x => .refused x

/-! ### Waits (21 R417) -/

/-- The first stall counter that an attempt counted. -/
def stallRow (w w' : Wick) : Option Nat := (List.range 16).find? (fun n => w.books.stall[n]? != w'.books.stall[n]?)

/-- An attempt of fragment f waited: the counter it counted, or 16 when that counter is full or in single-lane mode, where none
counts. -/
def waitRow (s s' : State) (uid f : Nat) : Option Nat :=
  match s.findWick uid, s'.findWick uid with
  | some w, some w' =>
    match stallRow w w' with
    | some n => some n
    | none =>
      let held := w'.info.stage == .resident && w.trap.sl == w'.trap.sl
      if held && w.trap.sl && w.trap.pc == w'.trap.pc then some 16
      else if held && !w.trap.sl && !issued w w' f && w.books.stall.toList.contains 0xFFFFFFFF then some 16
      else none
  | _, _ => none

/-- The counters of a wick as they stood in another state. -/
def restoreStall (s s' : State) (uid : Nat) : State :=
  match s.findWick uid with
  | some w => s'.modWick uid (fun w' => { w' with books := { w'.books with stall := w.books.stall } })
  | none => s'

/-- An instruction's wait has an effect outside the wick, which is not begun twice: a send, a call, rays to be suspended. -/
def FragWait.sent (a b : FragWait) : Bool := a.send != b.send || a.svc != b.svc || a.rsusp != b.rsusp

/-- The first half of a pair has had an effect outside the wick. -/
def State.reachedOut (s s1 : State) : Bool := ({ s1 with wicks := s.wicks, tlb := s.tlb, free := s.free, cur := s.cur } : State) != s

/-- A pair of fragment f, its first half done in s1 (05 R122, log 16). When the second waits and nothing outside the wick has been done, the
pair has not issued, and nothing of it stands but how long a BWAIT waits. What the first half or the second's wait has done outside the wick
stands, and the pair stays open, so that no stop falls into it. A second half that waits behind a logged instruction issues on its own. -/
def secondHalf (s s1 : State) (w : Wick) (uid f : Nat) : Host.Outcome State Fault Refusal :=
  match issueOne s1 uid f true with
  | .next s2 =>
    let a := ((s1.findWick uid).map (fun x => (x.frag f).wait)).getD {}
    let b := ((s2.findWick uid).map (fun x => (x.frag f).wait)).getD {}
    (match waitRow s1 s2 uid f with
     | some n =>
       if n = 12 then .next (s2.modWick uid (fun x => { x with books := { x.books with pair := none } }))
       else if a.sent b || s.reachedOut s1 then .next s2
       else .next (s.putWick ((w.waits f n).modWait f (fun _ => b)))
     | none => .next s2)
  | .fault x => .fault x
  | .refused x => .refused x

/-- An attempt of fragment f: one instruction, a pair, which issues whole or not at all (05 R122), or the half that is left of one. -/
def attempt (s : State) (uid f : Nat) : Host.Outcome State Fault Refusal :=
  match s.findWick uid with
  | none => .next s
  | some w =>
    if w.books.pair == some f then issueOne s uid f true
    else
      match issueOne s uid f false with
      | .fault x => .fault x
      | .refused x => .refused x
      | .next s1 => if (s1.findWick uid).any (fun x => x.books.pair.isSome) then secondHalf s s1 w uid f else .next s1

/-- A place of the device that makes an access for a partition. -/
def askerAt (cluster core part : Nat) : Asker := ⟨cluster / 2 % 4 + at_ (cluster % 8) 2 + at_ (core % 64) 5, 2 ^ part⟩

def Wick.asker (s : State) (w : Wick) : Asker := askerAt w.info.cluster w.info.core (s.ctxPart w.info.ctx)

def State.wickAsker (s : State) (uid : Nat) : Asker := ((s.findWick uid).map (Wick.asker s)).getD ⟨0, 0⟩

/-- An attempt; one that uses poisoned data halts the wick (20 R402). -/
def tryFrag (s : State) (uid f : Nat) : Host.Outcome State Fault Refusal :=
  s.guarded (s.wickAsker uid) (fun s n => consume s (.wick uid) n) (fun s => attempt s uid f)

/-! ### The access slice (19 R389) -/

/-- v128 to v247 of a register file replaced. -/
def withNarrow (v : Vector VReg 248) (n : Vector VReg 120) : Vector VReg 248 :=
  Vector.ofFn (fun i : Fin 248 => if i.val < 128 then v[i.val]?.getD (.u 0) else n[i.val - 128]?.getD (.u 0))

/-- v128 to v247. -/
def narrowPart (v : Vector VReg 248) : Vector VReg 120 := Vector.ofFn (fun i : Fin 120 => v[128 + i.val]?.getD (.u 0))

/-- The wick and its access slice exchange the registers each has of its own. -/
def Wick.swapSlice (w : Wick) : Wick :=
  match w.access with
  | none => w
  | some a =>
    { w with
      frags := a.frags
      regs := { w.regs with s := a.s, p := a.p, tx := a.tx, v := withNarrow w.regs.v a.v }
      access := some { a with frags := w.frags, s := w.regs.s, p := w.regs.p, tx := w.regs.tx, v := narrowPart w.regs.v }
      inAccess := !w.inAccess }

/-- The access slice may issue: single-lane mode stops it, and so does parking (17 R357). -/
def Wick.accessReady (w : Wick) : Bool :=
  w.info.stage == .resident && !w.trap.sl && !w.trap.parked && !w.info.restoring && (match w.access with
    | some a => a.live
    | none => false)

/-- Why fragments of a wick cannot be attempted: a fetch that fails, a logged instruction, or a sleep or wait for interrupts. -/
def Wick.idleRows (w : Wick) : List Nat :=
  if w.trap.sl then []
  else (w.liveFrags.filter (fun f => !w.canIssue f)).map (fun f =>
    if w.books.fetchFault.any (fun (g, _) => g == f) then 10 else if (w.frag f).held then 12 else 14)

/-- Row 3 of a wick whose access slice waits at an LDQ into a full queue (07 R181, 21 R417). -/
def queueRows (s : State) (w : Wick) : List Nat :=
  if !w.accessReady then []
  else
    let s0 := s.putWick w.swapSlice
    match issueOne s0 w.info.uid 0 true with
    | .next s1 => if waitRow s0 s1 w.info.uid 0 = some 3 then [3] else []
    | _ => []

/-- The rows that hold for a wick beside those of the fragments that may issue. -/
def otherRows (s : State) (w : Wick) : List Nat := w.idleRows ++ queueRows s w

/-- The least of some rows, counted. -/
def Wick.countRow (w : Wick) (rows : List Nat) : Wick :=
  match rows.min? with
  | some n => w.stalled n
  | none => w

/-- A fragment put in its place among others, least recently issued first. Of two that issued last in the same cycle, as siblings that have
not issued yet, either comes first, unpredictably (01 R25, 22 R422). -/
def Wick.placeFrag (w : Wick) (at_ f : Nat) : List Nat → List Nat
  | [] => [f]
  | g :: gs =>
    if (w.frag f).lru < (w.frag g).lru ∨ ((w.frag f).lru = (w.frag g).lru ∧ Config.fragFirst at_ f g = true) then f :: g :: gs
    else g :: w.placeFrag at_ f gs

/-- The fragments that may issue, least recently issued first (01 R20); the one whose pair is open goes alone. -/
def Wick.fragOrder (w : Wick) (at_ : Nat) : List Nat :=
  if w.trap.sl then [w.trap.tfrag]
  else match w.books.pair with
    | some f => [f]
    | none => (w.liveFrags.filter w.canIssue).foldr (w.placeFrag at_) []

/-- Fragments tried in turn until one does not wait; the answer says whether one issued. -/
def tryFrags (uid : Nat) : List Nat → State → List Nat → Host.Outcome (State × Bool) Fault Refusal
  | [], s, rows => .next (s.modWick uid (fun w => w.countRow rows), false)
  | f :: fs, s, rows =>
    match tryFrag s uid f with
    | .fault x => .fault x
    | .refused x => .refused x
    | .next s1 =>
      match waitRow s s1 uid f with
      | some n => tryFrags uid fs (restoreStall s s1 uid) (n :: rows)
      | none => .next (s1, true)

/-- Nothing of a wick is fetched until an entry, a restore or a debug stop that is due has been made: row 10 at most (21 R417). -/
def Wick.shut (w : Wick) : Bool := w.info.restoring || w.entryDue || w.books.stop.isSome

/-- The rows that hold for the fragments of a wick, 15 for one that could issue. -/
def candidateRows (s : State) (w : Wick) : List Nat :=
  otherRows s w ++ (w.fragOrder s.free).map (fun f =>
    match tryFrag s w.info.uid f with
    | .next s1 => (waitRow s s1 w.info.uid f).getD 15
    | _ => 15)

/-- The rows that hold for a resident wick in a cycle in which it issues nothing (21 R417). -/
def stallRows (s : State) (w : Wick) : List Nat :=
  if w.trap.parked then [12]
  else if !w.canRun then (if w.shut then 10 :: otherRows s w else otherRows s w)
  else candidateRows s w

/-- A wick's turn; one none of whose fragments can issue because of logged instructions or a fetch that fails is parked (17 R357). -/
def wickTurn (s0 : State) (uid : Nat) : Host.Outcome (State × Bool) Fault Refusal :=
  match s0.findWick uid with
  | none => .next (s0, false)
  | some w0 =>
    let w := if w0.info.stage == .resident then w0.parkCheck else w0
    let s := s0.putWick w
    if w.info.stage != .resident then .next (s, false)
    else if w.canRun then tryFrags uid (w.fragOrder s.free) s (otherRows s w)
    else .next (s.putWick (w.countRow (stallRows s w)), false)

/-! ### A partition's turn (19 R387, 21 R418) -/

/-- The partition has issued in this cycle of its cluster, or the issue limit leaves none in this window of 16. -/
def State.limited (s : State) (port : Nat) : Bool :=
  let now := s.clock (port / 256)
  let limit := ((s.power[port / 256]?.getD {}).limit).toNat
  s.issues.contains (port, now) || decide (((s.issues.filter (fun (p, t) => p == port && decide (now < t + 16))).length) ≥ limit)

/-- An issue is counted, and those that have left the window are forgotten. -/
def State.noteIssue (s : State) (port : Nat) : State :=
  { s with issues := (port, s.clock (port / 256)) :: s.issues.filter (fun (p, t) => decide (s.clock (p / 256) < t + 16)) }

/-- The wick was not ready. -/
def Wick.rested (w : Wick) (clock : Nat) : Wick := { w with info := { w.info with ready := clock, guarded := false } }

/-- The wick has issued. -/
def Wick.issuedAt (w : Wick) (clock : Nat) : Wick :=
  { w with info := { w.info with ready := clock, guarded := false, last := clock } }

/-- A wick that has no turn because another issued, or under the limit: it counts the first row that holds, 15 among them (21 R417), and was
ready when a fragment could have issued. -/
def passOver (s0 : State) (uid : Nat) : State :=
  match s0.findWick uid with
  | none => s0
  | some w0 =>
    let w := w0.parkCheck
    let s := s0.putWick w
    let rows := stallRows s w
    s.putWick (if rows.contains 15 then w.countRow rows else (w.countRow rows).rested (s.clock w.info.cluster))

/-- Wicks take their turns until one issues; those after it, or all under the limit, are passed over. -/
def runWicks (port : Nat) : List Nat → State → Bool → Host.Outcome State Fault Refusal
  | [], s, _ => .next s
  | u :: us, s, true => runWicks port us (passOver s u) true
  | u :: us, s, false =>
    match wickTurn s u with
    | .fault x => .fault x
    | .refused x => .refused x
    | .next (s1, false) => runWicks port us (s1.modWick u (fun w => w.rested (s1.clock (port / 256)))) false
    | .next (s1, true) => runWicks port us ((s1.modWick u (fun w => w.issuedAt (s1.clock (port / 256)))).noteIssue port) true

/-- Wicks in the order of 19 R387; fuel is their number. -/
def orderWicks (s : State) : Nat → List Wick → List Nat
  | 0, _ => []
  | n + 1, ws =>
    match chooseWick s ws with
    | none => []
    | some w => w.info.uid :: orderWicks s n (ws.filter (fun x => x.info.uid != w.info.uid))

/-- The partition of a core a wick's slot is in. -/
def Wick.port (w : Wick) : Nat := 4 * w.info.coreId + w.info.part

/-- A resident wick counts a cycle in which it has no turn, by the first row that holds then (21 R417, log 54). -/
def bystandWick (s : State) (w : Wick) : Wick := if w.info.stage == .resident then w.countRow (stallRows s w) else w

/-- Every wick but those that act in this cycle counts it. -/
def State.bystand (s : State) (acts : Wick → Bool) : State := { s with wicks := s.wicks.map (fun w => if acts w then w else bystandWick s w) }

/-- A cycle in which no wick acts. -/
def State.idleCycle (s : State) : State := s.bystand (fun _ => false)

/-- A partition of a core issues from one wick. -/
def portTurn (s : State) (port : Nat) : Host.Outcome State Fault Refusal :=
  let s := s.bystand (fun w => w.port == port)
  let ws := (s.inPart (port / 4) (port % 4)).filter (fun w => w.info.stage == .resident)
  runWicks port (orderWicks s ws.length ws) s (s.limited port)

/-- One wick's turn on its own. -/
def issueTurn (s : State) (uid : Nat) : Host.Outcome State Fault Refusal :=
  let s := s.bystand (fun w => w.info.uid == uid)
  match s.findWick uid with
  | none => .next s
  | some w => runWicks w.port [uid] s (s.limited w.port)

/-! ### The turn of the access slice (19 R389) -/

/-- The cycle of its cluster in which the access slice last issued. -/
def Wick.accessLast (w : Wick) : Nat := (w.access.map Access.last).getD 0

/-- An instruction of a wick's access slice. What it waits for is counted with the wick's own cycle, where it counts at all (`queueRows`). The
answer says whether it issued. -/
def accessIssue (s : State) (w : Wick) : Host.Outcome (State × Bool) Fault Refusal :=
  let uid := w.info.uid
  let s0 := s.putWick w.swapSlice
  match issueOne s0 uid 0 true with
  | .next s1 =>
    let s2 := restoreStall s (s1.modWick uid (fun x => if x.inAccess then x.swapSlice else x)) uid
    let clock := s.clock w.info.cluster
    if (waitRow s0 s1 uid 0).isSome then .next (s2, false)
    else .next (s2.modWick uid (fun x => { x with access := x.access.map (fun a => { a with last := clock }) }), true)
  | .fault x => .fault x
  | .refused x => .refused x

/-- What an attempt of a wick's access slice leaves; one that uses poisoned data halts the wick (20 R402). -/
def accessStep (s : State) (w : Wick) : Host.Outcome State Fault Refusal :=
  s.guarded (Wick.asker s w) (fun s n => consume s (.wick w.info.uid) n) (fun s =>
    match accessIssue s w with
    | .next (s1, _) => .next s1
    | .fault x => .fault x
    | .refused x => .refused x)

/-- The sliced wicks of a core tried in turn until one's access slice issues. -/
def accessTry : List Wick → State → Host.Outcome State Fault Refusal
  | [], s => .next s
  | w :: ws, s =>
    match accessIssue s w, accessStep s w with
    | .next (_, true), r => r
    | .next (_, false), .next s1 => accessTry ws s1
    | _, r => r

/-- The affine engine of a core issues one instruction in a cycle, from its sliced wicks round-robin: the one that issued longest ago comes
first. -/
def accessTurn (s : State) (core : Nat) : Host.Outcome State Fault Refusal :=
  let ws := s.wicks.filter (fun w => w.info.coreId == core)
  if ws.any (fun w => w.access.isSome && w.accessLast == s.clock (core / 64) && w.accessLast != 0) then .next s
  else
    accessTry (sortBy (fun w => (w.accessLast * 4 + w.info.part) * 16 + w.info.slot) (ws.filter Wick.accessReady)) s

/-! ### A ray's turn (14 R313) -/

def microTurn (s : State) (id : Nat) : Host.Outcome State Fault Refusal :=
  let s1 : State := { s with cur := .ray id }
  if (s.findRay id).isNone then .next s
  else
    match s.microWord id with
    | none => microNone s1
    | some word =>
      match decodeMicro word with
      | .ok i => exec i s1
      | .error _ => microNone s1

/-! ### Whose step an event is -/

/-- Who makes a step between instructions: a copy channel, a quantisation engine, a core's matrix engine or tile flush, a band's MMAC, a
texture fetch, a ray, a table store for a packet, the Candelabrum or the Ocris for a wick, or an agent outside. -/
inductive Maker where
  | chan (c : Nat) | quant (cluster : Nat) | matrix (core : Nat) | flush (core : Nat) | band (b : Nat) | texel (rec : Nat) | ray (id : Nat)
  | store (pkt : Nat) | own (by_ : Asker) | other
  deriving DecidableEq, Repr

/-- The unit of a core of the device. -/
def coreUnit (core : Nat) : Unit_ := ⟨core / 64, some (core % 64)⟩

/-- The agent that moves. -/
def Maker.actor (s : State) : Maker → Actor
  | .chan c => if c < 2048 then .unit (coreUnit (c / 4)) else .nobody
  | .quant c => .unit ⟨c, none⟩
  | .matrix k | .flush k => .unit (coreUnit k)
  | .texel u => match s.conts.find? (fun c => c.uid == u) with
    | some c => .unit ⟨c.cluster, some c.core⟩
    | none => .nobody
  | .ray r => .ray r
  | _ => .nobody

/-- A tile flush that consumes poison goes no further. -/
def killFlush (s : State) (core : Nat) : State :=
  match s.flushes.find? (fun f => f.core == core && !f.rest) with
  | none => s
  | some f => { s with flushes := s.flushes.filter (fun x => !(x.core == core && x.seq == f.seq)) }.haltPacket f.pkt

/-- The partition of a packet. -/
def State.pktPart (s : State) (pkt : Nat) : Nat := ((s.findRun pkt).map Packet.part).getD 0

/-- The Candelabrum of a packet's die, and that of a partition, whose home die is that of its lowest cluster (20 R400). -/
def State.pktAsker (s : State) (pkt : Nat) : Asker := ⟨((s.findRun pkt).map Packet.die).getD 0 % 4, 2 ^ s.pktPart pkt⟩
def State.partAsker (s : State) (part : Nat) : Asker := ⟨(s.partClusters part).head?.getD 0 / 2, 2 ^ part⟩

/-- The Candelabrum of a die for the partitions whose queues it serves. -/
def State.dieAsker (s : State) (die : Nat) : Asker :=
  ⟨die % 4, packElems 1 ((List.range 8).map (fun p => bN ((s.dies[die]?.getD {}).queues.toList.any (fun q => q.en && q.fld 2 3 == p))))⟩

/-- Who makes the accesses of a step (20 R405). -/
def Maker.asker (s : State) : Maker → Asker
  | .chan c =>
    let pkt := ((s.headCopy c).map Copy.pkt).getD 0
    if c < 2048 then askerAt (c / 256) (c / 4 % 64) (s.pktPart pkt) else s.pktAsker pkt
  | .quant c => askerAt c 0 (s.pktPart (((s.headQuant c).map Quant.pkt).getD 0))
  | .matrix k => askerAt (k / 64) (k % 64) (s.pktPart ((((s.matrix k).head).map MInstr.pkt).getD 0))
  | .flush k => askerAt (k / 64) (k % 64) (s.pktPart (((s.flushes.find? (fun f => f.core == k)).map Flush.pkt).getD 0))
  | .band b => match s.findBand b with
    | some x => let k := x.cores.head?.getD 0; askerAt (k / 64) (k % 64) (s.pktPart x.pkt)
    | none => ⟨0, 0⟩
  | .texel u => match s.conts.find? (fun c => c.uid == u) with
    | some c => askerAt c.cluster c.core (s.pktPart c.pkt)
    | none => ⟨0, 0⟩
  | .ray r => match s.findRay r with
    | some x => askerAt x.cluster x.core (s.pktPart x.pkt)
    | none => ⟨0, 0⟩
  | .store p => s.pktAsker p
  | .own a => a
  | .other => ⟨0, 0⟩

/-- Who stores the results of the rays a verdict answers. -/
def State.verdictAsker (s : State) (uid : Nat) : Asker :=
  (Maker.ray (((s.verdicts.find? (fun v => v.uid == uid)).bind (fun v => v.rays.head?)).getD 0)).asker s

/-- What poison stops when a step uses it (20 R402); none for the steps of the Candelabrum and of the links. -/
def Maker.take : Maker → Option (State → Nat → State)
  | .chan c => some (fun s n => consume s (.channel c) n)
  | .quant c => some (fun s n => consume s (.quant c) n)
  | .matrix k => some (fun s n => consume s (.matrix k) n)
  | .flush k => some (fun s _ => killFlush s k)
  | .band b => some (fun s n => match (s.findBand b).bind (fun x => x.cores.head?) with
    | some k => consume s (.matrix k) n
    | none => s)
  | .texel r => some (fun s _ => killTexel s r)
  | .ray r => some (fun s n => consume s (.lantern r) n)
  | .store p => some (fun s n => consume s (.tableStore p) n)
  | .own _ | .other => none

/-- The maker of an event. -/
def makerOf (s : State) (i : Instr) : Maker :=
  match i with
  | .evCopyElementDelivery c | .evCopyCompletion c | .evCopyFaultStop c => .chan c
  | .evQuantCommandComplete c | .evQuantFaultStop c => .quant c
  | .evMatrixInstructionComplete k | .evStreamingKBlock k => .matrix k
  | .evMmacRendezvous b => .band b
  | .evTilefCompletion k => .flush k
  | .evTexelFetchComplete r | .evTexelFetchFaultStop r => .texel r
  | .evRaySuspension r | .evVerdictTimeout r | .evRunaway r => .ray r
  | .evApplicationPhase p | .evCompactionMove p => .store p
  | .evPreemptionEntry u | .evResumeEntry u | .evDebugStop u | .evSleepExpiry u _ | .evWickKillCommand u => .own (s.wickAsker u)
  | .evPacketStart p | .evPacketCompletion p | .evLaunch p | .evQueryBlockDispatch p | .evTilePhaseStart p | .evTileCompletion p _
  | .evWorldsync p | .evCopy p | .evSnapshot p | .evSnapshotStart p | .evCutTimeout p | .evSnapshotCopyComplete p | .evSignal p
  | .evUiraise p | .evWait p | .evWaitSatisfied p | .evCancel p => .own (s.pktAsker p)
  | .evVerdictArrival v => .own (s.verdictAsker v)
  | .evContinuationWickStart r | .evChandelierGatherTimer r => .own ((Maker.texel r).asker s)
  | .evNodeWickStart g _ | .evGatherTimer g _ => .own (s.pktAsker (((s.findGraph g).map Graph.pkt).getD 0))
  | .evDrainStageComplete p _ => .own (s.partAsker (((s.drains.find? (fun d => d.pkt == p)).map Drain.part).getD 0))
  | .evParseRound d => .own (s.dieAsker d)
  | .evPlacement p | .evServiceReply p _ _ => .own (s.partAsker p)
  | .evPreemptionWatchdog g | .evRestoreEntry g => .own (s.partAsker (((s.findGroup g).map Group.part).getD 0))
  | .evFaultRecord c | .evUserInterruptDelivery c => .own (s.partAsker (s.ctxPart c))
  | _ => .other

/-- A step of an engine, of the Candelabrum, or of a wick between instructions: a row no word encodes. -/
abbrev Move := State → Host.Outcome State Fault Refusal

/-- A step between instructions, in a cycle in which no wick acts. -/
def made (m : Maker) (f : Move) (s : State) : Host.Outcome State Fault Refusal :=
  let s1 : State := { s.idleCycle with cur := m.actor s }
  match m.take, m with
  | some take, _ => s1.guarded (m.asker s) take f
  | none, .own by_ => s1.besides by_ f
  | none, _ => f s1

/-! ### Turns -/

/-- The rows that no word encodes. -/
def isEvent (i : Instr) : Bool := i.opc.isNone && i.mop.isNone

/-- A turn is taken; an instruction is never an indivisible step of its own. -/
def runTurn (s : State) : Turn → Host.Outcome State Fault Refusal
  | .port p => portTurn s p
  | .issue uid => issueTurn s uid
  | .access core => accessTurn s.idleCycle core
  | .micro id => s.idleCycle.guarded ((Maker.ray id).asker s) (fun s n => consume s (.lantern id) n) (fun s => microTurn s id)
  | .event i => if isEvent i then made (makerOf s i) (exec i) s else .next s.idleCycle

/-! ### What the device may do of itself (log 3) -/

/-- The steps of a wick and of its fragments. -/
def wickChoices (s : State) (w : Wick) : List Move :=
  let u := w.info.uid
  ([execEvPreemptionEntry u, execEvResumeEntry u, execEvDebugStop u, execEvAgeGuard u]
    ++ ((List.range 8).filter (fun f => (w.frag f).sleep.isSome)).map (fun f => execEvSleepExpiry u f)).map (made (.own (Wick.asker s w)))

/-- The steps of a packet. -/
def packetChoices (s : State) (p : Packet) : List Move :=
  let i := p.id
  let common : List Move := [execEvPacketStart i, execEvPacketCompletion i]
  let own : List Move := match pType p.body with
    | 0 => [execEvNopPacket i]
    | 1 => [execEvLaunch i, execEvQueryBlockDispatch i, execEvTilePhaseStart i]
        ++ ((p.launch.map (fun l => l.tiles.map (fun t => execEvTileCompletion i t.tile))).getD [])
    | 2 => [execEvWorldsync i]
    | 3 => [execEvCopy i]
    | 4 => [execEvSnapshot i, execEvSnapshotStart i, execEvCutTimeout i, execEvSnapshotCopyComplete i]
    | 5 => [execEvSignal i]
    | 6 => [execEvUiraise i]
    | 7 => [execEvWait i, execEvWaitSatisfied i]
    | 8 => [execEvCancel i]
    | 9 => [execEvPreempt i]
    | 10 => [execEvResume i]
    | _ => []
  (common ++ own).map (made (.own (s.pktAsker i))) ++ (if pType p.body = 2 then [execEvApplicationPhase i, execEvCompactionMove i].map (made (.store i)) else [])

/-- The steps of the engines' work. -/
def engineChoices (s : State) : List Move :=
  ((s.copies.map Copy.chan).eraseDups).flatMap (fun c =>
      made .other (execEvCopyContinue c) :: [execEvCopyElementDelivery c, execEvCopyCompletion c, execEvCopyFaultStop c].map (made (.chan c)))
    ++ ((s.quants.map Quant.cluster).eraseDups).flatMap (fun c =>
      made .other (execEvCopyContinue (4096 + c)) :: [execEvQuantCommandComplete c, execEvQuantFaultStop c].map (made (.quant c)))
    ++ (s.matrices.map Matrix.core).flatMap (fun c => [execEvMatrixInstructionComplete c, execEvStreamingKBlock c].map (made (.matrix c)))
    ++ (s.bands.filter (fun b => b.mmacs.toList.any (fun n => n != 0))).map (fun b => made (.band b.uid) (execEvMmacRendezvous b.uid))
    ++ ((s.flushes.map Flush.core).eraseDups).flatMap (fun c => [made (.flush c) (execEvTilefCompletion c), made .other (execEvCopyContinue (8192 + c))])
    ++ s.texels.flatMap (fun t =>
      made .other (execEvCopyContinue (16384 + t.record)) :: [execEvTexelFetchComplete t.record, execEvTexelFetchFaultStop t.record].map (made (.texel t.record)))
    ++ s.rays.flatMap (fun r => [execEvRaySuspension r.id, execEvVerdictTimeout r.id, execEvRunaway r.id].map (made (.ray r.id)))
    ++ s.verdicts.map (fun v => made (.own (s.verdictAsker v.uid)) (execEvVerdictArrival v.uid))
    ++ s.conts.flatMap (fun r =>
      [execEvContinuationWickStart r.uid, execEvChandelierGatherTimer r.uid].map (made (.own ((Maker.texel r.uid).asker s))))
    ++ s.graphs.flatMap (fun g => (List.range g.count).flatMap (fun n =>
      [execEvNodeWickStart g.id n, execEvGatherTimer g.id n].map (made (.own (s.pktAsker g.pkt)))))
    ++ s.drains.map (fun d => made (.own (s.partAsker d.part)) (execEvDrainStageComplete d.pkt true))

/-- The steps of the Candelabrum and of the contexts. -/
def controlChoices (s : State) : List Move :=
  (List.range 4).flatMap (fun d => [execEvParseRound d, execEvPilotTick d, execEvRungCompletion d].map (made (.own (s.dieAsker d))))
    ++ (List.range 8).map (fun p => made (.own (s.partAsker p)) (execEvPlacement p))
    ++ s.groups.flatMap (fun g => [execEvPreemptionWatchdog g.id, execEvRestoreEntry g.id].map (made (.own (s.partAsker g.part))))
    ++ s.ctxs.flatMap (fun c => [execEvFaultRecord c.id, execEvUserInterruptDelivery c.id].map (made (.own (s.partAsker (s.ctxPart c.id)))))

/-- What the device may do of itself: an issue of a partition, of a core's access slices or of a ray, or one of those steps. -/
def choices (s : State) : List Move :=
  ((((s.wicks.map Wick.port).eraseDups).map .port ++ (((s.wicks.filter Wick.accessReady).map (fun w => w.info.coreId)).eraseDups).map .access
      ++ s.rays.map (fun r => .micro r.id) : List Turn).map (fun t s => runTurn s t))
    ++ s.wicks.flatMap (wickChoices s) ++ s.packets.flatMap (packetChoices s) ++ engineChoices s ++ controlChoices s

/-- A cycle in which nothing is asked for: one of those moves, unpredictably. -/
def ownTurn (s : State) : Host.Outcome State Fault Refusal :=
  match s.choose (choices s) with
  | (some m, s1) => m s1
  | (none, s1) => .next s1.idleCycle

/-- The worlds that the packets present name (11 R230, R245). -/
def State.named (s : State) : List (Nat × Nat) :=
  (s.packets ++ s.late).flatMap (fun p =>
    ((p.launch.map (fun l => (p.ctx, l.fld 640 64))).toList ++ (p.sync.map (fun y => (p.ctx, y.world))).toList).filter (fun (_, a) => a != 0))

/-- The times in which worlds are named, brought up to date: those of worlds no longer named end, and others begin. -/
def State.worldsNow (s : State) : List Naming :=
  let names := s.named.eraseDups
  let old := s.older.worlds.map (fun n => if n.until_.isNone && !names.contains (n.ctx, n.addr) then { n with until_ := some s.now } else n)
  old ++ (names.filter (fun (c, a) => !old.any (fun n => n.ctx == c && n.addr == a && n.until_.isNone))).map (fun (c, a) => ⟨c, a, s.now, none⟩)

/-- The bytes overwritten since the last step join those kept, with the unit that moved. -/
def State.olderNow (s : State) : Older :=
  { seen := s.mem
    past := s.older.past ++ ((Memory.changed (s.older.seen.length + s.mem.length + 1) s.older.seen s.mem).filter (fun (k, _) => decide (k < keyAb 0 0))).map
      (fun (k, b) => ⟨k, b, s.now, s.unit⟩)
    worlds := s.worldsNow
    stored := s.older.stored }

/-- A cycle passes: each cluster's clock by its own frequency (21 R419). -/
def State.tick (s : State) (rest : List Turn) : State :=
  { s with
    agenda := rest, now := s.now + 1, free := s.free + 1, older := s.olderNow
    cycles := Vector.ofFn (fun i : Fin 8 => s.cycles[i.val]?.getD 0 + ((s.power[i.val]?.getD {}).mhz).toNat) }

/-- One step: the next turn asked for, else one of the device's own. -/
def turn (s : State) : Host.Outcome State Fault Refusal :=
  match s.agenda with
  | t :: rest => runTurn (s.tick rest) t
  | [] => ownTurn (s.tick [])

/-! ### A program placed from outside (log 3) -/

/-- A line with one instruction in slot 0, a legal target, its parity right (05 R119). -/
def oneSlotLine (bits : Nat) : Nat :=
  let word := 1 + at_ (popN 96 bits % 2) 9
  bits + at_ (word + at_ (popN 14 word % 2) 14) 480

/-- Page tables at 1 MiB that map the first 512 KiB of a context to device DRAM at 2 MiB, every access permitted; and the line there. -/
def placeImage (m : Memory) (line : Nat) : Memory :=
  let m1 := m.write (keyLocal 0x100000) 8 0x110001
  let m2 := m1.write (keyLocal 0x110000) 8 0x120001
  let m3 := m2.write (keyLocal 0x120000) 8 0x120201
  let m4 := m3.write (keyLocal 0x120200) 8 (0x20301F + 2 ^ 63)
  m4.write (keyLocal 0x200000) 64 line

/-- Context 0 of partition 0, with cluster 0 and the first GiB of device DRAM. -/
def placeCtx (s : State) : State :=
  { s with
    cfg := { s.cfg with partcfg := s.cfg.partcfg.setIfInBounds 0 0x10001 }
    ctxs := { id := 0, part := 0, pasid := 0, regs := (Vector.replicate 18 (0 : Word)).setIfInBounds 0x11 0x100000 } :: s.ctxs
    tlb := s.tlb.filter (fun t => t.ctx != 0)
    icinvs := ⟨5, ⟨0, none⟩, none, s.now⟩ :: s.icinvs }

/-- A wick of 32 lanes at address 0 of context 0, with NG 128; in single-lane mode when sl. -/
def placedWick (uid : Nat) (sl : Bool) : Wick :=
  { info := { uid := uid, ng := 128, group := uid }
    live := fullMask
    regs := { p := (Vector.replicate 15 0).setIfInBounds 0 fullMask, gens := Vector.ofFn (fun i : Fin 33 => seedGen 0 i.val) }
    frags := (Vector.replicate 8 {}).setIfInBounds 0 { mask := fullMask, state := .running }
    trap := { sl := sl } }

/-- An instruction of a wick placed where the next step issues it: a privileged one in single-lane mode. -/
def placeInstr (s : State) (bits : BitVec 96) : State :=
  let uid := s.nextUid
  let o := (opcOf bits).toNat
  let s1 := placeCtx s
  { s1 with
    mem := placeImage s1.mem (oneSlotLine bits.toNat)
    older := { s1.older with seen := placeImage s1.mem (oneSlotLine bits.toNat) }
    wicks := placedWick uid (decide (0x25 ≤ o) && decide (o < 0x30)) :: s1.wicks
    nextUid := uid + 1
    agenda := .issue uid :: s1.agenda }

/-- A microinstruction placed as the program of a ray that executes it in the next step. -/
def placeMicro (s : State) (word : BitVec 32) : State :=
  let id := s.nextUid
  let s1 := placeCtx s
  let r : Ray := { id := id, ctx := 0, cluster := 0, core := 0, pkt := 0, rank := 0, uid := 0, cont := 0, addr := 0x4000 }
  { s1 with
    mem := placeImage s1.mem 0
    older := { s1.older with seen := placeImage s1.mem 0 }
    programs := { ctx := 0, slot := 0, layout := 0, code := [word.toNat] } :: s1.programs
    rays := r :: s1.rays
    nextUid := id + 1
    agenda := .micro id :: s1.agenda }

end Sys2Proof.Machine
end

