-- ==== Sys2Proof/Machine/Step.lean ====
section
/-! DEFINITION. One step of the device, and the place where the next step fetches. -/

namespace Sys2Proof.Machine

open Sys2Proof

/-- One step: the next turn. -/
def step (s : State) : Host.Outcome State Fault Refusal := turn s

/-- The state with an instruction where the next step fetches it: 32 bits are a microinstruction of the Lantern, more are an
instruction of a wick. It stands for the loading of a program from outside (log 3). -/
def State.withFetchWord (s : State) (nbits w : Nat) : State :=
  if nbits ≤ 32 then placeMicro s (BitVec.ofNat 32 w) else placeInstr s (BitVec.ofNat 96 w)

end Sys2Proof.Machine
end

