-- ==== Sys2Proof/Safety.lean ====
section
/-! DEFINITION. The terms the statements use: when an instruction goes to its own meaning, what a step of a wick's registers leaves,
what a frame is, and the invariants. -/

namespace Sys2Proof.Machine

open Sys2Proof

/-! ### When an instruction executes (spec/05_encoding_and_assembly.md R126, R136; spec/02_registers_and_operands.md R49) -/

/-- Fragment f of the wick w is the one that issues i, and nothing of 05 R136 steps 4 to 6, of the guard or of a wait stands before
the instruction's own description: the encoding is legal and is one the slice may issue, a privileged form is in single-lane mode and a
form barred there is not, the scalar guard is true, no service call holds it back, every register named exists and is not reserved, no
logged instruction holds it back, and every operand queue it pops has an entry without a fault. -/
structure Ready (i : Instr) (s : State) (w : Wick) (f : Nat) : Prop where
  cur : s.cur = .wick w.info.uid f
  found : s.findWick w.info.uid = some w
  live : w.info.stage = .resident
  legal : i.legal = true
  slice : w.inAccess = true → i.inAccessSlice = true
  privileged : i.prv = true → w.trap.sl = true
  barred : w.trap.sl = true → i.notInSl = false
  guard : w.guardedOff f i = false
  service : w.waitsReply (w.actor f) i = false
  result : i.highResult = false
  regs : (match i with
    | .savev _ _ | .loadv _ _ => none
    | _ => regCheck w i) = none
  log : w.waitsOnLog (w.actor f) i = false
  ports : w.portCheck i = none

/-- The wick with the queues i reads popped, its PC moved and its fragment marked as the last to issue (01 R20, 02 R60, 05 R120). -/
def Wick.moved (w : Wick) (i : Instr) (cx : Cx) (now : Nat) (pc : Word) : Wick :=
  if cx.sl then (w.popPorts i).setPc cx pc else ((w.popPorts i).setPc cx pc).modFrag cx.f (fun g => { g with lru := now })

/-- The state after the instruction i of the wick w that leaves w' as the wick and touches nothing else: the PC at the successor. -/
def State.done (s : State) (i : Instr) (w' : Wick) (cx : Cx) : State := s.putWick (w'.moved i cx s.now (pcNext cx.pc))

/-- The state after an instruction whose own effect is s', its wick included, and that goes on at pc. -/
def State.went (s' : State) (i : Instr) (cx : Cx) (pc : Word) : State := s'.modWick cx.uid (fun w => w.moved i cx s'.now pc)

/-- The same after a taken transfer to a checked target: the line that the check fetched is held for the fragment (05 R125, log 114). -/
def State.jumped (s' : State) (i : Instr) (cx : Cx) (pc : Word) : State := (s'.holdTarget cx.uid cx.f pc).went i cx pc

/-- The same with the PC at the successor. -/
def State.stepped (s' : State) (i : Instr) (cx : Cx) : State := s'.went i cx (pcNext cx.pc)

/-- The lanes of an access resolved in ascending order: each with its pieces and the state it is then performed in, and the state after
all of them; none where some byte of some lane does not translate (17 R355). -/
def State.reach (s : State) (w : Wick) (cx : Cx) (o : OpM) (k : AccKind) (n : Nat) :
    List (Nat × Nat) → Option (List (Nat × List (Nat × Nat) × State) × State)
  | [] => some ([], s)
  | (i, ea) :: rest =>
    match resolveLane s w cx o k n i ea with
    | ([], ps, s') => (s'.reach w cx o k n rest).map (fun (l, s2) => ((i, ps, s') :: l, s2))
    | _ => none

/-- The lanes of an atomic performed in ascending order, each its own read and write (04 R102): the old values with their pieces, and
the state after all of them; none where some byte of some lane does not translate. -/
def State.rmw (s : State) (w : Wick) (cx : Cx) (o : OpM) (k : AccKind) (n : Nat) (new : Nat → Nat → Nat) :
    List (Nat × Nat) → Option (List (Nat × Nat × List (Nat × Nat)) × State)
  | [] => some ([], s)
  | (i, ea) :: rest =>
    match resolveLane s w cx o k n i ea with
    | ([], ps, s') =>
      let old := w.reads o n i ea s'.mem ps s'
      ((s'.storePieces ps (leBytes n (new i old))).rmw w cx o k n new rest).map
        (fun (l, s2) => ((i, old, ps) :: l, s2))
    | _ => none

/-- An access of these lanes passes the checks of 04 R88 and waits for no logged byte (17 R356). -/
def Passes (s : State) (w : Wick) (cx : Cx) (o : OpM) (atomic : Bool) (ls : List (Nat × Nat)) : Prop :=
  checkLanes s w o atomic o.sz.bytes ls = none
    ∧ (cx.sl = true ∨ w.touchesLog (ls.flatMap (fun (i, ea) => laneRanges w o o.sz.bytes i ea)) = false)

/-- A record of len bytes read as ordinary loads of the wick: the state after the translations and the record (17 R355), its bytes in a
target of the wick's own pass free values (14 R297). -/
def State.record (s : State) (w : Wick) (cx : Cx) (va len : Nat) : Option (State × Nat) :=
  if va + len > 2 ^ 57 then none
  else match resolveRanges s w cx ⟨0, 0, 0⟩ none (pages va len) with
    | ([], ps, s') => some (s', s'.wildVal w.info.pkt va len (leVal (readPieces s'.mem ps)))
    | _ => none

/-- The bytes from va on lie in one page that context c translates by the leaf k, cached or not, for reads and writes of the Ocris's own
and with A and D set (17 R351, R352). -/
structure Mapped (s : State) (c va len : Nat) (k : Walk) : Prop where
  page : va % 2 ^ 19 + len ≤ 2 ^ 19
  walk : s.walkOf c va = .ok k
  cached : ∀ t ∈ tlbFor s c va, (⟨t.lvl, t.entry, t.ent⟩ : Walk) = k
  reads : s.leafFault c true ⟨0, 0, 0⟩ k = none
  writes : s.leafFault c true ⟨1, 0, 0⟩ k = none
  used : k.entry &&& 0x3000 = 0x3000

/-- The context's interrupt block translates, as accesses of the device (log 41), its reserved fields are zero (13 R270, 00 R12), and it
lies in no target of this packet's pass (14 R297). -/
structure BlockReady (s : State) (pkt c : Nat) (k : Walk) : Prop where
  mapped : Mapped s c (s.uiBlock c) 1024 k
  good : let b := s.mem.read (leafKey (s.pasidOf c) k (s.uiBlock c)) 1024
    fld b 376 7 = 0 ∧ fld b 513 1535 = 0 ∧ fld b 6144 2048 = 0
  outside : ∀ a, s.uiBlock c ≤ a → a < s.uiBlock c + 1024 → s.inTarget pkt a = false

/-- A 64-bit word of the interrupt block (13 R270). -/
def State.blockWord (s : State) (c : Nat) (k : Walk) (off : Nat) : Nat := s.mem.read (leafKey (s.pasidOf c) k (s.uiBlock c + off)) 8

/-- The state with a word of the interrupt block written and these translations cached. -/
def State.putBlock (s : State) (c : Nat) (k : Walk) (off v : Nat) (tlb : List TlbEntry) : State :=
  { s with tlb := tlb }.storePieces [(leafKey (s.pasidOf c) k (s.uiBlock c + off), 8)] (leBytes 8 v)

/-- The key lies in one of the pieces. -/
def inPieces (ps : List (Nat × Nat)) (k : Nat) : Prop := ∃ a n, (a, n) ∈ ps ∧ a ≤ k ∧ k < a + n

/-! ### What an instruction leaves alone -/

/-- No byte of memory, no other wick and nothing of the device differs: only the wick w has become w'. -/
structure OnlyWick (s t : State) (w w' : Wick) : Prop where
  mem : ∀ k, t.mem.get k = s.mem.get k
  self : t.findWick w.info.uid = some w'
  others : ∀ u, u ≠ w.info.uid → t.findWick u = s.findWick u
  rest : t = { s with wicks := t.wicks }

/-- Registers the instruction does not write are as they were: scalars, predicates, vectors, handles and translation registers. -/
structure RegsKept (i : Instr) (w w' : Wick) (f : Nat) : Prop where
  s : ∀ n, n < 64 → RegName.s n ∉ i.writes → w'.rdS f n = w.rdS f n
  q : ∀ n, RegName.q n ∉ i.writes → w'.rdQ f n = w.rdQ f n
  p : ∀ n, RegName.p n ∉ i.writes → w'.rdP n = w.rdP n
  v : ∀ n, RegName.v n ∉ i.writes → w'.rdV n = w.rdV n
  k : ∀ n, RegName.k n ∉ i.writes → w'.rdK n = w.rdK n
  tx : w'.regs.tx = w.regs.tx

/-- The special and trap registers are as they were. -/
structure SpecialsKept (w w' : Wick) : Prop where
  fpstat : w'.regs.fpstat = w.regs.fpstat
  ftz : w'.regs.ftz = w.regs.ftz
  gens : w'.regs.gens = w.regs.gens
  forkser : w'.regs.forkser = w.regs.forkser
  uiPc : w'.regs.uiSavePc = w.regs.uiSavePc
  uiQ : w'.regs.uiSaveQ = w.regs.uiSaveQ
  trap : w'.trap = { w.trap with pc := w'.trap.pc, s := w'.trap.s, v := w'.trap.v }
  info : w'.info = w.info
  live : w'.live = w.live
  books : w'.books = w.books

/-! ### What a vector form does (spec/02_registers_and_operands.md R47, R54; spec/06_control_and_arithmetic.md R155) -/

/-- Only vector registers of the wick differ. -/
def VecOnly (w w' : Wick) : Prop := ∃ v tv, w' = { w with regs := { w.regs with v := v }, trap := { w.trap with v := tv } }

/-- Only vector registers, FPSTAT and the generators differ. -/
def FloatOnly (w w' : Wick) : Prop :=
  ∃ v tv fp g, w' = { w with regs := { w.regs with v := v, fpstat := fp, gens := g }, trap := { w.trap with v := tv } }

/-- A write to a narrow register raises the shape fault (02 R55): the trap is taken on the wick as it was. -/
def ShapeFaults (i : Instr) (s : State) (w : Wick) (f d : Nat) : Prop :=
  narrow d = true ∧ (w.cx f i).act ≠ 0 ∧ exec i s = .next (raiseTrap s w (w.cx f i) { cause := 0x07 })

/-- A form with the destination D under the type t completes, but for the shape fault of a narrow D: every active lane of D holds the
value given, every other live lane what it held, and no other vector register differs. -/
def LaneWise (only : Wick → Wick → Prop) (i : Instr) (o : OpV) (t : Ty) (value : Wick → Cx → Nat → Nat) : Prop :=
  ∀ (s : State) (w : Wick) (f : Nat), Ready i s w f → ShapeFaults i s w f o.d.toNat ∨
    ∃ w', exec i s = .next (s.done i w' (w.cx f i)) ∧ only w w'
      ∧ (∀ l, l < 32 → (w.cx f i).act.getLsbD l = true → rdLane w' t o.d.toNat l = value w (w.cx f i) l % 2 ^ t.ow)
      ∧ (∀ l, l < 32 → w.live.getLsbD l = true → (w.cx f i).act.getLsbD l = false → rdLane w' t o.d.toNat l = rdLane w t o.d.toNat l)
      ∧ (∀ n, n ≠ o.d.toNat → (t.is64 = true → n ≠ o.d.toNat + 1) → w'.rdV n = w.rdV n)

/-- The same of a floating-point form, each lane with its pattern and its flags: FPSTAT gains the flags of the active lanes and keeps
those it had (02 R63). -/
def FloatWise (i : Instr) (o : OpV) (t : Ty) (lane : Wick → Cx → Nat → Rounded) : Prop :=
  ∀ (s : State) (w : Wick) (f : Nat), Ready i s w f → ShapeFaults i s w f o.d.toNat ∨
    ∃ w', exec i s = .next (s.done i w' (w.cx f i)) ∧ FloatOnly w w'
      ∧ w'.regs.fpstat = w.regs.fpstat ||| (lanesOf (w.cx f i).act).foldl (fun acc l => acc ||| (lane w (w.cx f i) l).fl) 0
      ∧ (∀ l, l < 32 → (w.cx f i).act.getLsbD l = true → rdLane w' t o.d.toNat l = (lane w (w.cx f i) l).pat % 2 ^ t.ow)
      ∧ (∀ l, l < 32 → w.live.getLsbD l = true → (w.cx f i).act.getLsbD l = false → rdLane w' t o.d.toNat l = rdLane w t o.d.toNat l)
      ∧ (∀ n, n ≠ o.d.toNat → (t.is64 = true → n ≠ o.d.toNat + 1) → w'.rdV n = w.rdV n)

/-! ### The state of a step -/

/-- The step of the machine answers a next state. -/
def Goes (s : State) : Prop := ∃ t, step s = .next t

/-- The memory of a state has its canonical form (log 1). -/
abbrev State.memWf (s : State) : Prop := s.mem.wf

end Sys2Proof.Machine
end

