-- ==== Sys2Proof/Certificates/Slice0/Obligations.lean ====
section
/-! DEFINITION. The statements about this model: encoding, the step, and what each instruction does and leaves alone. -/

open Sys2Proof Sys2Proof.Machine

/-! ### Encoding -/

/-- Every well-formed instruction that has an encoding of 96 bits is what the decoder reads from it, and every well-formed
microinstruction is what the decoder of the Lantern reads from its 32 bits. -/
def Obligations.DecodeEncode : Prop :=
  (∀ (i : Instr), i.wf → i.opc.isSome = true → ∃ w, encode i = some w ∧ decode w = .ok i)
  ∧ (∀ (i : Instr), i.wf → i.mop.isSome = true → ∃ w, encodeMicro i = some w ∧ decodeMicro w = .ok i)

/-- Bits that decode are the encoding of what they decode to: no bit of an accepted word is without meaning. -/
def Obligations.EncodeDecode : Prop := ∀ (w : BitVec 96) (i : Instr), decode w = .ok i → encode i = some w

/-! ### The scalar forms (06 R152 to R154) -/

/-- Scalar arithmetic on words (06 R152): without modifiers, wrap-around sums, differences and products, bitwise operations, shifts by
the low eight bits of B that push everything out at the width and beyond, and division that gives all ones and the dividend at zero; on
64-bit words, and on bits [31:0] with the result sign-extended for i32 and zero-extended for n32 and b32. -/
def Obligations.ScalarWords : Prop :=
  (∀ (h : Hdr) (o : OpV) (s : State) (w : Wick) (f : Nat), o.nega = false → o.absa = false → o.sat = false → o.ib = false →
       let a := w.rdS (w.actor f) o.a.toNat
       let b := w.rdS (w.actor f) o.b.toNat
       let c := b.toNat % 256
       let gives (i : Instr) (x : Word) : Prop :=
         Ready i s w f → exec i s = .next (s.done i (w.wrS (w.actor f) o.d.toNat x) (w.cx f i))
       ((o.ty = .i64 ∨ o.ty = .n64) →
         gives (.sadd h o) (a + b) ∧ gives (.ssub h o) (a - b) ∧ (h.sub = 0 → gives (.smul h o) (a * b))
           ∧ gives (.sand h o) (a &&& b) ∧ gives (.sor h o) (a ||| b) ∧ gives (.sxor h o) (a ^^^ b) ∧ gives (.sshl h o) (a <<< c))
       ∧ (o.ty = .n64 →
         gives (.sshr h o) (a >>> c) ∧ gives (.smin h o) (if a.ult b then a else b) ∧ gives (.smax h o) (if a.ult b then b else a)
           ∧ (h.sub = 1 → gives (.smul h o) (BitVec.ofNat 64 (a.toNat * b.toNat / 2 ^ 64)))
           ∧ (h.sub = 0 → gives (.sdiv h o) (if b = 0 then BitVec.allOnes 64 else a / b))
           ∧ (h.sub = 1 → gives (.sdiv h o) (if b = 0 then a else a % b)))
       ∧ (o.ty = .i64 →
         gives (.sshr h o) (a.sshiftRight c) ∧ gives (.smin h o) (if a.slt b then a else b) ∧ gives (.smax h o) (if a.slt b then b else a)
           ∧ (h.sub = 1 → gives (.smul h o) (BitVec.ofInt 64 (a.toInt * b.toInt / 2 ^ 64)))
           ∧ (h.sub = 0 → gives (.sdiv h o) (if b = 0 then BitVec.allOnes 64 else a.sdiv b))
           ∧ (h.sub = 1 → gives (.sdiv h o) (if b = 0 then a else a.srem b))))
  ∧ (∀ (h : Hdr) (o : OpV) (s : State) (w : Wick) (f : Nat), o.nega = false → o.absa = false → o.sat = false → o.ib = false →
       let a := (w.rdS (w.actor f) o.a.toNat).setWidth 32
       let b := (w.rdS (w.actor f) o.b.toNat).setWidth 32
       let c := b.toNat % 256
       let gives (i : Instr) (x : BitVec 32) : Prop := Ready i s w f →
         exec i s = .next (s.done i (w.wrS (w.actor f) o.d.toNat (if o.ty = .i32 then x.signExtend 64 else x.setWidth 64)) (w.cx f i))
       ((o.ty = .i32 ∨ o.ty = .n32 ∨ o.ty = .b32) →
         gives (.sadd h o) (a + b) ∧ gives (.ssub h o) (a - b) ∧ (h.sub = 0 → gives (.smul h o) (a * b))
           ∧ gives (.sand h o) (a &&& b) ∧ gives (.sor h o) (a ||| b) ∧ gives (.sxor h o) (a ^^^ b) ∧ gives (.sshl h o) (a <<< c))
       ∧ ((o.ty = .n32 ∨ o.ty = .b32) →
         gives (.sshr h o) (a >>> c) ∧ gives (.smin h o) (if a.ult b then a else b) ∧ gives (.smax h o) (if a.ult b then b else a)
           ∧ (h.sub = 0 → gives (.sdiv h o) (if b = 0 then BitVec.allOnes 32 else a / b))
           ∧ (h.sub = 1 → gives (.sdiv h o) (if b = 0 then a else a % b)))
       ∧ (o.ty = .i32 →
         gives (.sshr h o) (a.sshiftRight c) ∧ gives (.smin h o) (if a.slt b then a else b) ∧ gives (.smax h o) (if a.slt b then b else a)
           ∧ (h.sub = 0 → gives (.sdiv h o) (if b = 0 then BitVec.allOnes 32 else a.sdiv b))
           ∧ (h.sub = 1 → gives (.sdiv h o) (if b = 0 then a else a.srem b))))

/-- Every scalar form completes when it is ready, under every type and modifier, its one destination written and nothing else of the
state touched but FPSTAT and generator 32 by the floating-point forms. -/
def Obligations.ScalarFormsComplete : Prop :=
  ∀ (h : Hdr) (o : OpV) (s : State) (w : Wick) (f : Nat),
    let F := w.actor f
    let a := rdScalar w F o.a.toNat o.ty
    let b := scalarB w F o
    let c := rdScalar w F o.c.toNat o.ty
    let goesTo (i : Instr) (w' : Wick) : Prop := Ready i s w f → exec i s = .next (s.done i w' (w.cx f i))
    let res (x : Nat) : Wick := w.wrS F o.d.toNat (extResult o.ty x)
    goesTo (.sadd h o) (res (mapElems o.ty (fun x y _ => narrowI o.ty.signed o.sat o.ty.ew (modI o.absa o.nega (decI o.ty x) + decI o.ty y)) a b 0))
    ∧ goesTo (.ssub h o) (res (mapElems o.ty (fun x y _ => narrowI o.ty.signed o.sat o.ty.ew (modI o.absa o.nega (decI o.ty x) - decI o.ty y)) a b 0))
    ∧ goesTo (.smul h o) (res (mapElems o.ty (fun x y _ =>
        if h.sub = 1 then wrapI (modI o.absa o.nega (decI o.ty x) * decI o.ty y / (2 ^ o.ty.ew : Nat)) o.ty.ew
        else narrowI o.ty.signed o.sat o.ty.ew (modI o.absa o.nega (decI o.ty x) * decI o.ty y)) a b 0))
    ∧ goesTo (.sdiv h o) (res (mapElems o.ty (fun x y _ => divElem o.ty (h.sub = 1) o.sat x y) a b 0))
    ∧ goesTo (.sand h o) (res (mapElems o.ty (fun x y _ => x &&& y) a b 0))
    ∧ goesTo (.sor h o) (res (mapElems o.ty (fun x y _ => x ||| y) a b 0))
    ∧ goesTo (.sxor h o) (res (mapElems o.ty (fun x y _ => x ^^^ y) a b 0))
    ∧ goesTo (.sshl h o) (res (mapElems o.ty (fun x y _ => shlElem o.ty x y) a b 0))
    ∧ goesTo (.sshr h o) (res (mapElems o.ty (fun x y _ => shrElem o.ty x y) a b 0))
    ∧ goesTo (.smin h o) (res (mapElems o.ty (fun x y _ => minElem o.ty o.absa o.nega false x y) a b 0))
    ∧ goesTo (.smax h o) (res (mapElems o.ty (fun x y _ => minElem o.ty o.absa o.nega true x y) a b 0))
    ∧ goesTo (.smov h o) (res (if o.ib then immB o.ty o.imm else a))
    ∧ goesTo (.sbit h o) (res (mapElems o.ty (fun x _ _ => bitElem o.ty.ew h.sub.toNat x) a 0 0))
    ∧ goesTo (.sbfx h o) (res (mapElems o.ty (fun x _ z =>
        bfxElem o.ty (h.sub = 1) (if o.ib then o.imm.toNat % 2 ^ 16 else (w.rdS F o.b.toNat).toNat % 2 ^ 16) x z) a 0 c))
    ∧ goesTo (.ssel h o) (w.wrS F o.d.toNat (if w.rdQ F o.c.toNat then w.rdS F o.a.toNat
        else if o.ib then BitVec.ofNat 64 (immB o.ty o.imm) else w.rdS F o.b.toNat))
    ∧ goesTo (.shi h o) (w.wrS F o.d.toNat (o.imm ++ (w.rdS F o.d.toNat).extractLsb' 0 32))
    ∧ goesTo (.scmp h o) (w.wrQ F o.d.toNat (icond h.sub.toNat (modI o.absa o.nega (decI o.ty a)) (decI o.ty b)))
    ∧ goesTo (.qop h o) (w.wrQ F o.d.toNat (qopVal w (w.cx f (.qop h o)) h o))
    ∧ goesTo (.sfcmp h o) (let r := fcmp h.sub.toNat (fdec w (fmtOf o.ty) a) (fdec w (fmtOf o.ty) b); (w.raise r.2).wrQ F o.d.toNat r.1)
    ∧ goesTo (.sfop h o) (sfopRun w (w.cx f (.sfop h o)) h o)
    ∧ goesTo (.scvt h o) (scvtRun w (w.cx f (.scvt h o)) o)

/-- q15 reads true and p15 all ones whatever an instruction writes to them (02 R47, R49). Writing a special register: FPSTAT is cleared
by ones, FTZ takes bit 0, the registers that are read-only keep their values (02 R61). -/
def Obligations.RegisterRules : Prop :=
  (∀ (w : Wick) (f g : Nat) (x : Bool) (a y : Mask),
       w.wrQ f 15 x = w ∧ w.wrP 15 a y = w ∧ w.rdQ g 15 = true ∧ w.rdP 15 = 0xFFFFFFFF)
  ∧ (∀ (w : Wick) (n : Nat) (x : Word),
       (setSpecial w 0x01 x).regs.fpstat = w.regs.fpstat &&& ~~~ (x.setWidth 5)
       ∧ (setSpecial w 0x00 x).regs.ftz = x.getLsbD 0
       ∧ (setSpecial w 0x0D x).regs.uiSavePc = x ∧ (setSpecial w 0x0E x).regs.uiSaveQ = x.setWidth 15
       ∧ (n ∉ [0x00, 0x01, 0x0A, 0x0D, 0x0E] → setSpecial w n x = w))

/-! ### The vector forms (06 R155, R160 to R164, with the shapes of 02 R53) -/

/-- The integer vector forms work lane by lane and element by element, whatever the shapes of their sources: the affine rows of 02 R53
give each lane what the lanes would give. -/
def Obligations.VectorIntegerLanes : Prop :=
  ∀ (h : Hdr) (o : OpV),
    let A (w : Wick) := (vsrc w o.ty o.a).lane
    let B (w : Wick) := (vsrcB w o).lane
    let C (w : Wick) := (vsrc w o.ty o.c).lane
    let two (i : Instr) (op : Nat → Nat → Nat) : Prop :=
      LaneWise VecOnly i o o.ty (fun w _ l => mapElems o.ty (fun x y _ => op x y) (A w l) (B w l) 0)
    let three (i : Instr) (op : Nat → Nat → Nat → Nat) : Prop :=
      LaneWise VecOnly i o o.ty (fun w _ l => mapElems o.ty op (A w l) (B w l) (C w l))
    let x' (x : Nat) : Int := modI o.absa o.nega (decI o.ty x)
    let y' (y : Nat) : Int := decI o.ty y
    let n' (z : Int) : Nat := narrowI o.ty.signed o.sat o.ty.ew z
    two (.vadd h o) (fun x y => n' (x' x + y' y)) ∧ two (.vsub h o) (fun x y => n' (x' x - y' y))
    ∧ two (.vmul h o) (fun x y => if h.sub = 1 then wrapI (x' x * y' y / (2 ^ o.ty.ew : Nat)) o.ty.ew else n' (x' x * y' y))
    ∧ three (.vmad h o) (fun x y z => n' (x' x * y' y + y' z))
    ∧ two (.vand h o) (fun x y => x &&& y) ∧ two (.vor h o) (fun x y => x ||| y) ∧ two (.vxor h o) (fun x y => x ^^^ y)
    ∧ two (.vshl h o) (shlElem o.ty) ∧ two (.vshr h o) (shrElem o.ty)
    ∧ two (.vmin h o) (minElem o.ty o.absa o.nega false) ∧ two (.vmax h o) (minElem o.ty o.absa o.nega true)
    ∧ two (.vabsd h o) (fun x y => (y' x - y' y).natAbs % 2 ^ o.ty.ew)
    ∧ three (.vaddmin h o) (fun x y z => wrapI (min (y' (n' (x' x + y' y))) (y' z)) o.ty.ew)
    ∧ three (.vaddmax h o) (fun x y z => wrapI (max (y' (n' (x' x + y' y))) (y' z)) o.ty.ew)
    ∧ three (.vclamp h o) (fun x y z => wrapI (min (max (x' x) (y' y)) (y' z)) o.ty.ew)
    ∧ LaneWise VecOnly (.vbit h o) o o.ty (fun w _ l => mapElems o.ty (fun x _ _ => bitElem o.ty.ew h.sub.toNat x) (A w l) 0 0)
    ∧ LaneWise VecOnly (.vbfx h o) o o.ty (fun w _ l => mapElems o.ty (fun x _ z => bfxElem o.ty (h.sub = 1) (B w l % 2 ^ 16) x z) (A w l) 0 (C w l))
    ∧ LaneWise VecOnly (.vdot h o) o .b32 (fun w _ l =>
        dotLane o ((vsrc w .b32 o.a).lane l) ((vsrcB32 w o).lane l) ((vsrc w .b32 o.c).lane l))
    ∧ LaneWise VecOnly (.vsel h o) o o.ty (fun w _ l => if (w.rdP o.c.toNat).getLsbD l then A w l else B w l)
    ∧ LaneWise VecOnly (.vmov h o) o o.ty (fun w _ l => if o.ib then immB o.ty o.imm else A w l)

/-- The lane forms that move, pack and match whole lanes; a count is an immediate or a uniform register (06 R160, R162, R164), and live
lanes that are not active keep what they held. B of LPERM and LPACK may be the immediate, which log 21 reads from the opcode table.
VCOMP keeps every live lane and leaves U when the live lanes are alike (02 R56). -/
def Obligations.LaneFormsComplete : Prop :=
  (∀ (h : Hdr) (o : OpV),
       let A (w : Wick) := rdLane w o.ty o.a.toNat
       LaneWise VecOnly (.lperm h o) o o.ty (fun w _ l => A w ((vsrcB32 w o).lane l % 32))
       ∧ LaneWise VecOnly (.lmatch h o) o .b32 (fun w cx l =>
           (cx.act &&& maskOf (fun j => (w.rdV o.a.toNat).lane j == (w.rdV o.a.toNat).lane l)).toNat)
       ∧ LaneWise VecOnly (.lpack h o) o o.ty (fun w cx l =>
           match findIdx (· == l) (lanesOf cx.act) with
           | some m => (match (lanesOf (cx.act &&& w.rdP o.c.toNat))[m]? with
             | some g => A w g
             | none => (vsrcB w o).lane l)
           | none => 0)
       ∧ LaneWise VecOnly (.vexp h o) o .b32 (fun w _ l => ((w.rdV o.a.toNat).lane l).toNat)
       ∧ LaneWise VecOnly (.aff h o) o .b32 (fun w cx l =>
           let st : Lane := if o.ib then o.imm else (w.rdS cx.f o.b.toNat).setWidth 32
           ((w.rdS cx.f o.a.toNat).setWidth 32 + BitVec.ofNat 32 l * st : BitVec 32).toNat)
       ∧ (∀ (s : State) (w : Wick) (f n : Nat), laneCount w o = some n →
           let on (i : Instr) (value : Nat → Nat) : Prop := Ready i s w f → ShapeFaults i s w f o.d.toNat ∨
             ∃ w', exec i s = .next (s.done i w' (w.cx f i)) ∧ VecOnly w w'
               ∧ (∀ l, l < 32 → (w.cx f i).act.getLsbD l = true → rdLane w' o.ty o.d.toNat l = value l % 2 ^ o.ty.ow)
               ∧ (∀ l, l < 32 → w.live.getLsbD l = true → (w.cx f i).act.getLsbD l = false →
                   rdLane w' o.ty o.d.toNat l = rdLane w o.ty o.d.toNat l)
               ∧ (∀ m, m ≠ o.d.toNat → (o.ty.is64 = true → m ≠ o.d.toNat + 1) → w'.rdV m = w.rdV m)
           on (.lbcast h o) (fun _ => A w (n % 32))
           ∧ on (.lrot h o) (fun l => A w (if h.sub = 1 then (l + n) % 32 else (l + 32 - n % 32) % 32))
           ∧ on (.lshf h o) (fun l =>
               if h.sub = 1 then (if l + n ≤ 31 then A w (l + n) else rdLane w o.ty o.c.toNat l)
               else (if n ≤ l then A w (l - n) else rdLane w o.ty o.c.toNat l))))
  ∧ (∀ (h : Hdr) (o : OpV) (s : State) (w : Wick) (f : Nat), Ready (.vcomp h o) s w f →
       ShapeFaults (.vcomp h o) s w f o.d.toNat ∨ ∃ w', exec (.vcomp h o) s = .next (s.done (.vcomp h o) w' (w.cx f (.vcomp h o))) ∧ VecOnly w w'
         ∧ (∀ l, l < 32 → w.live.getLsbD l = true → (w.cx f (.vcomp h o)).act.getLsbD l = true →
             (w'.rdV o.d.toNat).lane l = (w.rdV o.a.toNat).lane l)
         ∧ (∀ x, (w.cx f (.vcomp h o)).act = w.live → (∀ l, l < 32 → w.live.getLsbD l = true → (w.rdV o.a.toNat).lane l = x) → w.live ≠ 0 →
             w'.rdV o.d.toNat = .u x))

/-- The forms that write a scalar or a predicate from lanes, and the special registers. -/
def Obligations.LaneToScalarForms : Prop :=
  ∀ (h : Hdr) (o : OpV) (s : State) (w : Wick) (f : Nat),
    let F := w.actor f
    let goesTo (i : Instr) (w' : Cx → Wick) : Prop := Ready i s w f → exec i s = .next (s.done i (w' (w.cx f i)) (w.cx f i))
    goesTo (.lbal h o) (fun cx =>
      let m := cx.act &&& maskOf (fun l => (w.rdV o.a.toNat).lane l != 0)
      w.wrS F o.d.toNat (if h.sub = 1 then BitVec.ofNat 64 (popMask m) else m.setWidth 64))
    ∧ goesTo (.lred h o) (fun cx =>
        let r := redRun w (h.sub.toNat % 8) o (lanesOf cx.act) (redIdentity (h.sub.toNat % 8) o.ty)
        ((w.drewLanes (redDraws (h.sub.toNat % 8) o) cx.act 1).raise r.2.2).wrS F o.d.toNat (extResult o.ty r.2.1))
    ∧ goesTo (.plop h o) (fun cx => w.wrP o.d.toNat cx.act (plopVal h.sub.toNat (w.rdP o.a.toNat) (w.rdP o.b.toNat)))
    ∧ goesTo (.pset h o) (fun cx =>
        if h.sub = 0 then w.wrP o.d.toNat cx.act o.imm
        else if h.sub = 1 then w.wrP o.d.toNat cx.act ((w.rdS F o.a.toNat).setWidth 32)
        else w.wrS F o.d.toNat ((w.rdP o.a.toNat).setWidth 64))
    ∧ goesTo (.vcmp h o) (fun cx => w.wrP o.d.toNat cx.act (maskOf (fun l =>
        icond h.sub.toNat (decI o.ty ((vsrc w o.ty o.a).lane l)) (decI o.ty ((vsrcB w o).lane l)))))
    ∧ goesTo (.fcmp h o) (fun cx => (w.raise ((lanesOf cx.act).foldl (fun acc l => acc ||| (fcmpLane w h o l).2) 0)).wrP o.d.toNat cx.act
        (maskOf (fun l => (fcmpLane w h o l).1)))
    ∧ ((w.cx f (.vshape h o)).act ≠ 0 → goesTo (.vshape h o) (fun _ => w.wrS F o.d.toNat (BitVec.ofNat 64 (w.rdV o.a.toNat).tag)))
    ∧ ((w.cx f (.mfs h o)).act ≠ 0 → goesTo (.mfs h o) (fun cx => w.wrS F o.d.toNat (special s w cx (o.imm.toNat % 256))))
    ∧ ((w.cx f (.mts h o)).act ≠ 0 → goesTo (.mts h o) (fun _ => setSpecial w (o.imm.toNat % 256) (w.rdS F o.a.toNat)))

/-- A write to a narrow register that is not uniform or affine, or that not every live lane makes, raises the shape-fault trap with no
effect (02 R55): shown for LPERM and for a move of a uniform value; written whole, a uniform value and an affine one are kept in their
compact form (02 R52 to R54). That an LPERM of 64-bit pairs whose sources are uniform gives G as well, and so faults here, is log 108, the
model's choice: 02 R57 can be read as giving a U pair there. -/
def Obligations.NarrowRegisters : Prop :=
  ∀ (h : Hdr) (o : OpV) (s : State) (w : Wick) (f : Nat), narrow o.d.toNat = true →
    (Ready (.lperm h o) s w f → (w.cx f (.lperm h o)).act ≠ 0 → ShapeFaults (.lperm h o) s w f o.d.toNat)
    ∧ (Ready (.vmov h o) s w f → (w.cx f (.vmov h o)).act ≠ 0 → (w.cx f (.vmov h o)).act ≠ w.live →
        ShapeFaults (.vmov h o) s w f o.d.toNat)
    ∧ (Ready (.vmov h o) s w f → (w.cx f (.vmov h o)).act ≠ 0 → (w.cx f (.vmov h o)).act = w.live → o.ib = true → o.ty = .b32 →
        exec (.vmov h o) s = .next (s.done (.vmov h o) (w.putV o.d.toNat (.u o.imm)) (w.cx f (.vmov h o))))
    ∧ (Ready (.aff h o) s w f → (w.cx f (.aff h o)).act ≠ 0 → (w.cx f (.aff h o)).act = w.live → o.ib = true → o.imm ≠ 0 →
        exec (.aff h o) s = .next (s.done (.aff h o) (w.putV o.d.toNat (.a ((w.rdS (w.actor f) o.a.toNat).setWidth 32) o.imm)) (w.cx f (.aff h o))))
    ∧ (∀ a x b y, Ready (.vadd h o) s w f → (w.cx f (.vadd h o)).act ≠ 0 → (w.cx f (.vadd h o)).act = w.live → o.ty = .i32 → o.ib = false →
        o.nega = false → o.absa = false → o.sat = false → w.rdV o.a.toNat = .a a x → w.rdV o.b.toNat = .a b y →
        exec (.vadd h o) s = .next (s.done (.vadd h o) (w.putV o.d.toNat (.a (a + b) (x + y))) (w.cx f (.vadd h o))))

/-! ### The floating-point vector forms (06 R156 to R159) -/

/-- The floating-point vector forms work element by element, with one draw of the lane's generator an element under stochastic
rounding, and add the flags of the active lanes to FPSTAT. -/
def Obligations.VectorFloatLanes : Prop :=
  ∀ (h : Hdr) (o : OpV),
    let F := fmtOf o.ty
    let el (w : Wick) (l : Nat) (g : FElem) (b c : Nat) : Rounded :=
      fElems o.ty.ew o.ty.count o.rm (w.gen l) (modElem o g) ((vsrc w o.ty o.a).lane l) b c
    let two (i : Instr) (sub : Nat) : Prop := FloatWise i o o.ty (fun w _ l =>
      el w l (fun d a b c => fop w F o.rm o.sat sub d a b c) ((vsrcB w o).lane l) 0)
    let one (i : Instr) (g : Wick → Nat → Nat → Rounded) : Prop := FloatWise i o o.ty (fun w _ l => el w l (fun d a _ _ => g w d a) 0 0)
    two (.fadd h o) 0 ∧ two (.fsub h o) 1 ∧ two (.fmul h o) 2 ∧ two (.fdiv h o) 6
    ∧ FloatWise (.ffma h o) o o.ty (fun w _ l =>
        el w l (fun d a b c => fop w F o.rm o.sat 3 d a b c) ((vsrcB w o).lane l) ((vsrc w o.ty o.c).lane l))
    ∧ FloatWise (.fmin h o) o o.ty (fun w _ l => el w l (fun d a b c => fop w F .rne false 4 d a b c) ((vsrcB w o).lane l) 0)
    ∧ FloatWise (.fmax h o) o o.ty (fun w _ l => el w l (fun d a b c => fop w F .rne false 5 d a b c) ((vsrcB w o).lane l) 0)
    ∧ one (.fsqrt h o) (fun w d a => rndSqrt F o.rm o.sat w.regs.ftz d (fdec w F a))
    ∧ one (.frcp h o) (fun w _ a => frcp F o.sat w.regs.ftz a (fdec w F a))
    ∧ one (.frsq h o) (fun w _ a => frsq F o.sat w.regs.ftz a (fdec w F a))
    ∧ one (.fexp2 h o) (fun w _ a => fexp2 F o.sat w.regs.ftz a (fdec w F a))
    ∧ one (.flog2 h o) (fun w _ a => flog2 F o.sat w.regs.ftz a (fdec w F a))
    ∧ FloatWise (.fdot2 h o) o .f32 (fun w _ l =>
        dot2Lane w o (drawFor o.rm (w.gen l) 0) ((vsrc w .b32 o.a).lane l) ((vsrcB32 w o).lane l) ((vsrc w .b32 o.c).lane l))
    ∧ LaneWise VecOnly (.fclass h o) o o.ty (fun w _ l => fclassLane o.ty ((vsrc w o.ty o.a).lane l))
    ∧ LaneWise VecOnly (.fpack h o) o .b32 (fun w _ l =>
        setFld ((vsrc w .b32 o.c).lane l) (packWidth h * fld o.imm.toNat 4 2) (packWidth h) ((vsrc w .b32 o.a).lane l))
    ∧ LaneWise VecOnly (.funpack h o) o .b32 (fun w _ l =>
        fld ((vsrc w .b32 o.a).lane l) (packWidth h * fld o.imm.toNat 4 2) (packWidth h))

/-- The remaining floating-point vector forms and LSCAN complete and touch only their destination, FPSTAT, which only gains flags, and the
generators. FCVT converts element by element, widening from the element the immediate names on and narrowing into it (06 R159, 03 R80),
ICVT between integers and floating point (06 R159), FSCALE multiplies by a power of two, clamped where every finite product overflows or
underflows alike, and FSINCOS gives sine and cosine in D and D+1 (06 R156, R158). LSCAN gives each active lane the running value of the
active lanes up to it, or before it (06 R161). -/
def Obligations.VectorConversionsComplete : Prop :=
  (∀ (h : Hdr) (o : OpV),
       let F := fmtOf o.ty
       let elems (w : Wick) (src : Ty) (l : Nat) (g : Nat → Nat → Rounded) (skip : Nat) : Rounded :=
         let rs := (List.range o.ty.count).map (fun k =>
           g (drawFor o.rm (w.gen l) k) (fld ((vsrc w src o.a).lane l) (src.ew * (skip + k)) src.ew))
         ⟨packElems o.ty.ew (rs.map Rounded.pat), (rs.map Rounded.fl).foldl (· ||| ·) 0⟩
       let j := fld o.imm.toNat 4 2
       (∀ src, tyOfCode (fld o.imm.toNat 0 4) = some src →
           (src.ew = o.ty.ew → FloatWise (.fcvt h o) o o.ty (fun w _ l => elems w src l (fcvtElem w o.ty src o) 0))
           ∧ (src.ew < o.ty.ew → FloatWise (.fcvt h o) o o.ty (fun w _ l => elems w src l (fcvtElem w o.ty src o) (j * o.ty.count)))
           ∧ (o.ty.ew < src.ew → FloatWise (.fcvt h o) o o.ty (fun w _ l =>
               let r := fcvtElem w o.ty src o (drawFor o.rm (w.gen l) 0) (fld ((vsrc w src o.a).lane l) 0 src.ew)
               ⟨setFld ((vsrc w .b32 o.c).lane l) (o.ty.ew * j) o.ty.ew r.pat, r.fl⟩))
           ∧ FloatWise (.icvt h o) o o.ty (fun w _ l => elems w src l (cvtElem w o.ty src o.rm false) 0))
       ∧ FloatWise (.fscale h o) o o.ty (fun w _ l =>
           fElems o.ty.ew o.ty.count o.rm (w.gen l) (modElem o (fun d x _ _ =>
             let v := fdec w F x
             let p := exMul v (exPow2 (max (-5000) (min 5000 (sextN ((vsrcB32 w o).lane l) 32))))
             rndF F o.rm o.sat w.regs.ftz d (p.1, p.2 ||| sigFl [v]))) ((vsrc w o.ty o.a).lane l) 0 0)
       ∧ (∀ (s : State) (w : Wick) (f : Nat), Ready (.fsincos h o) s w f →
           let cx := w.cx f (.fsincos h o)
           let part (cos : Bool) (l : Nat) : Rounded := fElems o.ty.ew o.ty.count .rne 0
             (modElem o (fun _ x _ _ => fsincosPart F cos o.sat w.regs.ftz x (fdec w F x))) ((vsrc w o.ty o.a).lane l) 0 0
           ShapeFaults (.fsincos h o) s w f o.d.toNat ∨ ∃ w', exec (.fsincos h o) s = .next (s.done (.fsincos h o) w' cx)
             ∧ w'.regs.gens = w.regs.gens
             ∧ w'.regs.fpstat = w.regs.fpstat ||| (lanesOf cx.act).foldl (fun acc l => acc ||| (part false l).fl ||| (part true l).fl) 0
             ∧ (∀ l, l < 32 → cx.act.getLsbD l = true → ((w'.rdV o.d.toNat).lane l).toNat = (part false l).pat % 2 ^ 32
                 ∧ ((w'.rdV (o.d.toNat + 1)).lane l).toNat = (part true l).pat % 2 ^ 32))
       ∧ (∀ (s : State) (w : Wick) (f : Nat), Ready (.lscan h o) s w f →
           let cx := w.cx f (.lscan h o)
           let r := redRun w (h.sub.toNat % 8) o (lanesOf cx.act) (redIdentity (h.sub.toNat % 8) o.ty)
           ShapeFaults (.lscan h o) s w f o.d.toNat ∨ ∃ w', exec (.lscan h o) s = .next (s.done (.lscan h o) w' cx)
             ∧ w'.regs.fpstat = w.regs.fpstat ||| r.2.2
             ∧ (∀ x ∈ r.1, rdLane w' o.ty o.d.toNat x.1 = (if 8 ≤ h.sub.toNat then x.2.1 else x.2.2) % 2 ^ o.ty.ow)))
  ∧ ∀ (h : Hdr) (o : OpV) (s : State) (w : Wick) (f : Nat),
    ∀ i ∈ [Instr.fcvt h o, .icvt h o, .fscale h o, .fsincos h o, .lscan h o], Ready i s w f →
      ShapeFaults i s w f o.d.toNat ∨ ∃ w', exec i s = .next (s.done i w' (w.cx f i)) ∧ FloatOnly w w' ∧ w.regs.fpstat &&& w'.regs.fpstat = w.regs.fpstat
        ∧ (o.rm ≠ .sto → w'.regs.gens = w.regs.gens)
        ∧ (∀ n, n ≠ o.d.toNat → n ≠ o.d.toNat + 1 → w'.rdV n = w.rdV n)
        ∧ (∀ l, l < 32 → w.live.getLsbD l = true → (w.cx f i).act.getLsbD l = false →
            (w'.rdV o.d.toNat).lane l = (w.rdV o.d.toNat).lane l)

/-! ### The control forms (06 R144 to R151) -/

/-- NOP, YIELD, FENCE and CACHE only move the PC on: in one order of execution a fence and a hint have no effect of their own. SLEEP
keeps its fragment from issuing for min(s[S], 2^24) cycles of its cluster's clock and moves on (06 R150). TRAPU raises the trap of cause 0x0D with s[S] as its
value (06 R151). That a fence needs no effect of its own rests on one order of all accesses (log 65). -/
def Obligations.SimpleControl : Prop :=
  (∀ (h : Hdr) (o : OpC) (m : OpM) (s : State) (w : Wick) (f : Nat), ∀ i ∈ [Instr.nop h o, .yield h o, .fence h m, .cache h m],
       Ready i s w f → exec i s = .next (s.stepped i (w.cx f i)))
  ∧ (∀ (h : Hdr) (o : OpC) (s : State) (w : Wick) (f : Nat), Ready (.sleep h o) s w f →
       let cx := w.cx f (.sleep h o)
       let n := (w.rdS cx.f o.s.toNat).toNat
       (n = 0 → exec (.sleep h o) s = .next (s.stepped (.sleep h o) cx))
       ∧ (0 < n → exec (.sleep h o) s =
           .next ((s.putWick (w.modFrag cx.f (fun g => { g with sleep := some (s.clock w.info.cluster + min n (2 ^ 24)) }))).stepped (.sleep h o) cx)))
  ∧ (∀ (h : Hdr) (o : OpC) (s : State) (w : Wick) (f : Nat), Ready (.trapu h o) s w f →
       let cx := w.cx f (.trapu h o)
       exec (.trapu h o) s = .next (raiseTrap s w cx { cause := 0x0D, val := w.rdS cx.f o.s.toNat }))

/-- The branches (06 R145): a branch not taken goes on, one taken goes to TGT when the slot there carries T, and otherwise traps with
cause 0x03 and the target, with no other effect; LOOP decrements s[S] and branches while the result is not zero, and its counter is
written also when the branch then traps. The line that the check fetched is the one held for the target (05 R125, log 114). -/
def Obligations.Branches : Prop :=
  (∀ (h : Hdr) (o : OpC) (s : State) (w : Wick) (f : Nat),
       let F := w.actor f
       let m := (w.frag F).mask
       let P := w.rdP o.cq.toNat &&& m
       let x := w.rdS F o.s.toNat
       let y := w.rdS F o.s2.toNat
       let form (i : Instr) (taken : Bool) : Prop := Ready i s w f →
         let cx := w.cx f i
         let t := checkTarget s w.info.coreId w.info.ctx cx.sl (tgt cx o)
         (taken = false → exec i s = .next (s.stepped i cx))
         ∧ (taken = true → t.1 = .ok → exec i s = .next (t.2.jumped i cx (tgt cx o)))
         ∧ (taken = true → t.1 = .bad → exec i s = .next (raiseTrap s w cx { cause := 0x03, val := tgt cx o }))
       form (.bra h o) true
       ∧ form (.brq h o) (w.rdQ F o.cq.toNat != o.cm.getLsbD 0)
       ∧ (o.cm = 0 → form (.brp h o) (P != 0)) ∧ (o.cm = 1 → form (.brp h o) (P == m))
       ∧ (o.cm = 2 → form (.brp h o) (P == 0)) ∧ (o.cm = 3 → form (.brp h o) (P != m))
       ∧ (o.cm = 0 → form (.brs h o) (x == y)) ∧ (o.cm = 1 → form (.brs h o) (x != y))
       ∧ (o.cm = 2 → form (.brs h o) (x.slt y)) ∧ (o.cm = 3 → form (.brs h o) (!x.slt y))
       ∧ (o.cm = 4 → form (.brs h o) (x.ult y)) ∧ (o.cm = 5 → form (.brs h o) (!x.ult y)))
  ∧ (∀ (h : Hdr) (o : OpC) (s : State) (w : Wick) (f : Nat), Ready (.loop h o) s w f →
       let cx := w.cx f (.loop h o)
       let n := w.rdS cx.f o.s.toNat - 1
       let w' := w.wrS cx.f o.s.toNat n
       let t := checkTarget (s.putWick w') w.info.coreId w.info.ctx cx.sl (tgt cx o)
       (n = 0 → exec (.loop h o) s = .next ((s.putWick w').stepped (.loop h o) cx))
       ∧ (n ≠ 0 → t.1 = .ok → exec (.loop h o) s = .next (t.2.jumped (.loop h o) cx (tgt cx o)))
       ∧ (n ≠ 0 → t.1 = .bad → exec (.loop h o) s = .next (raiseTrap (s.putWick w') w' cx { cause := 0x03, val := tgt cx o })))

/-- CALL and CALLI write the link, count the depth outside single-lane mode and go to their target; at depth 16 they raise call depth
with no effect, CALLI after its target's check (06 R146). RET goes to the address in s[S]: outside single-lane mode it ends the frame,
advancing FGEN of the depth and lowering CD, and from a frame a closure was called in it restores k15 and releases the reference, a stale
handle trapping as KREL would (13 R267, R264; that this check follows the target's is log 116); at depth 0 it raises call depth, or in a
wick that began with a closure retires its lanes (13 R269). The access slice has frames of its own, none of them a closure's (19 R389). -/
def Obligations.CallsAndReturns : Prop :=
  (∀ (h : Hdr) (o : OpC) (s : State) (w : Wick) (f : Nat),
       let F := w.actor f
       let depth := (w.frag F).cd
       let framed (cx : Cx) : Wick :=
         let w1 := w.wrS F o.s.toNat (pcNext cx.pc)
         if cx.sl then w1 else w1.modFrag F (fun g => { g with cd := g.cd + 1 })
       let goesTo (cx : Cx) (s : State) (target : Word) := checkTarget s w.info.coreId w.info.ctx cx.sl target
       (Ready (.call h o) s w f →
         let cx := w.cx f (.call h o)
         let t := goesTo cx (s.putWick (framed cx)) (tgt cx o)
         (w.trap.sl = true ∨ depth < 16 → t.1 = .ok → exec (.call h o) s = .next (t.2.jumped (.call h o) cx (tgt cx o)))
         ∧ (w.trap.sl = true ∨ depth < 16 → t.1 = .bad →
             exec (.call h o) s = .next (raiseTrap s w cx { cause := 0x03, val := tgt cx o }))
         ∧ (w.trap.sl = false → 16 ≤ depth → exec (.call h o) s = .next (raiseTrap s w cx { cause := 0x0B })))
       ∧ (Ready (.calli h o) s w f →
         let cx := w.cx f (.calli h o)
         let a := w.rdS F o.s2.toNat
         let c := goesTo cx s a
         let t := goesTo cx (c.2.putWick (framed cx)) a
         (w.trap.sl = true ∨ depth < 16 → c.1 = .ok → t.1 = .ok → exec (.calli h o) s = .next (t.2.jumped (.calli h o) cx a))
         ∧ (c.1 = .bad → exec (.calli h o) s = .next (raiseTrap s w cx { cause := 0x03, val := a }))
         ∧ (w.trap.sl = false → 16 ≤ depth → c.1 = .ok → exec (.calli h o) s = .next (raiseTrap s w cx { cause := 0x0B }))))
  ∧ (∀ (h : Hdr) (o : OpC) (s : State) (w : Wick) (f : Nat), Ready (.ret h o) s w f →
       let cx := w.cx f (.ret h o)
       let a := w.rdS cx.f o.s.toNat
       let d := (w.frag cx.f).cd
       let t := checkTarget s w.info.coreId w.info.ctx cx.sl a
       let w1 := (w.bumpFgen d).modFrag cx.f (fun g => { g with cd := d - 1 })
       let w2 := w1.wrK 15 (w.regs.klink[d - 1]?.getD 0)
       (w.trap.sl = true → t.1 = .ok → exec (.ret h o) s = .next (t.2.jumped (.ret h o) cx a))
       ∧ (w.trap.sl = false → w.inAccess = true → 0 < d → t.1 = .ok →
           exec (.ret h o) s = .next ((t.2.putWick (w.modFrag cx.f (fun g => { g with cd := d - 1 }))).jumped (.ret h o) cx a))
       ∧ (w.trap.sl = false → w.inAccess = false → 0 < d → w.regs.kframe[d - 1]?.getD false = false → t.1 = .ok →
           exec (.ret h o) s = .next ((t.2.putWick w1).jumped (.ret h o) cx a))
       ∧ (w.trap.sl = false → w.inAccess = false → 0 < d → w.regs.kframe[d - 1]?.getD false = true → t.1 = .ok →
           let hd := w.rdK 15
           let ends (s' : State) : Prop := exec (.ret h o) s = .next ((s'.putWick
             { w2 with regs := { w2.regs with kframe := w2.regs.kframe.setIfInBounds (d - 1) false } }).jumped (.ret h o) cx a)
           (hd = 0 → ends t.2) ∧ (hd ≠ 0 → t.2.handleValid w.info.ctx hd = true → ends (t.2.release w.info.ctx hd))
           ∧ (hd ≠ 0 → t.2.handleValid w.info.ctx hd = false → exec (.ret h o) s = .next (raiseTrap s w cx { cause := 0x1C, val := hd })))
       ∧ ((w.trap.sl = true ∨ 0 < d) → t.1 = .bad → exec (.ret h o) s = .next (raiseTrap s w cx { cause := 0x03, val := a }))
       ∧ (w.trap.sl = false → d = 0 → w.info.beganWithClosure = false ∨ w.inAccess = true →
           exec (.ret h o) s = .next (raiseTrap s w cx { cause := 0x0B }))
       ∧ (w.trap.sl = false → d = 0 → w.info.beganWithClosure = true → w.inAccess = false → (∀ c, w.info.cont = some c → c.kind ≠ 4) →
           exec (.ret h o) s = .next (sweepExit (s.putWick (w.retire cx.f cx.mask)) w cx)))

/-- FORK (06 R148, by 01 R19 and R24), with p[CQ], the else side at TGT and the join at TGT2: with two free entries and both sides occupied
the fragment splits, otherwise a serial-list record is made, and with 16 records held it raises split overflow; E is checked first,
whichever side is empty, and a false guard leaves no effect. A split leaves two children with the fragment's registers: one takes the
lanes of p and the successor, the other the other lanes and E, and the fragment becomes their parent at the JOIN. A record holds E, J, the
lanes of the false side, the snapshot and the phase, and the fragment goes on with the first side that has lanes; FORKSER counts the
records made for want of entries. -/
def Obligations.ForkForm : Prop :=
  (∀ (h : Hdr) (o : OpC) (s : State) (w : Wick) (f : Nat), Ready (.fork h o) s w f →
       let cx := w.cx f (.fork h o)
       let t := cx.mask &&& w.rdP o.cq.toNat
       let u := cx.mask &&& ~~~ (w.rdP o.cq.toNat)
       let c := checkTarget s w.info.coreId w.info.ctx cx.sl (tgt cx o)
       let done (w' : Wick) : Prop :=
         exec (.fork h o) s = .next (c.2.putWick (w'.modFrag cx.f (fun g => { g with lru := s.now })))
       (c.1 = .bad → exec (.fork h o) s = .next (raiseTrap s w cx { cause := 0x03, val := tgt cx o }))
       ∧ (∀ a b l, c.1 = .ok → w.freeFrags = a :: b :: l → t ≠ 0 → u ≠ 0 → done (w.split cx t u (tgt cx o) (tgt2 cx o) a b))
       ∧ (c.1 = .ok → (t = 0 ∨ u = 0) → w.serial.length < 16 → done (w.serialise cx t u (tgt cx o) (tgt2 cx o) false))
       ∧ (c.1 = .ok → t ≠ 0 → u ≠ 0 → w.freeFrags.length < 2 → w.serial.length < 16 →
           done (w.serialise cx t u (tgt cx o) (tgt2 cx o) true))
       ∧ (c.1 = .ok → (t = 0 ∨ u = 0 ∨ w.freeFrags.length < 2) → 16 ≤ w.serial.length →
           exec (.fork h o) s = .next (raiseTrap s w cx { cause := 0x09 })))
  ∧ (∀ (h : Hdr) (o : OpC) (s : State) (w : Wick) (f : Nat), s.cur = .wick w.info.uid f → s.findWick w.info.uid = some w →
       w.inAccess = false → (Instr.fork h o).legal = true → w.trap.sl = false → w.guardedOff f (.fork h o) = true →
       exec (.fork h o) s = .next (s.stepped .mNode (w.cx f (.fork h o))))
  ∧ (∀ (w : Wick) (cx : Cx) (t u : Mask) (e j : Word) (a b : Nat), a < 8 → b < 8 → cx.f < 8 → a ≠ b → a ≠ cx.f → b ≠ cx.f →
       let g := w.frag cx.f
       let w' := w.split cx t u e j a b
       w'.frag a = { mask := t, qv := g.qv, parent := cx.f, state := .running, level := g.level + 1, pc := pcNext cx.pc, own := g.own, cd := g.cd,
                     lru := g.lru }
       ∧ w'.frag b = { mask := u, qv := g.qv, parent := cx.f, state := .running, level := g.level + 1, pc := e, own := g.own, cd := g.cd,
                       lru := g.lru }
       ∧ w'.frag cx.f = { g with state := .parent, joinPc := j }
       ∧ (∀ n, n ≠ a → n ≠ b → n ≠ cx.f → w'.frag n = w.frag n)
       ∧ w'.live = w.live ∧ w'.serial = w.serial ∧ w'.regs = w.regs)
  ∧ (∀ (w : Wick) (cx : Cx) (t u : Mask) (e j : Word) (full : Bool), cx.f < 8 →
       let g := w.frag cx.f
       let w' := w.serialise cx t u e j full
       w'.serial = w.serial ++ [{ e := e, j := j, u := u, qv := g.qv, owner := cx.f, phase2 := t == 0, own := g.own, all := cx.mask, cd := g.cd }]
       ∧ (t ≠ 0 → w'.frag cx.f = { g with mask := t, pc := pcNext cx.pc })
       ∧ (t = 0 → w'.frag cx.f = { g with mask := u, pc := e })
       ∧ (∀ n, n ≠ cx.f → w'.frag n = w.frag n)
       ∧ (full = false → w'.regs = w.regs)
       ∧ (full = true → w.regs.forkser ≠ 0xFFFFFFFF → w'.regs = { w.regs with forkser := w.regs.forkser + 1 })
       ∧ (full = true → w.regs.forkser = 0xFFFFFFFF → w'.regs = w.regs)
       ∧ w'.live = w.live)

/-- JOIN (01 R21, R22, R24; 06 R147): it closes the fragment's latest serial-list record, or waits for its sibling and fuses; in the
first fragment with no record it only advances; a JOIN that is not the one expected traps with cause 0x08. Fusion (R22): when every child
of a parent has exited or waits, the parent runs the lanes that wait, after its JOIN, and the children's entries are free. Closing a record
(R24): from phase 1, with lanes of the false side still live, its owner runs them at E; otherwise it runs all the lanes of the FORK that are
live, after the JOIN, and the record is gone; either with the registers and the call depth of the snapshot. A fragment left with no lane closes
its latest record, and with none exits, and its parent fuses when that was the last child it waited for. -/
def Obligations.JoinForm : Prop :=
  (∀ (w : Wick) (p : Nat), p < 8 →
    let child (j : Nat) : Prop := j < 8 ∧ j ≠ p ∧ (w.frag j).parent = p ∧ (w.frag j).state ≠ .free
    let due : Prop := (w.frag p).state = .parent ∧ ∀ j, child j → (w.frag j).state = .exited ∨ (w.frag j).state = .waiting
    (¬ due → w.fuse p = none)
    ∧ (due → ∃ w', w.fuse p = some w'
        ∧ w'.frag p = { w.frag p with state := .running, mask := (w'.frag p).mask, pc := pcNext (w.frag p).joinPc, joinPc := 0 }
        ∧ (∀ l, (w'.frag p).mask.getLsbD l = true ↔ ∃ j, child j ∧ (w.frag j).state = .waiting ∧ (w.frag j).mask.getLsbD l = true)
        ∧ (∀ j, child j → w'.frag j = {}) ∧ (∀ j, j ≠ p → ¬ child j → w'.frag j = w.frag j)
        ∧ w' = { w with frags := w'.frags }))
  ∧ (∀ (w : Wick) (i : Nat) (r : SerialRec), r.owner < 8 →
    let w' := w.closeRec i r
    let runs (mask : Mask) (pc : Word) : Frag := { w.frag r.owner with mask := mask, pc := pc, qv := r.qv, own := r.own, cd := r.cd, state := .running }
    (r.phase2 = false → r.u &&& w.live ≠ 0 → w'.frag r.owner = runs (r.u &&& w.live) r.e
      ∧ (∀ x, w.serial[i]? = some x → w'.serial[i]? = some { x with phase2 := true }) ∧ (∀ n, n ≠ i → w'.serial[n]? = w.serial[n]?))
    ∧ (r.phase2 = true ∨ r.u &&& w.live = 0 → w'.frag r.owner = runs (r.all &&& w.live) (pcNext r.j) ∧ w'.serial = w.serial.eraseIdx i)
    ∧ (∀ n, n ≠ r.owner → w'.frag n = w.frag n) ∧ w' = { w with frags := w'.frags, serial := w'.serial })
  ∧ (∀ (w : Wick) (f n : Nat),
    let exits := w.modFrag f (fun g => { g with state := .exited })
    ((w.frag f).state = .running → (w.frag f).mask = 0 →
      (∀ i r, w.lastRec f = some (i, r) → w.settleFrag f (n + 1) = (w.closeRec i r).settleFrag f n)
      ∧ (w.lastRec f = none → f = 0 → w.settleFrag f (n + 1) = exits)
      ∧ (w.lastRec f = none → f ≠ 0 → w.settleFrag f (n + 1) = exits.settleFrag (w.frag f).parent n))
    ∧ (∀ w', w.fuse f = some w' → w.settleFrag f (n + 1) = w'.settleFrag f n)
    ∧ ((w.frag f).mask ≠ 0 → w.fuse f = none → w.settleFrag f (n + 1) = w))
  ∧ ∀ (h : Hdr) (o : OpC) (s : State) (w : Wick) (f : Nat), Ready (.join h o) s w f →
    let cx := w.cx f (.join h o)
    let d := (w.frag cx.f).cd
    let p := (w.frag cx.f).parent
    let ends (w' : Wick) : Prop := exec (.join h o) s = .next (sweepExit (s.putWick w') w cx)
    (w.lastRec cx.f = none → cx.f = 0 → exec (.join h o) s = .next (s.stepped (.join h o) cx))
    ∧ (w.lastRec cx.f = none → cx.f ≠ 0 → (w.frag p).joinPc = cx.pc → (w.frag p).cd = d →
        let w1 := w.modFrag cx.f (fun g => { g with state := .waiting })
        ends ((w1.settleFrag p 40).checkExit)
        ∧ (w.live ≠ 0 → (w1.frag p).state = .parent → w1.fuse p = none → exec (.join h o) s = .next (s.putWick w1))
        ∧ (∀ w', w.live ≠ 0 → w1.fuse p = some w' → (w'.frag p).mask ≠ 0 → exec (.join h o) s = .next (s.putWick w')))
    ∧ (w.lastRec cx.f = none → cx.f ≠ 0 → ((w.frag p).joinPc ≠ cx.pc ∨ (w.frag p).cd ≠ d) →
        exec (.join h o) s = .next (raiseTrap s w cx { cause := 0x08 }))
    ∧ (∀ i r, w.lastRec cx.f = some (i, r) → r.j = cx.pc → r.cd = d → ends (((w.closeRec i r).settleFrag cx.f 40).checkExit)
        ∧ (w.live ≠ 0 → cx.f < 8 → ((w.closeRec i r).frag cx.f).mask ≠ 0 → exec (.join h o) s = .next (s.putWick (w.closeRec i r))))
    ∧ (∀ i r, w.lastRec cx.f = some (i, r) → (r.j ≠ cx.pc ∨ r.cd ≠ d) →
        exec (.join h o) s = .next (raiseTrap s w cx { cause := 0x08 }))

/-- EXIT retires the lanes of its fragment and no other (01 R17, R23): the wick goes on while a lane is live and leaves when none is. In
the access slice it ends that slice alone (19 R389). -/
def Obligations.ExitForm : Prop :=
  ∀ (h : Hdr) (o : OpC) (s : State) (w : Wick) (f : Nat), Ready (.exit h o) s w f →
    let cx := w.cx f (.exit h o)
    let w' := w.retire cx.f cx.mask
    (w.inAccess = true → exec (.exit h o) s = .next (s.putWick { w with access := w.access.map (fun a => { a with live := false }) }))
    ∧ (w.inAccess = false → w'.live = w.live &&& ~~~ cx.mask
    ∧ (w'.live ≠ 0 → exec (.exit h o) s = .next (s.putWick w'))
    ∧ (w'.live = 0 → exec (.exit h o) s = .next (exitWick (s.putWick w') w' cx.pc w.live)))

/-! ### Traps (16 R324 to R328, R341) -/

/-- Taking a trap (16 R324): the wick enters single-lane mode at the vector of the cause, TPC is the instruction, TNPC its successor, or
the instruction itself for a pre-emption, a restore or a resumption, TCAUSE, TMASK, TVAL and TVAL2 are the cause's, TFRAG the fragment,
and s60 to s63 hold WSAVE, the cause, TVAL and TPC; no other register of the wick changes. A trap in single-lane mode, or one whose
vector fails the checks of a target, halts the wick, which keeps its registers and its slot, with a record of cause 0x3F that names the
cause that could not be taken (16 R328, R346; that a bad vector halts so is log 20). The line that the check of the vector fetched is held
(log 114). -/
def Obligations.TrapEntry : Prop :=
  (∀ (s : State) (w : Wick) (f : Nat) (pc : Word) (t : TrapInfo),
       let c := checkTarget s w.info.coreId w.info.ctx true (s.vector w.info.ctx t.cause)
       w.trap.sl = false → c.1 = .ok →
       ∃ w', takeTrap s w f pc t = (c.2.putWick w').holdTarget w.info.uid f (s.vector w.info.ctx t.cause)
         ∧ w'.trap.sl = true ∧ w'.trap.pc = s.vector w.info.ctx t.cause ∧ w'.trap.tpc = pc
         ∧ w'.trap.tnpc = (if t.cause = 0x30 ∨ t.cause = 0x31 ∨ t.cause = 0x32 then pc else pcNext pc)
         ∧ w'.trap.tcause = BitVec.ofNat 64 t.cause ∧ w'.trap.tmask = t.mask.setWidth 64 ∧ w'.trap.tval = t.val ∧ w'.trap.tval2 = t.val2
         ∧ w'.trap.tfrag = f ∧ w'.rdS f 60 = s.wsave w.info ∧ w'.rdS f 61 = BitVec.ofNat 64 t.cause ∧ w'.rdS f 62 = t.val ∧ w'.rdS f 63 = pc
         ∧ w'.trap.ppend = w.trap.ppend ∧ w'.trap.v = w.trap.v
         ∧ w'.regs = w.regs ∧ w'.frags = w.frags ∧ w'.live = w.live ∧ w'.serial = w.serial ∧ w'.info = w.info
         ∧ w'.books = { w.books with slLine := none, pair := none })
  ∧ (∀ (s : State) (w : Wick) (f : Nat) (pc : Word) (t : TrapInfo),
       let c := checkTarget s w.info.coreId w.info.ctx true (s.vector w.info.ctx t.cause)
       (w.trap.sl = true → takeTrap s w f pc t = haltWick s w 0x3F t.cause)
       ∧ (w.trap.sl = false → c.1 = .bad → ∃ w', takeTrap s w f pc t = haltWick c.2 w' 0x3F t.cause
           ∧ w'.regs = w.regs ∧ w'.frags = w.frags ∧ w'.info = w.info ∧ w'.live = w.live ∧ w'.trap.tpc = pc))
  ∧ (∀ (s : State) (w x : Wick) (cause value : Nat), s.findWick w.info.uid = some x →
       ∃ w' r, haltWick s w cause value = postFaults (s.putWick w') w.info.ctx [r]
         ∧ fld r 0 8 = cause % 256 ∧ fld r 384 64 = value % 2 ^ 64 ∧ fld r 320 64 = w.info.wickId % 2 ^ 64 ∧ fld r 128 64 = w.trap.tpc.toNat
         ∧ (haltWick s w cause value).findWick w.info.uid = some w' ∧ w'.info.stage = .halted ∧ w'.info.save = w.info.save
         ∧ w'.regs = w.regs ∧ w'.frags = w.frags ∧ w'.live = w.live ∧ w'.trap = w.trap)

/-- ERET and ERET.NEXT leave single-lane mode: fragment TFRAG resumes at the PC given, TPC or TNPC, every other at its own, no register is
changed, and a pre-emption that waits is taken at once, with every SLEEP and UIWAIT of the wick ended (16 R341, 06 R150). Both read the
debug controls again (21 R413), and what follows the return is afterReturn: a recheck that was due, or parking (17 R357, R358). -/
def Obligations.TrapReturn : Prop :=
  (∀ (h : Hdr) (o : OpY) (s : State) (w : Wick) (f : Nat),
    let form (i : Instr) (pc : Word) : Prop := Ready i s w f → w.info.restoring = false → s.isStopped w.info.ctx (saveWork w) = false →
      w.access = none ∨ w.trap.ppend = false →
      let d := readDebug s w.info.ctx
      let w2 := { w with
        books := { w.books with debug := d.1, fresh := (List.range 8).filter (fun f => (w.frag f).state == .running) } }
      exec i s = .next (sweepExit (afterReturn (returnFromTrap (d.2.putWick w2) w2 pc) w.info.uid false) w (w.cx f i))
    form (.eret h o) w.trap.tpc ∧ form (.eretNext h o) w.trap.tnpc)
  ∧ (∀ (s : State) (w : Wick) (pc : Word), w.trap.tfrag < 8 → w.trap.ppend = true →
    ∃ w2, (w.access = none → returnFromTrap s w pc = takeTrap s w2 w.trap.tfrag pc { cause := 0x30 })
      ∧ (∀ s1, saveAccess s w2 = .ok s1 → returnFromTrap s w pc = takeTrap s1 w2 w.trap.tfrag pc { cause := 0x30 })
      ∧ (∀ e, saveAccess s w2 = .error e → returnFromTrap s w pc = s.putWick { w2 with info := { w2.info with preq := true } })
      ∧ w2.trap = { w.trap with sl := false, ppend := false } ∧ (w2.frag w.trap.tfrag).pc = pc
      ∧ (∀ n, n ≠ w.trap.tfrag → (w2.frag n).pc = (w.frag n).pc)
      ∧ (∀ n, (w2.frag n).mask = (w.frag n).mask ∧ (w2.frag n).sleep = none ∧ (w2.frag n).uiWait = false)
      ∧ w2.regs = w.regs ∧ w2.live = w.live ∧ w2.serial = w.serial ∧ w2.info = w.info ∧ w2.access = w.access)
  ∧ ∀ (s : State) (w : Wick) (pc : Word), w.trap.tfrag < 8 → w.trap.ppend = false →
    ∃ w', returnFromTrap s w pc = s.putWick w' ∧ w'.trap = { w.trap with sl := false } ∧ (w'.frag w.trap.tfrag).pc = pc
      ∧ (∀ n, n ≠ w.trap.tfrag → (w'.frag n).pc = (w.frag n).pc) ∧ (∀ n, (w'.frag n).mask = (w.frag n).mask)
      ∧ w'.regs = w.regs ∧ w'.live = w.live ∧ w'.serial = w.serial ∧ w'.info = w.info

/-- Where a trap goes: to queue 0 from the access slice, which stops, and while that queue is full the trap waits for room there (19 R391);
held while a service call's speculation runs (13 R277); otherwise it is taken by the fragment at the instruction (16 R324). -/
def Obligations.TrapRouting : Prop :=
  ∀ (s : State) (w : Wick) (cx : Cx) (t : TrapInfo),
    (w.inAccess = false → (w.books.svc = none ∨ w.trap.sl = true) → raiseTrap s w cx t = takeTrap s w cx.f cx.pc t)
    ∧ (w.inAccess = false → w.books.svc.isSome = true → w.trap.sl = false →
        raiseTrap s w cx t = s.putWick { w with books := { w.books with held := some t, heldAt := (cx.f, cx.pc) } })
    ∧ (∀ a, w.inAccess = true → w.access = some a → (w.books.qp[0]?.getD []).length < 8 →
        raiseTrap s w cx t = s.putWick { w with
          access := some { a with live := false, trap := none }
          books := { w.books with qp := w.books.qp.setIfInBounds 0 ((w.books.qp[0]?.getD [])
            ++ [{ faulted := true, cause := BitVec.ofNat 8 t.cause, faddr := cx.pc }]) } })
    ∧ (∀ a, w.inAccess = true → w.access = some a → 8 ≤ (w.books.qp[0]?.getD []).length →
        raiseTrap s w cx t = s.putWick { w with access := some { a with live := false, trap := some (t.cause, cx.pc) } })

/-- The order of checks (05 R136, 16 R325, 19 R389): a privileged form outside single-lane mode takes the privileged-instruction trap
whatever its fields, in either slice; a form the access slice may not issue traps there with cause 0x01; then a form that is not legal, or
is barred in single-lane mode, the illegal-instruction trap; each with no other effect. A class S or format C instruction whose guard is false has no
effect but the advance of the PC (05 R126). That the illegal encodings which a form's own description names (02 R61, 06 R153, R164, 13 R263
and others) trap before the guard and before the register checks, as those of 05 R126 and R136 do, is log 97, the model's reading. -/
def Obligations.IssueChecks : Prop :=
  (∀ (i : Instr) (s : State) (w : Wick) (f : Nat), s.cur = .wick w.info.uid f → s.findWick w.info.uid = some w → i.opc.isSome = true →
       let traps (c : Nat) : Prop := exec i s = .next (raiseTrap s w (w.cx f i) { cause := c })
       (i.prv = true → w.trap.sl = false → traps 0x04)
       ∧ ((i.prv = true → w.trap.sl = true) → w.inAccess = true → i.inAccessSlice = false → traps 0x01)
       ∧ ((w.inAccess = true → i.inAccessSlice = true) → (i.prv = true → w.trap.sl = true) →
           i.legal = false ∨ (w.trap.sl = true ∧ i.notInSl = true) → traps 0x01))
  ∧ (∀ (i : Instr) (s : State) (w : Wick) (f : Nat), s.cur = .wick w.info.uid f → s.findWick w.info.uid = some w →
       (w.inAccess = true → i.inAccessSlice = true) → i.opc.isSome = true → i.legal = true → (i.prv = true → w.trap.sl = true) →
       (w.trap.sl = true → i.notInSl = false) → w.guardedOff f i = true → exec i s = .next (s.stepped .mNode (w.cx f i)))

/-- A scalar, vector, lane or special-register form leaves memory, every other wick, the device, its own lanes and everything it does not
name as it was: the registers but its destinations, the other fragments, the PCs but its own, the call frames, the operand log, and,
but for MTS, FTZ and the saved state of a user interrupt; FPSTAT only gains flags (02 R63). -/
def Obligations.RegisterFormFrame : Prop :=
  ∀ (i : Instr) (s : State) (w : Wick) (f : Nat), Ready i s w f → i.opV.isSome = true →
    let cx := w.cx f i
    exec i s = .next (raiseTrap s w cx { cause := 0x07 }) ∨
    ∃ w', exec i s = .next (s.done i w' cx)
      ∧ (∀ k, (s.done i w' cx).mem.get k = s.mem.get k) ∧ (∀ u, u ≠ w.info.uid → (s.done i w' cx).findWick u = s.findWick u)
      ∧ RegsKept i w w' cx.f
      ∧ (∀ g, g ≠ cx.f → w'.frag g = w.frag g) ∧ w'.frag cx.f = { w.frag cx.f with own := (w'.frag cx.f).own, qv := (w'.frag cx.f).qv }
      ∧ w'.trap = { w.trap with s := w'.trap.s, v := w'.trap.v }
      ∧ w'.info = w.info ∧ w'.live = w.live ∧ w'.serial = w.serial ∧ w'.books = w.books
      ∧ w'.regs.klink = w.regs.klink ∧ w'.regs.kframe = w.regs.kframe ∧ w'.regs.fgen = w.regs.fgen ∧ w'.regs.forkser = w.regs.forkser
      ∧ ((∀ h o, i ≠ .mts h o) → w'.regs.ftz = w.regs.ftz ∧ w'.regs.uiSavePc = w.regs.uiSavePc ∧ w'.regs.uiSaveQ = w.regs.uiSaveQ
          ∧ w.regs.fpstat &&& w'.regs.fpstat = w.regs.fpstat)

/-- The operand queues (02 R60, 19 R390): a register field that is a source and names v248 to v251 names a port, but in CAPT's run and in
SAVEV, and reads the entry at the queue's head. The pops take the head of each queue named, once, and change nothing else; every vector,
scalar, lane or special-register form that completes has made them, and so have the other forms, whose statements end in the same
advance; a move from a port leaves its lanes in D. -/
def Obligations.QueuePorts : Prop :=
  (∀ (i : Instr) (n : Nat), n ∈ i.ports ↔ n < 4 ∧ (∀ h o, i ≠ .capt h o) ∧ (∀ h o, i ≠ .savev h o)
    ∧ ∃ f od, (f, od) ∈ i.opnds ∧ od.rd = true ∧ RegName.v (248 + n) ∈ od.names f)
  ∧ (∀ (w : Wick) (n : Nat) (e : QEntry) (q : List QEntry), n < 4 → w.books.qp[n]? = some (e :: q) → w.rdV (248 + n) = .g e.lanes)
  ∧ (∀ (w : Wick) (i : Instr), w.access.bind Access.trap = none →
    (∀ n, (w.popPorts i).books.qp[n]? = if n ∈ i.ports then (w.books.qp[n]?).map (List.drop 1) else w.books.qp[n]?)
    ∧ w.popPorts i = { w with books := { w.books with qp := (w.popPorts i).books.qp } })
  ∧ (∀ (i : Instr) (s : State) (w : Wick) (f : Nat), Ready i s w f → i.opV.isSome = true → w.access.bind Access.trap = none →
    exec i s = .next (raiseTrap s w (w.cx f i) { cause := 0x07 }) ∨
    ∃ t w', exec i s = .next t ∧ t.findWick w.info.uid = some w'
      ∧ ∀ n, w'.books.qp[n]? = if n ∈ i.ports then (w.books.qp[n]?).map (List.drop 1) else w.books.qp[n]?)
  ∧ ∀ (h : Hdr) (o : OpV) (s : State) (w : Wick) (f n : Nat) (e : QEntry) (q : List QEntry), n < 4 → o.a.toNat = 248 + n →
    w.books.qp[n]? = some (e :: q) → w.access.bind Access.trap = none → Ready (.vmov h o) s w f → o.ib = false → o.ty = .b32 → (w.cx f (.vmov h o)).act ≠ 0 → narrow o.d.toNat = false →
    ∃ w', exec (.vmov h o) s = .next (s.putWick w') ∧ w'.books.qp[n]? = some q
      ∧ (∀ m, m ≠ n → w'.books.qp[m]? = w.books.qp[m]?)
      ∧ (∀ l, l < 32 → (w.cx f (.vmov h o)).act.getLsbD l = true → (w'.rdV o.d.toNat).lane l = e.lanes[l]?.getD 0)

/-! ### Memory (04 R87 to R102; 07 R167 to R181; 17 R351) -/

/-- A translation changes memory at most in the leaf entry it uses, by setting A, and D on a write or an atomic (17 R351): that of the
entry picked, cached or the tables' own (17 R352), or that of the walk anew where the entry has changed. A translation that fails, or whose
leaf has the bits already, changes nothing. -/
def Obligations.TranslationMemory : Prop :=
  ∀ (s : State) (c va : Nat) (sl : Bool) (k : AccKind),
    let t := (xlate s c sl k va).2
    let marked (w : Walk) : Memory := s.mem.write (keyLocal w.ent) 8 (s.mem.read (keyLocal w.ent) 8 ||| leafBits k)
    t = { s with mem := t.mem, tlb := t.tlb }
    ∧ (∀ e, pickWalk s c va = .error e → t = s)
    ∧ (∀ w, pickWalk s c va = .ok w →
        (∀ e, s.leafFault c sl k w = some e → t = s)
        ∧ (s.leafFault c sl k w = none → w.entry &&& leafBits k = leafBits k → t.mem = s.mem)
        ∧ (s.leafFault c sl k w = none → w.entry &&& leafBits k ≠ leafBits k → s.entryThere w = true → t.mem = marked w)
        ∧ (s.leafFault c sl k w = none → w.entry &&& leafBits k ≠ leafBits k → s.entryThere w = false →
            (∀ e, s.walkOf c va = .error e → t = s)
            ∧ (∀ w2, s.walkOf c va = .ok w2 → (s.leafFault c sl k w2 = none → t.mem = marked w2)
                ∧ (∀ e, s.leafFault c sl k w2 = some e → t = s)))
        ∧ (∀ key, (key < keyLocal w.ent ∨ keyLocal w.ent + 8 ≤ key) →
            (∀ w2, s.walkOf c va = .ok w2 → key < keyLocal w2.ent ∨ keyLocal w2.ent + 8 ≤ key) → t.mem.get key = s.mem.get key))

/-- Bytes written are what a read of them gives, and every other byte reads as before. A store to the pieces of a range writes them into
memory and leaves the rest of the state as it is, but for what is remembered of stores to worlds (log 120). -/
def Obligations.ReadAfterWrite : Prop :=
  (∀ (m : Memory) (k n v : Nat), m.wf = true →
    (m.write k n v).read k n = v % 2 ^ (8 * n) ∧ (∀ a, a < k ∨ k + n ≤ a → (m.write k n v).get a = m.get a) ∧ (m.write k n v).wf = true)
  ∧ ∀ (s : State) (ps : List (Nat × Nat)) (bs : List Byte),
    let t := s.storePieces ps bs
    t = { s with mem := writePieces s.mem ps bs, older := t.older } ∧ (s.older.worlds = [] → t.older = s.older)

/-- LD, LDC and LDA.SEQ load every active lane, LDA.BCAST one value for all of them and LDS one scalar: each element is the
little-endian value at the lane's address, extended as EXT says to a lane, or to 64 bits by LDS, all lanes reading one memory (04 R102); a
constant sector overwritten while the launch runs may read as it stood before, as a free value has it (log 103), and a byte of a target of
the wick's own pass is a free value (07 R168, 04 R88, R94, 14 R297). LDC waits while it meets a tile that is held, before its traps are looked for (04 R93, log 119). -/
def Obligations.LoadForms : Prop :=
  ∀ (h : Hdr) (o : OpM) (s : State) (w : Wick) (f : Nat),
    let n := o.sz.bytes
    let d := o.d.toNat
    let only (cx : Cx) (w' : Wick) : Prop := VecOnly w w'
      ∧ (∀ m, m < d ∨ d + o.sz.regs ≤ m → w'.rdV m = w.rdV m)
      ∧ (∀ j r, j < 32 → r < o.sz.regs → w.live.getLsbD j = true → cx.act.getLsbD j = false →
          (w'.rdV (d + r)).lane j = (w.rdV (d + r)).lane j)
    let lanes (i : Instr) (off : Nat → Nat) : Prop := Ready i s w f →
      let cx := w.cx f i
      let ls := laneList w cx o off
      (narrow d = true → cx.act ≠ 0 → ShapeFaults i s w f d)
      ∧ (∀ l t, narrow d = false ∨ cx.act = 0 → Passes s w cx o false ls → s.reach w cx o (accOf o 0 0) n ls = some (l, t) →
          ∃ w', exec i s = .next ((t.putWick w').stepped i cx) ∧ only cx w'
            ∧ (∀ x ∈ l, ∀ ea r, (x.1, ea) ∈ ls → r < o.sz.regs →
                (w'.rdV (d + r)).lane x.1 = BitVec.ofNat 32 (extLoad o 32 (w.loads o n x.1 ea x.2.1 t) >>> (32 * r))))
    lanes (.ld h o) (fun _ => 0) ∧ lanes (.ldaSeq h o) (fun i => i * n)
    ∧ (heldAccess s w n (laneList w (w.cx f (.ldc h o)) o (fun _ => 0)) = false → lanes (.ldc h o) (fun _ => 0))
    ∧ (Ready (.ldaBcast h o) s w f →
        let cx := w.cx f (.ldaBcast h o)
        ∀ ps t, cx.act ≠ 0 → narrow d = false ∨ cx.act = w.live → Passes s w cx o false [(0, laneEa w cx o 0)] →
          resolveLane s w cx o (accOf o 0 0) n 0 (laneEa w cx o 0) = ([], ps, t) →
          ∃ w', exec (.ldaBcast h o) s = .next ((t.putWick w').stepped (.ldaBcast h o) cx) ∧ only cx w'
            ∧ (∀ j r, j < 32 → cx.act.getLsbD j = true → r < o.sz.regs →
                (w'.rdV (d + r)).lane j = BitVec.ofNat 32 (w.loads o n 0 (laneEa w cx o 0) ps t >>> (32 * r))))
    ∧ (Ready (.lds h o) s w f →
        let cx := w.cx f (.lds h o)
        ∀ ps t, Passes s w cx o false [(0, laneEa w cx o 0)] →
          resolveLane s w cx o (accOf o 0 0) n 0 (laneEa w cx o 0) = ([], ps, t) →
          exec (.lds h o) s = .next ((t.putWick (w.wrS cx.f d (BitVec.ofNat 64 (extLoad o 64 (w.loads o n 0 (laneEa w cx o 0) ps t))))).stepped (.lds h o) cx))

/-- ST, STC and STA store every active lane in ascending order and STS one scalar: the stored bytes are the low bytes of the data at the
address the form computes, and every byte outside them reads as the translation left it (07 R169, 04 R88, R102); once a world has been
named, a store of what stands there is remembered as well (log 120). In the speculation of a service call a store changes no byte of memory: its bytes wait in the store buffer, where the wick's own loads see them (13 R277). -/
def Obligations.StoreForms : Prop :=
  (∀ (h : Hdr) (o : OpM) (s : State) (w : Wick) (f : Nat),
       let n := o.sz.bytes
       let lanes (i : Instr) (ls : Cx → List (Nat × Nat)) (data : Cx → Nat → Nat) : Prop := Ready i s w f →
         let cx := w.cx f i
         ∀ l t, w.books.svc = none ∨ w.trap.sl = true → Passes s w cx o false (ls cx) → s.reach w cx o (accOf o 1 0) n (ls cx) = some (l, t) →
           let m := l.foldl (fun m x => writePieces m x.2.1 (leBytes n (data cx x.1))) t.mem
           let u := t.storeCells (l.flatMap (fun x => cellsOf x.2.1 (leBytes n (data cx x.1))))
           exec i s = .next (u.stepped i cx) ∧ u = { t with mem := m, older := u.older } ∧ (t.older.worlds = [] → u.older = t.older)
           ∧ (∀ k, (∀ x ∈ l, ¬ inPieces x.2.1 k) → m.get k = t.mem.get k)
       lanes (.st h o) (fun cx => laneList w cx o (fun _ => 0)) (fun _ => storeData w o)
       ∧ lanes (.sta h o) (fun cx => laneList w cx o (fun i => i * n)) (fun _ => storeData w o)
       ∧ (heldAccess s w n (laneList w (w.cx f (.stc h o)) o (fun _ => 0)) = false →
           lanes (.stc h o) (fun cx => laneList w cx o (fun _ => 0)) (fun _ => storeData w o))
       ∧ lanes (.sts h o) (fun cx => [(0, laneEa w cx o 0)]) (fun cx _ => (w.rdS cx.f o.d.toNat).toNat % 2 ^ (8 * n)))
  ∧ (∀ (h : Hdr) (o : OpM) (s : State) (w : Wick) (f : Nat), Ready (.st h o) s w f →
       let cx := w.cx f (.st h o)
       ∀ l t, w.books.svc.isSome = true → w.trap.sl = false → w.books.ssb.length < 64 → Passes s w cx o false (laneList w cx o (fun _ => 0)) →
         s.reach w cx o (accOf o 1 0) o.sz.bytes (laneList w cx o (fun _ => 0)) = some (l, t) →
         ∃ w', exec (.st h o) s = .next ((t.putWick w').stepped (.st h o) cx)
           ∧ w'.view t = l.foldl (fun m x => writePieces m x.2.1 (leBytes o.sz.bytes (storeData w o x.1))) (w.view t)
           ∧ w'.regs = w.regs ∧ w'.frags = w.frags ∧ w'.trap = w.trap)

/-- ATOM, CAS and SATOM read, compute and write each element as one (07 R172, R173): D takes the old value, CAS compares with D and
stores the register or pair after it, giving a bit a lane, and SATOM with CAS compares with s[D] and stores s[D+1]; the integer
operations are those of w-bit words. -/
def Obligations.AtomicForms : Prop :=
  (∀ (h : Hdr) (o : OpM) (s : State) (w : Wick) (f : Nat),
       let n := o.sz.bytes
       let d := o.d.toNat
       let op := o.aux.toNat
       let form (i : Instr) (aop : Nat) (new : Nat → Nat → Nat) (more : Cx → List (Nat × Nat × List (Nat × Nat)) → Wick → Prop) : Prop :=
         Ready i s w f →
         let cx := w.cx f i
         let ls := laneList w cx o (fun _ => 0)
         (narrow d = true → cx.act ≠ 0 → ShapeFaults i s w f d)
         ∧ (∀ l t, narrow d = false ∨ cx.act = 0 → Passes s w cx o true ls → s.rmw w cx o (accOf o 2 aop) n new ls = some (l, t) →
             ∃ w', exec i s = .next ((t.putWick w').stepped i cx) ∧ more cx l w'
               ∧ (∀ x ∈ l, ∀ r, r < o.sz.regs → (w'.rdV (d + r)).lane x.1 = BitVec.ofNat 32 (x.2.1 >>> (32 * r)))
               ∧ (∀ m, m < d ∨ d + o.sz.regs ≤ m → w'.rdV m = w.rdV m)
               ∧ w'.frags = w.frags ∧ w'.regs.s = w.regs.s ∧ w'.regs.k = w.regs.k ∧ w'.regs.tx = w.regs.tx ∧ w'.regs.fpstat = w.regs.fpstat
               ∧ (o.sp ≠ .glob → o.sp ≠ .prv → ∀ k, (∀ x ∈ l, ¬ inPieces x.2.2 k) → t.mem.get k = s.mem.get k))
       form (.atom h o) op (fun i old => atomOp op n old (laneWord w n d i)) (fun _ _ w' => w'.regs.p = w.regs.p)
       ∧ form (.cas h o) 0x0E (fun i old => if old = laneWord w n d i then laneWord w n (d + (if n = 8 then 2 else 1)) i else old)
           (fun cx l w' => op % 16 < 15 →
             (∀ x ∈ l, (w'.rdP (op % 16)).getLsbD x.1 = (x.2.1 == laneWord w n d x.1))
             ∧ (∀ j, j < 32 → cx.act.getLsbD j = false → (w'.rdP (op % 16)).getLsbD j = (w.rdP (op % 16)).getLsbD j)
             ∧ (∀ p, p ≠ op % 16 → w'.rdP p = w.rdP p))
       ∧ (Ready (.satom h o) s w f →
           let cx := w.cx f (.satom h o)
           let a := (w.rdS cx.f d).toNat % 2 ^ (8 * n)
           let b := (w.rdS cx.f (d + 1)).toNat % 2 ^ (8 * n)
           ∀ ps t, Passes s w cx o true [(0, laneEa w cx o 0)] →
             resolveLane s w cx o (accOf o 2 op) n 0 (laneEa w cx o 0) = ([], ps, t) →
             let old := w.reads o n 0 (laneEa w cx o 0) t.mem ps t
             let new := if op = 0x0E then (if old = a then b else old) else atomOp op n old a
             exec (.satom h o) s = .next (((t.storePieces ps (leBytes n new)).putWick
               (w.wrS cx.f d (BitVec.ofNat 64 old))).stepped (.satom h o) cx)))
  ∧ (∀ (n old b : Nat), (n = 4 ∨ n = 8) → old < 2 ^ (8 * n) → b < 2 ^ (8 * n) →
       let x := BitVec.ofNat (8 * n) old
       let y := BitVec.ofNat (8 * n) b
       let is (op : Nat) (z : BitVec (8 * n)) : Prop := atomOp op n old b = z.toNat
       is 0x00 (x + y) ∧ is 0x01 (x &&& y) ∧ is 0x02 (x ||| y) ∧ is 0x03 (x ^^^ y)
       ∧ is 0x04 (if x.slt y then x else y) ∧ is 0x05 (if y.slt x then x else y) ∧ is 0x06 (if x.ult y then x else y)
       ∧ is 0x07 (if y.ult x then x else y) ∧ is 0x08 y ∧ is 0x09 (if x.ult y then x + 1 else 0)
       ∧ is 0x0A (if x = 0 ∨ y.ult x then y else x - 1))

/-- An address out of range, outside every window or misaligned traps, with no other effect (04 R88). Of the lanes that fail a check, the
cause is the first in the order range, window, alignment that some lane has, with the lanes that have it and the address of the lowest. A
lane is out of range past 2^57 bytes of global space, PSIZE of private, 2^20 of an activation buffer, 2^18 of the coefficient buffer, or
past 2^57 at the constant bytes below CLEN (04 R94); outside when some byte of an activation-buffer access lies in no window of the wick's
bands (04 R91); misaligned when an atomic's address is no multiple of its size, or a coefficient-buffer address no multiple of four (04
R101). LDC and STC wait first for a tile that is held (log 119). -/
def Obligations.AccessTraps : Prop :=
  (∀ (s : State) (w : Wick) (o : OpM) (atomic : Bool) (n : Nat) (ls : List (Nat × Nat)),
    (checkLanes s w o atomic n ls = none ↔ ∀ x ∈ ls, laneCheck s w o atomic n x.2 = none)
    ∧ (∀ t, checkLanes s w o atomic n ls = some t →
        (t.cause = 0x10 ∨ t.cause = 0x11 ∨ t.cause = 0x12)
        ∧ (∀ c, c < t.cause → ∀ x ∈ ls, laneCheck s w o atomic n x.2 ≠ some c)
        ∧ (∀ l, l < 32 → (t.mask.getLsbD l = true ↔ ∃ ea, (l, ea) ∈ ls ∧ laneCheck s w o atomic n ea = some t.cause))
        ∧ (∃ x ∈ ls, laneCheck s w o atomic n x.2 = some t.cause ∧ t.val = BitVec.ofNat 64 x.2
            ∧ (ls.Pairwise (fun a b => a.1 < b.1) → ∀ y ∈ ls, laneCheck s w o atomic n y.2 = some t.cause → x.1 ≤ y.1))))
  ∧ (∀ (s : State) (w : Wick) (o : OpM) (atomic : Bool) (n ea : Nat),
      let fails (c : Nat) : Prop := laneCheck s w o atomic n ea = some c
      let ab : Prop := o.sp = .lab ∨ o.sp = .rab
      let limit : Nat := match o.sp with
        | .glob => 2 ^ 57
        | .prv => w.info.psize
        | .cb => 2 ^ 18
        | _ => 2 ^ 20
      (o.sp ≠ .cst → (fails 0x10 ↔ limit < ea + n)
        ∧ (fails 0x11 ↔ ea + n ≤ limit ∧ ab ∧ inWindows (windows s w (abCore w o)) ea n = false)
        ∧ (fails 0x12 ↔ ea + n ≤ limit ∧ (ab → inWindows (windows s w (abCore w o)) ea n = true)
            ∧ (if o.sp = .cb then ea % 4 ≠ 0 else atomic = true ∧ ea % n ≠ 0)))
      ∧ (o.sp = .cst → (fails 0x10 ↔ ea < w.info.clen ∧ 2 ^ 57 < w.info.cbase.toNat + min (ea + n) w.info.clen)
          ∧ ¬ fails 0x11 ∧ ¬ fails 0x12))
  ∧ (∀ (s : State) (w : Wick) (core off n : Nat),
      inWindows (windows s w core) off n = true ↔ ∀ j, j < n → ∃ r x, r ∈ w.info.bands ∧ s.findBand r.band = some x ∧ core ∈ x.cores
        ∧ x.off ≤ off + j ∧ off + j < x.off + 4096 * x.win)
  ∧ ∀ (h : Hdr) (o : OpM) (s : State) (w : Wick) (f : Nat) (t : TrapInfo),
    let each (cx : Cx) : List (Nat × Nat) := laneList w cx o (fun _ => 0)
    let one (cx : Cx) : List (Nat × Nat) := [(0, laneEa w cx o 0)]
    let at_ (i : Instr) (atomic : Bool) (ls : Cx → List (Nat × Nat)) : Prop := Ready i s w f →
      (narrow o.d.toNat = false ∨ i = .st h o ∨ i = .sta h o ∨ i = .stc h o ∨ i = .lds h o ∨ i = .sts h o ∨ i = .satom h o) → checkLanes s w o atomic o.sz.bytes (ls (w.cx f i)) = some t →
      exec i s = .next (raiseTrap s w (w.cx f i) t)
    at_ (.ld h o) false each ∧ at_ (.st h o) false each
    ∧ at_ (.ldaSeq h o) false (fun cx => laneList w cx o (fun i => i * o.sz.bytes))
    ∧ at_ (.sta h o) false (fun cx => laneList w cx o (fun i => i * o.sz.bytes))
    ∧ at_ (.atom h o) true each ∧ at_ (.cas h o) true each
    ∧ (heldAccess s w o.sz.bytes (each (w.cx f (.ldc h o))) = false → at_ (.ldc h o) false each)
    ∧ (heldAccess s w o.sz.bytes (each (w.cx f (.stc h o))) = false → at_ (.stc h o) false each)
    ∧ at_ (.lds h o) false one ∧ at_ (.sts h o) false one ∧ at_ (.satom h o) true one
    ∧ ((w.cx f (.ldaBcast h o)).act ≠ 0 → at_ (.ldaBcast h o) false one)
    ∧ ((w.cx f (.waitm h o)).act ≠ 0 → Ready (.waitm h o) s w f → checkLanes s w o false o.sz.bytes (one (w.cx f (.waitm h o))) = some t →
        exec (.waitm h o) s = .next (raiseTrap s w (w.cx f (.waitm h o)) t))

/-- A load some of whose lanes meet a page fault is logged and counts as issued (17 R355): an entry of the operand log holds the
instruction, its PC, its active lanes, those done and the registers it will write, and the PC moves on. With no room in the context's
fault ring for its records it waits (17 R362). -/
def Obligations.FaultingLoadLogged : Prop :=
  ∀ (h : Hdr) (o : OpM) (s : State) (w : Wick) (f e : Nat), Ready (.ld h o) s w f →
    let cx := w.cx f (.ld h o)
    let ls := laneList w cx o (fun _ => 0)
    w.trap.sl = false → w.books.svc = none → w.inAccess = false → narrow o.d.toNat = false → cx.f < 8 → Passes s w cx o false ls →
      s.reach w cx o (accOf o 0 0) o.sz.bytes ls = none → w.freeLog = some e →
      let recs := laneRecs s w cx.pc 0 (some e) (accOf o 0 0) (resolveLanes w cx o (accOf o 0 0) o.sz.bytes ls { s := s } []).1.bad
      (s.ringFull w.info.ctx recs.length = true → exec (.ld h o) s = .next (s.putWick (w.stalled 12)))
      ∧ (s.ringFull w.info.ctx recs.length = false → ∃ t w' x, exec (.ld h o) s = .next t ∧ t.findWick w.info.uid = some w' ∧ w'.books.log[e]? = some x
        ∧ x.valid = true ∧ some x.instr = encode (.ld h o) ∧ x.pc = cx.pc ∧ x.active = cx.act ∧ x.frag = cx.f
        ∧ x.pending = (Instr.ld h o).writes.eraseDups ∧ x.done ≠ cx.act ∧ x.done &&& cx.act = x.done
        ∧ (w'.frag cx.f).pc = pcNext cx.pc ∧ w'.trap = { w.trap with parked := w'.trap.parked, v := w'.trap.v })

/-- ICINV invalidates the lines its scope covers, all of them or those of the context's range from now on (07 R177; what a fetch may then
still see of earlier bytes is lineSince, log 102); TXI clears V of one translation register or of all (07 R179); neither touches memory. TXL
fills every field of a translation register from the leaf the translation used: valid from the address on, with its physical address and
its permissions, as long as the leaf and the leaves that continue it reach, and sets the A and D bits of the leaves that its limit covers (07 R179, 04 R97, 17
R353). With no active lane none of them does anything (05 R126). -/
def Obligations.TranslationForms : Prop :=
  (∀ (h : Hdr) (o : OpM) (s : State) (w : Wick) (f : Nat),
       (Ready (.icinv h o) s w f →
         let cx := w.cx f (.icinv h o)
         let ea := laneEa w cx o 0
         let range := if h.sub = 1 then none else some (w.info.ctx, ea, ea + (w.rdS cx.f o.d.toNat).toNat)
         (cx.act ≠ 0 → exec (.icinv h o) s = .next ({ s with icinvs := ⟨o.sc.code, icScope w o.sc, range, s.now⟩ :: s.icinvs }.stepped (.icinv h o) cx))
         ∧ (cx.act = 0 → exec (.icinv h o) s = .next (s.stepped (.icinv h o) cx)))
       ∧ (Ready (.txi h o) s w f → (w.cx f (.txi h o)).act = 0 → exec (.txi h o) s = .next (s.stepped (.txi h o) (w.cx f (.txi h o))))
       ∧ (Ready (.txi h o) s w f → (w.cx f (.txi h o)).act ≠ 0 →
         ∃ w', exec (.txi h o) s = .next (s.done (.txi h o) w' (w.cx f (.txi h o)))
           ∧ (∀ t : Tx, w'.regs.tx[o.tx.toNat]? = some t → t.valid = false)
           ∧ (h.sub ≠ 0 → ∀ (n : Nat) (t : Tx), w'.regs.tx[n]? = some t → t.valid = false)
           ∧ (h.sub = 0 → ∀ n : Nat, n ≠ o.tx.toNat → w'.regs.tx[n]? = w.regs.tx[n]?)
           ∧ w' = { w with regs := { w.regs with tx := w'.regs.tx } }))
  ∧ (∀ (h : Hdr) (o : OpM) (s : State) (w : Wick) (f : Nat), Ready (.txl h o) s w f →
       let cx := w.cx f (.txl h o)
       let ea := laneEa w cx o 0
       let r := xlateWalk s w.info.ctx cx.sl ⟨0, 0, 0⟩ ea
       (cx.act = 0 → exec (.txl h o) s = .next (s.stepped (.txl h o) cx))
       ∧ (cx.act ≠ 0 → 2 ^ 57 ≤ ea → exec (.txl h o) s = .next (raiseTrap s w cx { cause := 0x10, mask := 1, val := BitVec.ofNat 64 ea }))
       ∧ (∀ k, cx.act ≠ 0 → ea < 2 ^ 57 → (cx.sl = true ∨ w.touchesLog [(ea, 1)] = false) → r.1 = .ok k →
           let size := leafSize k.lvl
           let base := leafPa k (ea - ea % size)
           let more := runFrom r.2 w.info.ctx k.lvl (k.ent + 8) (levelIndex ea k.lvl + 1) (leafAttrs k.entry) (base + size) (2 ^ levelBits k.lvl)
           ∃ t : Tx, exec (.txl h o) s = .next (({ r.2 with
                 mem := markRun r.2.mem k.ent base size (if t.wr then 0x3000 else 0x1000) ((ea % size + min (size - ea % size + more) (2 ^ 40 - 1) + size - 1) / size) }.putWick
               { w with regs := { w.regs with tx := w.regs.tx.setIfInBounds o.tx.toNat t } }).stepped (.txl h o) cx)
             ∧ t.valid = true ∧ t.vbase.toNat = ea ∧ t.pbase.toNat = leafPa k ea ∧ t.limit.toNat = min (size - ea % size + more) (2 ^ 40 - 1)
             ∧ t.rd = k.entry.testBit 1 ∧ t.wr = k.entry.testBit 2 ∧ t.home.toNat = fld k.entry 8 2
             ∧ (t.atom = true ↔ fld k.entry 6 2 = 0 ∧ fld k.entry 8 2 < 2)))

/-- WAITM completes when the word at its address meets its condition, D taking the word read, and waits under stall counter 9 while it
does not (07 R180). LDQ, in the access slice, appends the loaded lanes to the queue it names; outside it is illegal, and it waits while
the queue holds eight entries (07 R181, 19 R390). -/
def Obligations.WaitAndQueueLoad : Prop :=
  (∀ (h : Hdr) (o : OpM) (s : State) (w : Wick) (f : Nat), Ready (.waitm h o) s w f →
       let cx := w.cx f (.waitm h o)
       let n := o.sz.bytes
       let x := (w.rdS cx.f o.d.toNat).toNat % 2 ^ (8 * n)
       ∀ ps t, cx.act ≠ 0 → Passes s w cx o false [(0, laneEa w cx o 0)] →
         resolveLane s w cx o (accOf o 0 0) n 0 (laneEa w cx o 0) = ([], ps, t) →
         let v := w.loads o n 0 (laneEa w cx o 0) ps t
         let met : Bool := match h.sub.toNat with
           | 0 => v == x
           | 1 => v != x
           | 2 => decide (v ≥ x)
           | 3 => decide (v < x)
           | 4 => decide (sextN v (8 * n) ≥ sextN x (8 * n))
           | _ => decide (sextN v (8 * n) < sextN x (8 * n))
         (met = true → exec (.waitm h o) s = .next ((t.putWick (w.wrS cx.f o.d.toNat (BitVec.ofNat 64 v))).stepped (.waitm h o) cx))
         ∧ (met = false → exec (.waitm h o) s = .next (s.putWick (w.waits cx.f 9))))
  ∧ (∀ (h : Hdr) (o : OpM) (s : State) (w : Wick) (f : Nat), Ready (.ldq h o) s w f →
       let cx := w.cx f (.ldq h o)
       let n := o.sz.bytes
       let q := o.d.toNat % 4
       let ls := laneList w cx o (fun _ => 0)
       (w.inAccess = false → exec (.ldq h o) s = .next (raiseTrap s w cx { cause := 0x01 }))
       ∧ (w.inAccess = true → 8 ≤ (w.books.qp[q]?.getD []).length → exec (.ldq h o) s = .next (s.putWick (w.waits cx.f 3)))
       ∧ (∀ l t, w.inAccess = true → (w.books.qp[q]?.getD []).length < 8 → checkLanes s w o false n ls = none →
           s.reach w cx o (accOf o 0 0) n ls = some (l, t) →
           ∃ e w', exec (.ldq h o) s = .next ((wickFaults (t.putWick w') w.info.uid w.info.ctx []).stepped (.ldq h o) cx)
             ∧ w' = { w with books := { w.books with qp := w.books.qp.setIfInBounds q ((w.books.qp[q]?.getD []) ++ [e]) } }
             ∧ e.faulted = false
             ∧ (∀ x ∈ l, ∀ ea, (x.1, ea) ∈ ls → e.lanes[x.1]? = some (BitVec.ofNat 32 (extLoad o 32 (w.loads o n x.1 ea x.2.1 t))))))

/-! ### Copies, quantisation and barriers (07 R182 to R205; 04 R113 to R118) -/

/-- A copy whose checks pass joins its batch and its channel (07 R187): it is the channel's newest, D takes its token, its barrier counts
an arrival issued, and the reference of its callback is taken; no byte it will move has moved. A multicast with a zero mask, and no other copy,
completes at once (07 R191). A copy form of a wick that produces no
band, or not the band of its slot, raises the producer trap, and one whose slot holds no band the band-rights trap, with no other effect
(01 R34, R36; log 67 orders these traps); with 64 copies outstanding it waits. -/
def Obligations.CopyIssue : Prop :=
  (∀ (h : Hdr) (o : OpX) (s s1 s2 s3 : State) (w : Wick) (f r1 r2 aux : Nat) (b : Band),
       let F := w.actor f
       let a := (w.rdS F o.a.toNat).toNat
       let d := (w.rdS F o.b.toNat).toNat
       let x := (w.rdS F o.c.toNat).toNat
       let src := parseShape r1
       let dst := parseShape r2
       let form (i : Instr) (k : CopyForm) : Prop := Ready i s w f →
         let cx := w.cx f i
         let c := { mkCopy s3 w o k b src dst aux with list := x }
         cx.act ≠ 0 → copyRights s w o = .inr b → (s.openCopies (chanOf w o)).length < 64 →
         s.record w cx a 64 = some (s1, r1) → s1.record w cx d 64 = some (s2, r2) →
         (if k = .gather ∨ k = .scatter then s2.record w cx x (auxLen k src) = some (s3, aux) else s3 = s2 ∧ aux = x) →
         shapeOk r1 = true → shapeOk r2 = true → src.esz = dst.esz → txInvalid w dst = false → shapeBytes dst ≤ 2 ^ 36 →
         (k = .multicast → dst.space = 2) → a % 8 = 0 → d % 8 = 0 →
         (k = .multicast → aux &&& (s3.retired[w.info.cluster]?.getD 0).toNat = 0) →
         rangeCheck b (if k = .scatter then { c with rows := some (listRows src aux) } else c) = none →
         (∀ n, c.arrive = some n → (b.barriers[n]?.getD {}).isst < (b.barriers[n]?.getD {}).expt) →
         (∀ hd m, c.callback = some (hd, m) → s3.handleValid c.ctx hd = true ∧ s3.refRoom c.ctx hd 1 = true) →
         ∃ t : State, exec i s = .next ((if c.atOnce then completeCopy t c else t).stepped i cx)
           ∧ (c.atOnce = true ↔ k = .multicast ∧ x = 0)
           ∧ t.copies = s3.copies ++ [c] ∧ (t.chan c.chan).seq = (s3.chan c.chan).seq + 1 ∧ c.seq = (s3.chan c.chan).seq + 1
           ∧ c.pos = 0 ∧ c.done = false ∧ c.stopped = false ∧ c.batch = w.books.batch.toNat
           ∧ (∀ u, u ≠ w.info.uid → t.findWick u = s3.findWick u)
           ∧ t.findWick w.info.uid = some (w.wrS F o.d.toNat (copyToken w (o.flags.toNat % 4) c.seq))
           ∧ t.mem = s3.mem
           ∧ (c.arrive = none → t.bands = s3.bands)
           ∧ (∀ n, c.arrive = some n → 
               let more (x : Barrier) : Barrier := { x with isst := x.isst + 1 }
               t.bands = (s3.modBand b.uid (fun b => { b with barriers := b.barriers.setIfInBounds n (more (b.barriers[n]?.getD {})) })).bands)
           ∧ (c.callback = none → t.env = s3.env)
           ∧ (∀ hd m, c.callback = some (hd, m) → t.env = (s3.addRef c.ctx hd 1).env)
       form (.cpy h o) .plain ∧ form (.cpyg h o) .gather ∧ form (.cpys h o) .scatter ∧ form (.cpym h o) .multicast)
  ∧ (∀ (h : Hdr) (o : OpX) (s : State) (w : Wick) (f : Nat), ∀ i ∈ [Instr.cpy h o, .cpyg h o, .cpys h o, .cpym h o], Ready i s w f →
       let cx := w.cx f i
       cx.act ≠ 0 →
       (producer s w = false → exec i s = .next (raiseTrap s w cx { cause := 0x15 }))
       ∧ (producer s w = true → slotBand w o = none → exec i s = .next (raiseTrap s w cx { cause := 0x14 }))
       ∧ (∀ r b, producer s w = true → slotBand w o = some r → s.findBand r.band = some b →
           (b.prod ≠ r.pos → exec i s = .next (raiseTrap s w cx { cause := 0x15 }))
           ∧ (b.prod = r.pos → 64 ≤ (s.openCopies (chanOf w o)).length → exec i s = .next (s.putWick (w.waits cx.f 5)))))

/-- Batches, write pointers and quantisation commands (07 R193 to R195, R200, R202, R203): CPYST answers of a token, SEAL closes the open batch and gives its number, WAITB
and WAITWP complete when their condition holds and otherwise wait, CHRST zeroes the write pointer of an idle channel. QSUB queues a
checked command on its cluster's engine and gives its token; QWAIT answers 0 or 1 for a command that is done, 2 for a token that names
none, and waits for one that runs (07 R202, R203). -/
def Obligations.BatchAndQuantForms : Prop :=
  (∀ (h : Hdr) (o : OpX) (s : State) (w : Wick) (f : Nat),
       let F := w.actor f
       let m := if h.sub = 0 then (w.rdS F o.a.toNat).toNat else o.imm.toNat
       let done (i : Instr) (w' : Wick) : Prop := Ready i s w f → (w.cx f i).act ≠ 0 → exec i s = .next (s.done i w' (w.cx f i))
       let waits (i : Instr) (n : Nat) : Prop := Ready i s w f → (w.cx f i).act ≠ 0 → exec i s = .next (s.putWick (w.waits F n))
       done (.cpyst h o) (w.wrS F o.d.toNat (BitVec.ofNat 64 (cpystVal s w h.sub.toNat (w.rdS F o.a.toNat))))
       ∧ (openBatches s w < 16 → done (.seal h o)
           (let w' := w.wrS F o.d.toNat (w.books.batch.setWidth 64)
            { w' with books := { w'.books with batch := w.books.batch + 1, lastSeal := w.books.batch } }))
       ∧ (16 ≤ openBatches s w → waits (.seal h o) 5)
       ∧ (batchesDone s w.info.uid (min m w.books.lastSeal.toNat) = true → done (.waitb h o) w)
       ∧ (batchesDone s w.info.uid (min m w.books.lastSeal.toNat) = false → waits (.waitb h o) 5)
       ∧ (m ≤ (s.chan (chanOf w o)).wp → done (.waitwp h o) w)
       ∧ ((s.chan (chanOf w o)).wp < m → waits (.waitwp h o) 6)
       ∧ (∀ b, copyRights s w o = .inr b → s.openCopies (chanOf w o) = [] → Ready (.chrst h o) s w f → (w.cx f (.chrst h o)).act ≠ 0 →
           exec (.chrst h o) s = .next ((s.putChan { s.chan (chanOf w o) with wp := 0 }).stepped (.chrst h o) (w.cx f (.chrst h o)))))
  ∧ (∀ (h : Hdr) (o : OpX) (s : State) (w : Wick) (f : Nat),
       let F := w.actor f
       let cl := w.info.cluster
       let va := (w.rdS F o.a.toNat).toNat
       (Ready (.qsub h o) s w f →
         let cx := w.cx f (.qsub h o)
         ∀ s1 r, cx.act ≠ 0 → (s.quants.filter (fun q => q.cluster == cl && !q.done && !q.rest)).length < 64 → va % 8 = 0 →
           s.record w cx va 64 = some (s1, r) →
           (quantOk r = false → exec (.qsub h o) s = .next (raiseTrap s w cx { cause := 0x13, val := BitVec.ofNat 64 va }))
           ∧ (quantOk r = true →
               let n := s1.quantSeq[cl]?.getD 0 + 1
               let q : Quant := { cluster := cl, seq := n, pkt := w.info.pkt, rank := w.info.rank, uid := w.info.uid, ctx := w.info.ctx, record := r,
                                  token := quantToken cl n, core := w.info.coreId, after := s1.matrixSeq (coreKey cl (fld r 325 6)) }
               exec (.qsub h o) s = .next (({ s1 with
                   quantSeq := s1.quantSeq.setIfInBounds cl n
                   quants := s1.quants ++ [q] }.putWick
                 (w.wrS F o.d.toNat (BitVec.ofNat 64 (n % 2 ^ 48 + cl % 8 * 2 ^ 48)))).stepped (.qsub h o) cx)))
       ∧ (Ready (.qwait h o) s w f →
           let cx := w.cx f (.qwait h o)
           let n := va % 2 ^ 48
           let ours : Prop := va / 2 ^ 48 % 8 = cl ∧ va / 2 ^ 51 % 2 ^ 13 = 0 ∧ 0 < n ∧ n ≤ s.quantSeq[cl]?.getD 0
           let gives (x : Word) : Prop := exec (.qwait h o) s = .next (s.done (.qwait h o) (w.wrS F o.d.toNat x) cx)
           cx.act ≠ 0 →
           (¬ ours → gives 2)
           ∧ (∀ q, ours → s.quants.find? (fun q => q.cluster == cl && q.seq == n) = some q →
               (q.done = true → gives (if q.special then 1 else 0))
               ∧ (q.done = false → exec (.qwait h o) s = .next (s.putWick (w.waits F 5))))))

/-- The barrier forms (07 R197 to R199) of a wick-wide issue with a band in its slot: BINIT sets an idle barrier's counts, BARV arrives and
completes the phase when the counts are in, BWAIT goes on once the phase it waits for is over, and BTEST reads the barrier; a wick that
is not converged traps with cause 0x0A. -/
def Obligations.BarrierForms : Prop :=
  ∀ (h : Hdr) (o : OpX) (s : State) (w : Wick) (f : Nat) (r : BandRef) (b : Band), slotBand w o = some r → s.findBand r.band = some b →
    let F := w.actor f
    let n := barOf o
    let x := b.barriers[n]?.getD {}
    let a := (w.rdS F o.a.toNat).toNat
    let last := w.lastArr (lastIdx o)
    let wide (i : Instr) (P : Prop) : Prop := Ready i s w f →
      (wickWide w (w.cx f i) = false → exec i s = .next (raiseTrap s w (w.cx f i) { cause := 0x0A }))
      ∧ (wickWide w (w.cx f i) = true → P)
    wide (.binit h o)
      (let cx := w.cx f (.binit h o)
       let good : Prop := a / 2 ^ 9 % 2 ^ 7 = 0 ∧ a / 2 ^ 25 % 2 ^ 39 = 0 ∧ x.arrw = 0 ∧ x.arrt = 0 ∧ x.isst = 0
         ∧ 1 ≤ a % 2 ^ 9 ∧ a % 2 ^ 9 ≤ 256 ∧ a / 2 ^ 16 % 2 ^ 9 ≤ 256
       let new : Barrier := { x with expw := a % 2 ^ 9, expt := a / 2 ^ 16 % 2 ^ 9, comp0 := 0, comp1 := 0 }
       (good → exec (.binit h o) s =
         .next ((s.modBand b.uid (fun b => { b with barriers := b.barriers.setIfInBounds n new })).stepped (.binit h o) cx))
       ∧ (¬ good → exec (.binit h o) s = .next (raiseTrap s w cx { cause := 0x17, val := BitVec.ofNat 64 n })))
    ∧ wide (.barv h o)
      (let cx := w.cx f (.barv h o)
       let new : Barrier := { x with arrw := x.arrw + 1 }
       (last ≠ some x.phase → x.arrw ≠ x.expw →
         exec (.barv h o) s = .next (((s.modBand b.uid (fun b => { b with barriers := b.barriers.setIfInBounds n new.tryPhase })).putWick
           { w with books := { w.books with lastArr := w.books.lastArr.setIfInBounds (lastIdx o) (x.phase.setWidth 64) } }).stepped (.barv h o) cx))
       ∧ (last = some x.phase ∨ x.arrw = x.expw →
           exec (.barv h o) s = .next (raiseTrap s w cx { cause := 0x18, val := BitVec.ofNat 64 n })))
    ∧ wide (.bwait h o)
      (let cx := w.cx f (.bwait h o)
       let p := waitedPhase w F (lastIdx o) x
       (x.phase ≠ p → exec (.bwait h o) s = .next (s.done (.bwait h o) (w.modWait F (fun y => { y with bwait := none })) cx))
       ∧ (x.phase = p → exec (.bwait h o) s =
           .next (s.putWick ((w.modWait F (fun y => { y with bwait := some (lastIdx o, p) })).stalled 4))))
    ∧ (Ready (.btest h o) s w f → (w.cx f (.btest h o)).act ≠ 0 →
        let gives (w' : Wick) : Prop := exec (.btest h o) s = .next (s.done (.btest h o) w' (w.cx f (.btest h o)))
        (h.sub = 0 → gives (w.wrQ F o.d.toNat (match last with
          | some p => x.phase != p
          | none => false)))
        ∧ (h.sub = 1 → gives (w.wrS F o.d.toNat ((x.comp (last.getD x.phase)).setWidth 64)))
        ∧ (h.sub = 2 → gives (w.wrS F o.d.toNat (x.phase.setWidth 64))))

/-- A phase completes when its arrivals of wicks and of copies are in, and only then: the phase number rises by one, the counts start
again and the next phase's companion word is zero (07 R196). -/
def Obligations.BarrierPhase : Prop :=
  ∀ (b : Barrier),
    (b.arrw = b.expw ∧ b.arrt = b.expt → b.tryPhase.phase = b.phase + 1 ∧ b.tryPhase.arrw = 0 ∧ b.tryPhase.arrt = 0 ∧ b.tryPhase.isst = 0
      ∧ b.tryPhase.comp (b.phase + 1) = 0 ∧ b.tryPhase.comp b.phase = b.comp b.phase
      ∧ b.tryPhase.expw = b.expw ∧ b.tryPhase.expt = b.expt)
    ∧ (¬ (b.arrw = b.expw ∧ b.arrt = b.expt) → b.tryPhase = b)

/-! ### Closures, user interrupts and services (13 R258 to R279) -/

/-- Capture (13 R263): with a free entry and its checks passed CAPT fills the lowest one and gives its handle, with one reference; with
none it gives the handle 0 and false, or traps under SUB 1. -/
def Obligations.CaptureForm : Prop :=
  ∀ (h : Hdr) (o : OpX) (s : State) (w : Wick) (f : Nat), Ready (.capt h o) s w f →
    let cx := w.cx f (.capt h o)
    let smask := o.flags.toNat % 2 ^ 8
    let nv := o.flags.toNat / 2 ^ 8 % 2 ^ 3
    let byref := o.flags.getLsbD 11
    let addr := w.rdS cx.f o.b.toNat
    let vecs := (List.range nv).map (fun j => w.rdV (o.a.toNat + j))
    let slots := (if byref then [addr] else []) ++ captScalars w cx.f smask
    let free := (List.range 512).find? (fun e => !(s.envAt w.info.coreId e).used)
    cx.act ≠ 0 → (0 < nv → runOk w o.a.toNat nv = true) → 8 * (slots.length + (vecs.flatMap VReg.slots).length) ≤ 224 →
    (byref = true → inPrivate w addr.toNat = true) →
      (∀ e, free = some e → ∃ x w', exec (.capt h o) s = .next (((s.putEnv x).putWick w').stepped (.capt h o) cx)
        ∧ x.core = w.info.coreId ∧ x.entry = e ∧ x.used = true ∧ x.ownlive = true ∧ x.refcnt = 1 ∧ x.owner = w.info.uid
        ∧ x.gen = (s.envAt w.info.coreId e).gen ∧ x.pc = captTarget cx o.imm ∧ x.byref = byref ∧ x.slots = slots ∧ x.vecs = vecs
        ∧ x.depth = (w.frag cx.f).cd
        ∧ w' = (w.wrK o.d.toNat (mkHandle e w.info.core (s.logCluster w.info.ctx w.info.cluster) x.gen.toNat)).wrQ cx.f o.c.toNat true)
      ∧ (free = none → h.sub = 0 → exec (.capt h o) s = .next (s.done (.capt h o) ((w.wrK o.d.toNat 0).wrQ cx.f o.c.toNat false) cx))
      ∧ (free = none → h.sub = 1 → exec (.capt h o) s = .next (raiseTrap s w cx { cause := 0x1F }))

/-- APPLY (13 R267) of a converged wick with a valid handle that has room: the link, the depth, KLINK and k15 of the new frame, one
reference more, and the PC at the closure's code; a stale handle or a dangling one traps with no effect. APPLY.V (13 R268): the active
lanes leave the wick as KIND 4 records of their closures, one reference taken for each, and the other lanes go on; with no room in the
pool it waits. -/
def Obligations.ApplyForms : Prop :=
  (∀ (h : Hdr) (o : OpX) (s : State) (w : Wick) (f : Nat), Ready (.apply h o) s w f →
       let cx := w.cx f (.apply h o)
       let hd := w.rdK o.a.toNat
       let c := w.info.ctx
       let d := (w.frag cx.f).cd
       let pc := (s.handleEntry c hd).pc
       let w' := w.applyFrame cx.f o.d.toNat (pcNext cx.pc) hd
       let t := checkTarget s w.info.coreId c cx.sl pc
       wickWide w cx = true →
       (16 ≤ d → exec (.apply h o) s = .next (raiseTrap s w cx { cause := 0x0B }))
       ∧ (d < 16 → s.handleValid c hd = false → exec (.apply h o) s = .next (raiseTrap s w cx { cause := 0x1C, val := hd }))
       ∧ (d < 16 → s.handleValid c hd = true → s.dangling (s.handleEntry c hd) = true →
           exec (.apply h o) s = .next (raiseTrap s w cx { cause := 0x1D, val := hd }))
       ∧ (d < 16 → s.handleFault c hd true = none → s.refRoom c hd 1 = true → t.1 = .ok →
           exec (.apply h o) s = .next (((t.2.addRef c hd 1).putWick w').jumped (.apply h o) cx pc))
       ∧ (cx.f < 8 → d < 16 → o.d.toNat < 60 → (w'.frag cx.f).cd = d + 1 ∧ w'.rdS cx.f o.d.toNat = pcNext cx.pc ∧ w'.rdK 15 = hd
           ∧ w'.regs.klink[d]? = some (w.rdK 15) ∧ w'.regs.kframe[d]? = some true))
  ∧ (∀ (h : Hdr) (o : OpX) (s : State) (w : Wick) (f : Nat), Ready (.applyV h o) s w f →
       let cx := w.cx f (.applyV h o)
       let hd := pairHandle w o
       let lanes := lanesOf cx.act
       cx.act ≠ 0 → liveMaskOk w o.imm = true → applyVCheck s w.info.ctx hd lanes = none →
       (s.pushConts w lanes 4 (fun _ => pcNext cx.pc) hd (o.imm.setWidth 16) = none →
         exec (.applyV h o) s = .next (s.putWick (w.waits cx.f 8)))
       ∧ (∀ s1 recs, s.pushConts w lanes 4 (fun _ => pcNext cx.pc) hd (o.imm.setWidth 16) = some (s1, recs) →
           let s2 := lanes.foldl (fun s l => s.addRef w.info.ctx (hd l) 1) s1
           let s3 := recs.foldl (fun s x => s.finalize x.2 (Vector.replicate 4 0)) s2
           let w1 := (w.moved (.applyV h o) cx s3.now (pcNext cx.pc)).retire cx.f cx.act
           exec (.applyV h o) s = .next (sweepExit (s3.putWick w1) w cx) ∧ w1.live = w.live &&& ~~~ cx.act))

/-- References and the reading of captured values (13 R264, R266): KDUP takes a reference on a valid handle, KREL gives one back and
clears its register, KMOV moves handles and counts nothing, KLD reads a captured slot or vector of the closure in k15 and KREF its
captured address. -/
def Obligations.HandleForms : Prop :=
  ∀ (h : Hdr) (o : OpX) (s : State) (w : Wick) (f : Nat),
    let F := w.actor f
    let c := w.info.ctx
    let a := w.rdK o.a.toNat
    let k := w.rdK 15
    let x := s.handleEntry c k
    let acts (i : Instr) (P : Cx → Prop) : Prop := Ready i s w f → (w.cx f i).act ≠ 0 → P (w.cx f i)
    acts (.kdup h o) (fun cx =>
      (s.handleValid c a = true → s.refRoom c a 1 = true →
        exec (.kdup h o) s = .next (((s.addRef c a 1).putWick (w.wrK o.d.toNat a)).stepped (.kdup h o) cx))
      ∧ (s.handleValid c a = false → exec (.kdup h o) s = .next (raiseTrap s w cx { cause := 0x1C, val := a }))
      ∧ (s.handleValid c a = true → s.refRoom c a 1 = false → exec (.kdup h o) s = .next (raiseTrap s w cx { cause := 0x1E, val := a })))
    ∧ acts (.krel h o) (fun cx =>
      (a = 0 → exec (.krel h o) s = .next (s.stepped (.krel h o) cx))
      ∧ (s.handleValid c a = true → exec (.krel h o) s = .next (((s.release c a).putWick (w.wrK o.a.toNat 0)).stepped (.krel h o) cx))
      ∧ (a ≠ 0 → s.handleValid c a = false → exec (.krel h o) s = .next (raiseTrap s w cx { cause := 0x1C, val := a })))
    ∧ acts (.kmov h o) (fun cx =>
      let gives (w' : Wick) : Prop := exec (.kmov h o) s = .next (s.done (.kmov h o) w' cx)
      (h.sub = 0 → o.a ≠ o.d → gives ((w.wrK o.d.toNat a).wrK o.a.toNat 0))
      ∧ (h.sub = 0 → o.a = o.d → gives (w.wrK o.a.toNat 0))
      ∧ (h.sub = 1 → gives (w.wrS F o.d.toNat a)) ∧ (h.sub = 2 → gives (w.wrK o.d.toNat (w.rdS F o.a.toNat))))
    ∧ acts (.kld h o) (fun cx =>
      (s.handleValid c k = false → exec (.kld h o) s = .next (raiseTrap s w cx { cause := 0x1C, val := k }))
      ∧ (∀ v, s.handleValid c k = true → h.sub = 0 → x.allSlots[o.imm.toNat]? = some v →
          exec (.kld h o) s = .next (s.done (.kld h o) (w.wrS F o.d.toNat v) cx))
      ∧ (∀ v, s.handleValid c k = true → h.sub = 1 → x.vecs[o.imm.toNat]? = some v → narrow o.d.toNat = false →
          exec (.kld h o) s = .next (s.done (.kld h o) (w.wrV w.live cx.act o.d.toNat v) cx))
      ∧ (s.handleValid c k = true → h.sub = 0 → x.allSlots[o.imm.toNat]? = none →
          exec (.kld h o) s = .next (raiseTrap s w cx { cause := 0x1E, val := k })))
    ∧ acts (.kref h o) (fun cx =>
      (s.handleFault c k true = none → x.byref = true →
        exec (.kref h o) s = .next (s.done (.kref h o) (w.wrS F o.d.toNat (x.slots[0]?.getD 0)) cx))
      ∧ (s.handleFault c k true = none → x.byref = false → exec (.kref h o) s = .next (raiseTrap s w cx { cause := 0x1E, val := k })))

/-- Handles and references (13 R259, R261, R264): a reference taken and given back leaves the count; the last one given back frees the
entry and moves GEN on, past 0, so that the old handle is stale; other entries are as they were. -/
def Obligations.ReferenceCounts : Prop :=
  ∀ (s : State) (c : Nat) (h g : Word), s.handleValid c h = true → 1 ≤ (s.handleEntry c h).refcnt →
    let x := s.handleEntry c h
    ((s.addRef c h 1).release c h).handleEntry c h = x
    ∧ (x.refcnt = 1 → (s.release c h).handleValid c h = false
        ∧ ((s.release c h).handleEntry c h).gen = (if x.gen + 1 = 0 then 1 else x.gen + 1))
    ∧ (1 < x.refcnt → (s.release c h).handleValid c h = true ∧ ((s.release c h).handleEntry c h).refcnt = x.refcnt - 1)
    ∧ (hEntry g ≠ hEntry h → (s.release c h).handleEntry c g = s.handleEntry c g)

/-- The user-interrupt forms (13 R273, R274). With a block that translates and is well formed, UIMASK, its CLAIM, UIPEND.TAKE and PEEK
update the context's block and give what stood there; UIRET ends the service and goes on at what the delivery saved, a delivery that is due
following at once; UIWAIT of the lamplighter waits for a delivery. The first four hold for whatever accesses of the block succeed, whole or
piece by piece. UISEND is answered 1 at once when it is refused, gives the answer when it has come to its fragment, and waits while none
has. With no active lane each of them only moves on (05 R126). A malformed block traps, that of a UISEND's target the UISEND as well, which
log 121 chooses; the block is reached as an access of the device, which a leaf with U = 0 does not bar: that is log 41, the model's choice. -/
def Obligations.UserInterruptForms : Prop :=
  ∀ (h : Hdr) (o : OpX) (s : State) (w : Wick) (f : Nat),
    let F := w.actor f
    let c := w.info.ctx
    let blk := s.uiBlock c
    let a := w.rdS F o.a.toNat
    let block (i : Instr) (run : EM Wick) : Prop := Ready i s w f → (w.cx f i).act ≠ 0 → w.touchesLog [(blk, 1024)] = false → ∀ w' t,
      (do uiCheck w.uiAcc blk; run) s = .ok (w', t) → w'.info = w.info → t.findWick w.info.uid = some w → exec i s = .next ((t.putWick w').stepped i (w.cx f i))
    let gives (i : Instr) (w' : Wick) : Prop :=
      ∃ tlb, exec i s = .next (({ s with tlb := tlb }.putWick w').stepped i (w.cx f i))
    let puts (i : Instr) (k : Walk) (off v : Nat) (w' : Wick) : Prop :=
      ∃ tlb, exec i s = .next (((s.putBlock c k off v tlb).putWick w').stepped i (w.cx f i))
    let word (k : Walk) (off : Nat) : Nat := s.blockWord c k off
    let acts (i : Instr) (P : Walk → Prop) : Prop := Ready i s w f → (w.cx f i).act ≠ 0 → w.touchesLog [(blk, 1024)] = false →
      ∀ k, BlockReady s w.info.pkt c k → P k
    block (.uimask h o) (do
      let old ← uiRd w.uiAcc blk 8
      uiWr w.uiAcc blk 8 (match h.sub.toNat with
        | 0 => a
        | 1 => BitVec.ofNat 64 old ||| a
        | _ => BitVec.ofNat 64 old &&& ~~~a).toNat
      pure (w.wrS F o.d.toNat (BitVec.ofNat 64 old)))
    ∧ block (.uimaskClaim h o) (do
      let old ← uiRd w.uiAcc blk 40
      uiWr w.uiAcc blk 40 (w.info.lseq.toNat + w.info.rank % 2 ^ 24 * 2 ^ 32 + 2 ^ 63)
      pure (w.wrS F o.d.toNat (BitVec.ofNat 64 old)))
    ∧ block (.uipendTake h o) (do
      let pend ← uiRd w.uiAcc blk 0
      let mask ← uiRd w.uiAcc blk 8
      match (List.range 64).find? (fun v => pend.testBit v && !mask.testBit v) with
      | none => pure ((w.wrS F o.d.toNat (BitVec.allOnes 64)).wrS F o.b.toNat 0)
      | some v =>
        let p ← uiRd w.uiAcc blk (256 + 8 * v)
        uiWr w.uiAcc blk 0 (setFld pend v 1 0)
        pure ((w.wrS F o.d.toNat (BitVec.ofNat 64 v)).wrS F o.b.toNat (BitVec.ofNat 64 p)))
    ∧ block (.uipendPeek h o) (do
      let pend ← uiRd w.uiAcc blk 0
      pure (w.wrS F o.d.toNat (BitVec.ofNat 64 pend)))
    ∧ acts (.uimask h o) (fun k =>
      let old := BitVec.ofNat 64 (word k 8)
      let new := if h.sub = 0 then a else if h.sub = 1 then old ||| a else old &&& ~~~a
      puts (.uimask h o) k 8 new.toNat (w.wrS F o.d.toNat old))
    ∧ acts (.uimaskClaim h o) (fun k =>
      puts (.uimaskClaim h o) k 40 (w.info.lseq.toNat + w.info.rank % 2 ^ 24 * 2 ^ 32 + 2 ^ 63) (w.wrS F o.d.toNat (BitVec.ofNat 64 (word k 40))))
    ∧ acts (.uipendTake h o) (fun k =>
      let due (v : Nat) : Prop := (word k 0).testBit v = true ∧ (word k 8).testBit v = false
      ((∀ v, v < 64 → ¬ due v) → gives (.uipendTake h o) ((w.wrS F o.d.toNat (BitVec.allOnes 64)).wrS F o.b.toNat 0))
      ∧ (∀ v, v < 64 → due v → (∀ u, u < v → ¬ due u) → puts (.uipendTake h o) k 0 (setFld (word k 0) v 1 0)
          ((w.wrS F o.d.toNat (BitVec.ofNat 64 v)).wrS F o.b.toNat (BitVec.ofNat 64 (word k (256 + 8 * v))))))
    ∧ acts (.uipendPeek h o) (fun k => gives (.uipendPeek h o) (w.wrS F o.d.toNat (BitVec.ofNat 64 (word k 0))))
    ∧ (∀ i ∈ [Instr.uisend h o, .uimask h o, .uimaskClaim h o, .uipendTake h o, .uipendPeek h o, .uiret h o, .uiwait h o],
        Ready i s w f → (w.cx f i).act = 0 → exec i s = .next (s.stepped i (w.cx f i)))
    ∧ (Ready (.uisend h o) s w f → (w.cx f (.uisend h o)).act ≠ 0 →
        let cx := w.cx f (.uisend h o)
        let v := (w.rdS F o.b.toNat).toNat
        let node := a.toNat / 2 ^ 16 % 2 ^ 12
        let told := (w.frag F).wait.send
        let gives (x : Word) : Prop := exec (.uisend h o) s =
          .next (s.done (.uisend h o) ((w.modWait F (fun y => { y with send := none })).wrS F o.d.toNat x) cx)
        (∀ ok, told = some (some ok) → (w.frag F).wait.sendMalf = none → gives (if ok then 0 else 1))
        ∧ (∀ ok m, told = some (some ok) → (w.frag F).wait.sendMalf = some m → exec (.uisend h o) s =
            .next (sweepExit (raiseTrap s (w.modWait F (fun y => { y with send := none, sendMalf := none })) cx { cause := 0x13, val := m }) w cx))
        ∧ (told = some none → exec (.uisend h o) s = .next (s.putWick (w.waits F 14)))
        ∧ (told = none → 64 ≤ v ∨ 2 ^ 28 ≤ a.toNat → gives 1)
        ∧ (told = none → v < 64 → a.toNat < 2 ^ 28 → node ≠ 0xFFF → s.cfg.job = false → gives 1)
        ∧ (told = none → v < 64 → a.toNat < 2 ^ 28 → node = 0xFFF →
            exec (.uisend h o) s = .next (sweepExit ((s.putWick ((w.modWait F (fun y => { y with send := some none, sendNode := node })).stalled 14)).send
              (a.toNat % 2 ^ 16) ⟨.ctx c, v, w.rdS F o.c.toNat, .wick w.info.uid F⟩) w cx)))
    ∧ (Ready (.uiret h o) s w f → (w.cx f (.uiret h o)).act ≠ 0 → s.isStopped c 1 = false → ∀ k, BlockReady s w.info.pkt c k →
        let cx := w.cx f (.uiret h o)
        let i := Instr.uiret h o
        ((word k 64).testBit 0 = true → ∃ tlb, exec i s = .next (sweepExit (userDelivery
            (((s.putBlock c k 64 (setFld (word k 64) 0 1 0) tlb).putWick (w.modFrag F (fun g => { g with qv := w.regs.uiSaveQ }))).went i cx
              w.regs.uiSavePc) c) w cx))
        ∧ ((word k 64).testBit 0 = false → exec i s = .next (raiseTrap s w cx { cause := 0x20 })))
    ∧ (Ready (.uiret h o) s w f → (w.cx f (.uiret h o)).act ≠ 0 → s.isStopped c 1 = false →
        let cx := w.cx f (.uiret h o)
        let i := Instr.uiret h o
        (∀ t, swapInsvc w.uiAcc blk 1 0 s = .ok (true, t) → exec i s =
            .next (sweepExit (userDelivery ((t.putWick (w.modFrag F (fun g => { g with qv := w.regs.uiSaveQ }))).went i cx w.regs.uiSavePc) c) w cx))
        ∧ (∀ t, swapInsvc w.uiAcc blk 1 0 s = .ok (false, t) → exec i s = .next (raiseTrap s w cx { cause := 0x20 })))
    ∧ (Ready (.uiwait h o) s w f → (w.cx f (.uiwait h o)).act ≠ 0 → s.isStopped c 1 = false →
        let cx := w.cx f (.uiwait h o)
        ((w.frag F).uiWait = true → exec (.uiwait h o) s = .next (s.putWick (w.waits F 14)))
        ∧ (∀ k, (w.frag F).uiWait = false → BlockReady s w.info.pkt c k →
            (isLamplighter w (word k 40) = true → (word k 64).testBit 0 = false →
              ∃ tlb, exec (.uiwait h o) s = .next ({ s with tlb := tlb }.putWick ((w.modFrag F (fun g => { g with uiWait := true })).stalled 14)))
            ∧ (isLamplighter w (word k 40) = false ∨ (word k 64).testBit 0 = true → exec (.uiwait h o) s = .next (raiseTrap s w cx { cause := 0x20 })))
        ∧ (∀ lamp x t t' t'', (w.frag F).uiWait = false → uiCheck w.uiAcc blk s = .ok ((), t) → uiRd w.uiAcc blk 40 t = .ok (lamp, t') →
            uiRd w.uiAcc blk 64 t' = .ok (x, t'') →
            (isLamplighter w lamp = true → x % 2 = 0 →
              exec (.uiwait h o) s = .next (sweepExit (t''.putWick ((w.modFrag F (fun g => { g with uiWait := true })).stalled 14)) w cx))
            ∧ (isLamplighter w lamp = false ∨ x % 2 = 1 → exec (.uiwait h o) s = .next (raiseTrap s w cx { cause := 0x20 }))))

/-- A delivery (13 R274) sends the fragment to the handler with its PC and predicates saved, and ends every SLEEP and UIWAIT of the
wick; UIRET to what was saved gives the fragment back where it was. -/
def Obligations.DeliverySaves : Prop :=
  ∀ (w : Wick) (f : Nat) (handler : Word), f < 8 → (w.frag f).uiWait = false →
    let w' := w.deliver f handler
    (w'.frag f).pc = handler ∧ w'.regs.uiSavePc = (w.frag f).pc ∧ w'.regs.uiSaveQ = (w.frag f).qv
    ∧ (∀ g, (w'.frag g).sleep = none ∧ (w'.frag g).uiWait = false ∧ (w'.frag g).mask = (w.frag g).mask ∧ (w'.frag g).own = (w.frag g).own)
    ∧ (∀ g, g ≠ f → (w.frag g).uiWait = true → g < 8 → (w'.frag g).pc = pcNext (w.frag g).pc)
    ∧ w'.regs.s = w.regs.s ∧ w'.regs.v = w.regs.v ∧ w'.regs.p = w.regs.p ∧ w'.live = w.live ∧ w'.info = w.info

/-- Service calls (13 R276 to R278): SVC appends its request, and then speculates with the prediction in D, or waits for its fragment's reply
under NOSPEC, the call's D taking it when it has come; SVCW has no effect when no call is outstanding, and with no active lane neither has
SVC (05 R126); a reply equal to the prediction performs the buffered stores, any other takes the wick back to just after the SVC with the
reply in D, what its fragments wait for meanwhile standing as it is. A full ring is waited for, which with the ring's form is log 12. -/
def Obligations.ServiceForms : Prop :=
  ∀ (h : Hdr) (o : OpX) (s : State) (w : Wick) (f : Nat),
    let F := w.actor f
    let id := o.imm.toNat % 2 ^ 16
    let d := o.d.toNat
    (Ready (.svc h o) s w f → (w.cx f (.svc h o)).act = 0 → exec (.svc h o) s = .next (s.stepped (.svc h o) (w.cx f (.svc h o))))
    ∧ (Ready (.svc h o) s w f → (w.cx f (.svc h o)).act ≠ 0 →
      let cx := w.cx f (.svc h o)
      let token := BitVec.ofNat 64 (s.calls + 1)
      let told := (w.frag F).wait.svc
      (∀ k v, told = some (k, some v) → exec (.svc h o) s =
        .next (s.done (.svc h o) ((w.modWait F (fun y => { y with svc := none })).wrS F d v) cx))
      ∧ (∀ k, told = some (k, none) → exec (.svc h o) s = .next (s.putWick (w.waits F 13)))
      ∧ (∀ t, told = none → sendRequest s w.uiAcc (svcRequest w F id token) s = .ok (true, t) →
          t.findWick w.info.uid = some w →
          let t1 : State := { t with calls := t.calls + 1, requests := t.requests ++ [⟨token, w.info.uid, id⟩] }
          let p := if o.flags.getLsbD 0 then w.rdS F o.b.toNat else t.predicted w.info.coreId id
          let w1 := w.wrS F d p
          (o.flags.getLsbD 1 = true → exec (.svc h o) s =
            .next (t1.putWick ((w.modWait F (fun y => { y with svc := some (⟨d, id, none, token, F⟩, none) })).stalled 13)))
          ∧ (o.flags.getLsbD 1 = false → exec (.svc h o) s = .next (({ t1 with
              snaps := ((w1.popPorts (.svc h o)).setPc cx (pcNext cx.pc)) :: t1.snaps.filter (fun x => x.info.uid != w.info.uid) }.putWick
                { w1 with books := { w1.books with svc := some ⟨d, id, some p, token, F⟩ } }).stepped (.svc h o) cx)))
      ∧ (∀ t, told = none → sendRequest s w.uiAcc (svcRequest w F id token) s = .ok (false, t) →
          exec (.svc h o) s = .next (s.putWick (w.waits F 13))))
    ∧ (Ready (.svcw h o) s w f → w.books.svc = none ∨ (w.cx f (.svcw h o)).act = 0 →
        exec (.svcw h o) s = .next (s.stepped (.svcw h o) (w.cx f (.svcw h o))))
    ∧ (∀ (k : SvcCall) (p v : Word), w.books.svc = some k → k.pred = some p → w.books.reply = some v →
        (p = v → w.books.held = none → ∃ older, resolveSvc s w = ({ s with
            mem := w.view s
            older := older
            snaps := s.snaps.filter (fun x => x.info.uid != w.info.uid) }.putWick
              { w with books := { w.books with svc := none, reply := none, ssb := [], held := none } }))
        ∧ (p ≠ v → ∀ w0, s.snaps.find? (fun x => x.info.uid == w.info.uid) = some w0 →
            let w1 := { w0 with
              info := w.info
              frags := Vector.ofFn (fun i : Fin 8 => { w0.frag i.val with wait := (w.frag i.val).wait })
              books := { w0.books with stall := w.books.stall } }.wrS k.frag k.d v
            resolveSvc s w = ({ s with snaps := s.snaps.filter (fun x => x.info.uid != w.info.uid) }.putWick
              { w1 with books := { w1.books with svc := none, reply := none, ssb := [], held := none } })))

/-! ### The entity store (11) -/

/-- The entity instructions (11 R236 to R244) with the launch's world and its records well formed. ECRT reserves a handle and queues a
create for each active lane, EDEL, EADD and EREM queue their change, each lane with its change number; HRES resolves handles to an
address, or under SUB 1 to table and row, with a predicate bit a lane; ESTAT gives the outcome of a change number; ECOL, EQRY and ECNT
give one scalar, from the descriptors and columns that its form asks for and no others. A launch without a world traps with cause 0x1B. The
forms go on while nothing logged for the wick touches what they read and write (17 R356), or in single-lane mode. -/
def Obligations.EntityForms : Prop :=
  ∀ (h : Hdr) (o : OpX) (s : State) (w : Wick) (f : Nat),
    let F := w.actor f
    let a := (w.rdS F o.a.toNat).toNat
    let sub := h.sub.toNat
    let clear (cx : Cx) : Prop := cx.sl = true ∨ ∀ rs, w.touchesLog rs = false
    let lanes (i : Instr) (n : Nat) (bad : Cx → World → Mask) (lane : World → Nat → EM (List Nat)) (more : Cx → List (Nat × List Nat) → Wick → Wick) : Prop :=
      Ready i s w f →
      let cx := w.cx f i
      cx.act ≠ 0 → (∀ k, k < n → narrow (o.d.toNat + k) = false) →
      (worldAddr s w = 0 → exec i s = .next (raiseTrap s w cx { cause := 0x1B, mask := cx.act }))
      ∧ (∀ x t u vs, worldAddr s w ≠ 0 → clear cx → readWorld ⟨w.info.ctx, cx.sl, w.info.pkt⟩ (worldAddr s w) s = .ok (x, t) → bad cx x = 0 →
          eLanes (lane x) (lanesOf cx.act) t [] [] = .ok (u, vs, []) → u.findWick w.info.uid = some w →
          ∃ w', exec i s = .next ((u.putWick (more cx vs w')).stepped i cx) ∧ VecOnly w w'
            ∧ (∀ y ∈ vs, ∀ k, k < n → (w'.rdV (o.d.toNat + k)).lane y.1 = BitVec.ofNat 32 (y.2[k]?.getD 0))
            ∧ (∀ m, m < o.d.toNat ∨ o.d.toNat + n ≤ m → w'.rdV m = w.rdV m))
    let once (i : Instr) (bad : World → Prop) (value : World → EM Nat) : Prop := Ready i s w f →
      let cx := w.cx f i
      cx.act ≠ 0 →
      (worldAddr s w = 0 → exec i s = .next (raiseTrap s w cx { cause := 0x1B }))
      ∧ (∀ x t u v, worldAddr s w ≠ 0 → clear cx → readWorld ⟨w.info.ctx, cx.sl, w.info.pkt⟩ (worldAddr s w) s = .ok (x, t) → ¬ bad x → value x t = .ok (v, u) →
          u.findWick w.info.uid = some w → exec i s = .next ((u.putWick (w.wrS F o.d.toNat (BitVec.ofNat 64 v))).stepped i cx))
    let low (r : BitVec 8) (l : Nat) : Nat := ((w.rdV r.toNat).lane l).toNat % 2 ^ 16
    let ended (r : BitVec 8) (limit : World → Nat) (cx : Cx) (x : World) : Mask := maskOf (fun l => cx.act.getLsbD l && decide (low r l ≥ limit x))
    let counts (_ : Cx) (_ : List (Nat × List Nat)) (w' : Wick) : Wick := { w' with books := { w'.books with iseq := w'.books.iseq + 1 } }
    let change (k : Nat) (x : World) (l : Nat) : EM (List Nat) := do
      let n ← changeLane x (fun n => laneChange s w k l n (rdLane w .i64 o.a.toNat l) (if k = 1 then 0 else low o.b l))
      pure [n]
    lanes (.ecrt h o) 3 (ended o.a World.ntab) (fun x l => do
        let (hd, n) ← createLane x (fun n hd => laneChange s w 0 l n hd (low o.a l))
        pure [hd % 2 ^ 32, hd / 2 ^ 32, n]) counts
    ∧ lanes (.edel h o) 1 (fun _ _ => 0) (change 1) counts ∧ lanes (.eadd h o) 1 (ended o.b World.ncomp) (change 2) counts
    ∧ lanes (.erem h o) 1 (ended o.b World.ncomp) (change 3) counts
    ∧ lanes (.hres h o) 2 (fun cx x => if sub = 1 then 0 else ended o.b World.ncomp cx x)
        (fun x l => hresLane x (h.sub == 1) (rdLane w .i64 o.a.toNat l) (low o.b l))
        (fun cx vs w' => w'.wrP (o.c.toNat % 16) cx.act (maskOf (fun l => vs.any (fun y => y.1 == l && y.2[2]? == some 1))))
    ∧ lanes (.estat h o) 1 (fun _ _ => 0) (fun x l => estatLane x ((w.rdV o.a.toNat).lane l).toNat) (fun _ _ w' => w')
    ∧ once (.ecol h o) (fun x => x.ntab ≤ a % 2 ^ 16 ∨ (sub = 0 ∧ x.ncomp ≤ (w.rdS F o.b.toNat).toNat % 2 ^ 16)) (fun x => do
        if sub = 0 then
          let k ← findCol x (a % 2 ^ 16) ((w.rdS F o.b.toNat).toNat % 2 ^ 16)
          pure ((k.map Column.base).getD 0)
        else
          let tb ← readDesc x (a % 2 ^ 16)
          pure (if sub = 1 then tb.hbase else tb.lbase))
    ∧ once (.eqry h o) (fun _ => a % 8 ≠ 0 ∨ 2 ^ 57 < a + 32) (fun x => do
        let q ← readQuery x a
        queryFrom x q ((w.rdS F o.b.toNat).toNat % 2 ^ 32))
    ∧ once (.ecnt h o) (fun x => sub ≠ 3 ∧ x.ntab ≤ a % 2 ^ 16) (fun x =>
        if sub = 3 then x.get 88
        else do
          let tb ← readDesc x (a % 2 ^ 16)
          if sub = 0 then tb.live x else if sub = 1 then tb.rows x else pure tb.cap)

/-! ### The matrix engine (09) -/

/-- The matrix forms (09 R208 to R225) of a converged wick whose checks pass, while the core's engine has room: the instruction enters the
engine last with its operands as they stand, D takes its token, and a drain with BYP, an MLDW and MZERO of the latches leave their
descriptors; nothing is computed yet. MWAIT goes on once the wick's instructions are done, and raises the trap of one that failed; MSTAT
reads the state of a token or MFLAGS. -/
def Obligations.MatrixForms : Prop :=
  ∀ (h : Hdr) (o : OpX) (s : State) (w : Wick) (f : Nat),
    let F := w.actor f
    let core := w.info.coreId
    let m := s.matrix core
    let sa := (w.rdS F o.a.toNat).toNat
    let b := (w.rdS F o.b.toNat).toNat
    let x := (w.rdS F o.c.toNat).toNat
    let sub := h.sub.toNat
    let regs (lo n : Nat) : List VReg := if o.flags.getLsbD 4 then captured w (o.imm.toNat / 2 ^ lo % 2 ^ 8) n else []
    let enters (i : Instr) (t : State) (x : MInstr) (desc : Matrix → Matrix) : Prop := Ready i s w f → wickWide w (w.cx f i) = true →
      engineFull m = false →
      let m' := desc { m with seq := m.seq + 1 }
      let x' := { x with seq := m.seq + 1, uid := w.info.uid, pkt := w.info.pkt, rank := w.info.rank, ctx := w.info.ctx }
      exec i s = .next (((t.putMatrix { m' with queue := purge m' ++ [x'] }).putWick
        (w.wrS F o.d.toNat (BitVec.ofNat 64 (matrixToken w.info.cluster w.info.core (m.seq + 1))))).stepped i (w.cx f i))
    let product (k : MKind) (ok : MInstr → Prop) : Prop :=
      let i := baseInstr k h o x
      let a := if i.strm then sa % 2 ^ 20 else sa
      let rows := if k = .mmas then sparseRows sub (32 * i.kb) i.sm i.sn else 32 * i.kb * esB sub / 4
      scalesFault w o i.kb = none → mmaShapeOk k sub x i.abyp i.wlat = true → (i.abyp = true → m.adesc = some (fmtA sub, i.m, 32 * i.kb)) →
      (i.wlat = true → m.wdesc = some (sub, 32 * i.kb, i.n)) →
      operandFault s w (if i.abyp then none else some (512, [(a, (if k = .mmac then i.kb / 4 else i.kb) * i.m * 32 * esA sub)]))
        (if i.wlat then none else some (512, [(b, spanB rows i.n)])) = none →
      ok { i with a := a, b := b, wcount := sa / 2 ^ 20 % 2 ^ 44, sa := regs 8 i.kb, sb := regs 16 i.kb }
    product .mma (fun i => enters (.mma h o) s i id)
    ∧ product .mmas (fun i => enters (.mmas h o) s i id)
    ∧ (∀ r bd, w.info.bands[o.flags.toNat / 2 ^ 11 % 2 ^ 2]? = some r → s.findBand r.band = some bd → bd.members.length = 16 → bd.place = 1 →
        let turn := bd.mmacs[r.pos]?.getD 0
        product .mmac (fun i => enters (.mmac h o)
          (s.modBand bd.uid (fun b => { b with mmacs := b.mmacs.setIfInBounds r.pos (turn + 1) }))
          { i with band := bd.uid, pos := r.pos, turn := turn } id))
    ∧ enters (.mzero h o) s (baseInstr .mzero h o 0) id
    ∧ enters (.mzeroLat h o) s (baseInstr .mzeroLat h o 0) (fun m => { m with adesc := none, wdesc := none })
    ∧ (let i := baseInstr .mdrain h o x
       scalesFault w o 1 = none → drainShapeOk sub x i.byp i.rowm = true →
       operandFault s w (if i.byp then none else some (if i.rowm then 4 else 512, drainRuns i sa)) none = none →
       enters (.mdrain h o) s { i with a := sa, sa := regs 8 1, sb := regs 16 1 }
         (fun m => if i.byp then { m with adesc := some (drainFmt sub, i.m, i.n) } else m))
    ∧ (let i := baseInstr .mldw h o x
       mldwShapeOk sub x = true → operandFault s w none (some (512, [(b, spanB (32 * i.kb * esB sub / 4) i.n)])) = none →
       enters (.mldw h o) s { i with b := b } (fun m => { m with wdesc := some (sub, 32 * i.kb, i.n) }))
    ∧ (Ready (.mwait h o) s w f → wickWide w (w.cx f (.mwait h o)) = true →
        let cx := w.cx f (.mwait h o)
        let upto := if h.sub = 0 then tokenSeq m w sa else none
        let mine := m.queue.filter (fun i => i.uid == w.info.uid && (match upto with
          | some q => decide (i.seq ≤ q)
          | none => true))
        (mine.any (fun i => !i.done) = false → mine.find? (fun i => i.failed && !i.reported) = none →
          exec (.mwait h o) s = .next (s.stepped (.mwait h o) cx))
        ∧ (mine.any (fun i => !i.done) = true → exec (.mwait h o) s = .next (s.putWick (w.waits F 7)))
        ∧ (∀ i, mine.any (fun i => !i.done) = false → mine.find? (fun i => i.failed && !i.reported) = some i →
            exec (.mwait h o) s =
              .next (raiseTrap (s.modMInstr core i.seq (fun i => { i with reported := true })) w cx (failedTrap i))))
    ∧ (Ready (.mstat h o) s w f → (w.cx f (.mstat h o)).act ≠ 0 →
        let gives (w' : Wick) : Prop := exec (.mstat h o) s = .next (s.done (.mstat h o) w' (w.cx f (.mstat h o)))
        let idle := m.queue.any (fun i => i.uid == w.info.uid && !i.done) = false
        let w' := w.wrS F o.d.toNat (w.books.mflags.setWidth 64)
        (h.sub = 0 → gives (w.wrS F o.d.toNat (BitVec.ofNat 64 (mstatVal s w sa))))
        ∧ (h.sub = 1 → idle → gives w') ∧ (h.sub = 2 → idle → gives { w' with books := { w'.books with mflags := 0 } }))
    ∧ (∀ i ∈ [Instr.mma h o, .mmas h o, .mmac h o, .mzero h o, .mzeroLat h o, .mdrain h o, .mldw h o, .mwait h o], Ready i s w f →
        wickWide w (w.cx f i) = false → exec i s = .next (raiseTrap s w (w.cx f i) { cause := 0x0A }))

/-! ### Work graphs and rendering (13 R281 to R283; 14 R285 to R304) -/

/-- Emission (13 R281, R283): EMIT writes one record a lane to free slots of its node's queue and waits while there are too few; NODEFIN
retires the records of its lanes. Rendering (14 R290 to R295): BIN appends its lanes' primitives to the bins of their tiles, all of them or
none (log 16), where no logged access may touch those bins; RAST gives each active lane the next covered sample, with EQZ the next of equal
depth, its weights and its depth, and leaves in s[B] the next covered sample, whatever its depth; ZTEST and RTW touch only the samples their lanes name, in ascending order of
lanes; TILEF queues a flush and writes nothing yet. TEX and CONT (14 R302, R304) leave as continuation records. Each raises its trap outside
the phase it belongs to. BIN and RAST with no active lane still write their scalar result (log 40). -/
def Obligations.GraphAndRenderForms : Prop :=
  ∀ (h : Hdr) (o : OpX) (s : State) (w : Wick) (f : Nat),
    let F := w.actor f
    let x (j l : Nat) : Nat := ((w.rdV (o.a.toNat + j)).lane l).toNat
    let b := (w.rdS F o.b.toNat).toNat
    let node := b % 2 ^ 16
    let whole (i : Instr) (P : Cx → Prop) : Prop := Ready i s w f → P (w.cx f i)
    let acts (i : Instr) (P : Cx → Prop) : Prop := whole i (fun cx => cx.act ≠ 0 → P cx)
    let traps (i : Instr) (cx : Cx) (t : TrapInfo) : Prop := exec i s = .next (raiseTrap s w cx t)
    acts (.emit h o) (fun cx =>
      (s.graphOf w = none → traps (.emit h o) cx { cause := 0x21, val := BitVec.ofNat 64 node })
      ∧ (∀ g d s1, s.graphOf w = some g → node < g.count → readNode g node s = .ok (d, s1) → runOk w o.a.toNat (d.recb / 4) = true →
          let ls := lanesOf cx.act
          let slots := g.freeSlots node d.qcap ls.length
          (d.maxDepth < w.info.nodeDepth + 1 → traps (.emit h o) cx { cause := 0x22, val := BitVec.ofNat 64 node })
          ∧ (w.info.nodeDepth + 1 ≤ d.maxDepth → slots.length < ls.length → exec (.emit h o) s = .next (s.putWick (w.waits F 8)))
          ∧ (∀ s2, w.info.nodeDepth + 1 ≤ d.maxDepth → ls.length ≤ slots.length →
              writeRecs g d (slots.zip (ls.map (fun l => packElems 32 ((List.range (d.recb / 4)).map (fun j => x j l))))) s1 = .ok ((), s2) →
              s2.findWick w.info.uid = some w → exec (.emit h o) s = .next ((s2.putGraph { g with
                waiting := g.waiting ++ slots.map (fun n => ⟨node, n, w.info.nodeDepth + 1, s.now⟩) }).stepped (.emit h o) cx))))
    ∧ acts (.nodefin h o) (fun cx =>
      (inNodeLaunch s w = true → exec (.nodefin h o) s = .next ((retireRecs s w.info.uid cx.act).stepped (.nodefin h o) cx))
      ∧ (inNodeLaunch s w = false → traps (.nodefin h o) cx { cause := 0x21 }))
    ∧ whole (.bin h o) (fun cx =>
      (inGeometry s w = false → traps (.bin h o) cx { cause := 0x23 })
      ∧ (∀ l n t, inGeometry s w = true → runOk w o.a.toNat 16 = true → s.launchOf w = some l →
          (cx.sl = true ∨ w.touchesLog ((lanesOf cx.act).flatMap (fun i =>
            (binTiles l.pass (o.flags.toNat % 4) (fun j => x j i)).map (fun t => (binAddr l.pass t, 64 * (pBincap l.pass + 1))))) = false) →
          sumM (fun i => sumM (binAppend ⟨w.info.ctx, cx.sl, w.info.pkt⟩ l.pass (packElems 32 ((List.range 16).map (fun j => x j i))))
            (binTiles l.pass (o.flags.toNat % 4) (fun j => x j i))) (lanesOf cx.act) s = .ok (n, t) →
          t.findWick w.info.uid = some w →
          exec (.bin h o) s = .next ((t.putWick (w.wrS F o.d.toNat (BitVec.ofNat 64 n))).stepped (.bin h o) cx)))
    ∧ whole (.rast h o) (fun cx =>
      (tileOf s w = none → traps (.rast h o) cx { cause := 0x23 })
      ∧ (∀ r tile base, tileOf s w = some (r, tile, base) → runOk w o.a.toNat 9 = true → o.d.toNat + 4 ≤ min w.info.ng 128 →
          (∀ j, j < 9 → (w.rdV (o.a.toNat + j)).isU = true) → b / 2 ^ 13 = 0 →
          let tri : Option Walked := (triangle w.regs.ftz (fun j => x j 0)).map (fun (p0, p1, p2) => ⟨r, tile, p0, p1, p2, (x 2 0, x 5 0, x 8 0), w.regs.ftz⟩)
          let next (q : Nat) : Option Nat := tri.bind (fun t => t.next s.mem base (h.sub == 1) q)
          let (got, q) := rastLanes next (lanesOf cx.act) b []
          let mask := maskOf (fun i => got.any (fun y => y.1 == i))
          ∃ w1 : Wick, VecOnly w w1
            ∧ exec (.rast h o) s = .next (s.done (.rast h o)
                ((w1.wrP (o.c.toNat % 16) cx.act mask).wrS F o.b.toNat
                  (BitVec.ofNat 64 ((tri.bind (fun t => t.next s.mem base false q)).getD 0))) cx)
            ∧ (∀ t i j, tri = some t → got.find? (fun y => y.1 == i) = some (i, j) → i < 32 →
                (w1.rdV (o.d.toNat + 1)).lane i = BitVec.ofNat 32 (t.values j).1
                ∧ (w1.rdV (o.d.toNat + 2)).lane i = BitVec.ofNat 32 (t.values j).2.1
                ∧ (w1.rdV (o.d.toNat + 3)).lane i = BitVec.ofNat 32 (t.values j).2.2
                ∧ ((w1.rdV o.d.toNat).lane i).toNat % 2 ^ 12 = j % 2 ^ 12)
            ∧ (∀ k, k < o.d.toNat ∨ o.d.toNat + 4 ≤ k → w1.rdV k = w.rdV k)))
    ∧ whole (.ztest h o) (fun cx =>
      (tileOf s w = none → traps (.ztest h o) cx { cause := 0x23 })
      ∧ (∀ r tile base, tileOf s w = some (r, tile, base) →
          let bad := sampleOver w cx o r
          let (m, ok) := ztestLanes w.regs.ftz base h.sub.toNat (o.flags.getLsbD 0) (laneSample w o) (fun i => ((w.rdV o.b.toNat).lane i).toNat)
            (lanesOf cx.act) s.mem 0
          (bad ≠ 0 → traps (.ztest h o) cx { cause := 0x23, mask := bad })
          ∧ (bad = 0 → exec (.ztest h o) s = .next (({ s with mem := m }.putWick (w.wrP (o.d.toNat % 16) cx.act ok)).stepped (.ztest h o) cx))
          ∧ (o.flags.getLsbD 0 = false → m = s.mem) ∧ ok &&& ~~~ cx.act = 0
          ∧ (s.memWf → ∀ k, (∀ i, i < 32 → cx.act.getLsbD i = true →
              k < depthKey base (laneSample w o i) ∨ depthKey base (laneSample w o i) + 4 ≤ k) → m.get k = s.mem.get k)))
    ∧ whole (.rtw h o) (fun cx =>
      (tileOf s w = none → traps (.rtw h o) cx { cause := 0x23 })
      ∧ (∀ r tile base, tileOf s w = some (r, tile, base) →
          let j := o.flags.toNat % 2
          let key (i : Nat) : Nat := colourKey r base j (laneSample w o i)
          let m := rtwLanes w.regs.ftz key h.sub.toNat (pFmt r j) (fun i => ((w.rdV o.b.toNat).lane i).toNat) (lanesOf cx.act) s.mem
          (pTargets r ≤ j ∨ (h.sub = 2 ∧ pFmt r j ≠ 0) → traps (.rtw h o) cx { cause := 0x23 })
          ∧ (j < pTargets r → (h.sub = 2 → pFmt r j = 0) → sampleOver w cx o r = 0 →
              exec (.rtw h o) s = .next ({ s with mem := m }.stepped (.rtw h o) cx))
          ∧ (s.memWf → ∀ k, (∀ i, i < 32 → cx.act.getLsbD i = true → k < key i ∨ key i + 4 ≤ k) → m.get k = s.mem.get k)))
    ∧ acts (.tilef h o) (fun cx =>
      (tileOf s w = none → traps (.tilef h o) cx { cause := 0x23 })
      ∧ (∀ r tile base, tileOf s w = some (r, tile, base) →
          let tm := o.flags.toNat % 4
          let y := addFlush s w.info.coreId w.info.cluster w.info.core w.info.uid w.info.pkt w.info.rank w.info.ctx r tile base tm
            (o.flags.getLsbD 2) false
          (2 ^ pTargets r ≤ tm → traps (.tilef h o) cx { cause := 0x23 })
          ∧ (tm < 2 ^ pTargets r → exec (.tilef h o) s = .next ((y.1.putWick (w.wrS F o.d.toNat y.2)).stepped (.tilef h o) cx))
          ∧ y.1.mem = s.mem))
    ∧ acts (.tex h o) (fun cx =>
      ∀ s1 d, liveMaskOk w o.imm = true → runOk w o.a.toNat 2 = true → b % 32 = 0 → s.record w cx b 32 = some (s1, d) →
        (texDescOk d = false → traps (.tex h o) cx { cause := 0x13, val := BitVec.ofNat 64 b })
        ∧ (texDescOk d = true → s1.pushConts w (lanesOf cx.act) 0 (fun _ => pcNext cx.pc) (fun _ => 0) (o.imm.setWidth 16) = none →
            exec (.tex h o) s = .next (s.putWick (w.waits F 8)))
        ∧ (∀ s2 recs, texDescOk d = true →
            s1.pushConts w (lanesOf cx.act) 0 (fun _ => pcNext cx.pc) (fun _ => 0) (o.imm.setWidth 16) = some (s2, recs) →
            let s3 : State := { s2 with texels := s2.texels ++ recs.map (fun (l, u) =>
              ({ record := u, ctx := w.info.ctx, desc := d, u := (w.rdV o.a.toNat).lane l, v := (w.rdV (o.a.toNat + 1)).lane l, uid := w.info.uid } : Texel)) }
            exec (.tex h o) s = .next (sweepExit (s3.putWick ((w.moved (.tex h o) cx s3.now (pcNext cx.pc)).retire F cx.act)) w cx)))
    ∧ acts (.cont h o) (fun cx =>
      let pc (l : Nat) : Word := pairHandle w o l
      let bad := (lanesOf cx.act).filter (fun l => !pcForm (pc l))
      let pushed := s.pushConts w (lanesOf cx.act) 2 pc (fun _ => 0) (o.imm.setWidth 16)
      liveMaskOk w o.imm = true →
      (∀ t, handleTrap 0x03 pc bad = some t → traps (.cont h o) cx t)
      ∧ (bad = [] → pushed = none → exec (.cont h o) s = .next (s.putWick (w.waits F 8)))
      ∧ (∀ s1 recs, bad = [] → pushed = some (s1, recs) →
          let s2 := recs.foldl (fun s y => s.finalize y.2 (Vector.replicate 4 0)) s1
          exec (.cont h o) s = .next (sweepExit (s2.putWick ((w.moved (.cont h o) cx s2.now (pcNext cx.pc)).retire F cx.act)) w cx)))

/-! ### The Lantern (14 R306 to R322) -/

/-- The ray instructions (14 R316 to R320). TRACE checks its operands, waits for room, and its lanes leave as records with a ray each,
which take a reference on their handle; RSUSP marks the rays in its range and its fragment waits until they have gone; RRES claims the records its lanes
name; LNTP installs a program, waiting while a ray runs its slot. TRACE takes references only on a valid handle (log 62), and which rays RSUSP
waits for is log 98's. -/
def Obligations.LanternForms : Prop :=
  ∀ (h : Hdr) (o : OpX) (s : State) (w : Wick) (f : Nat),
    let F := w.actor f
    let c := w.info.ctx
    let acts (i : Instr) (P : Cx → Prop) : Prop := Ready i s w f → (w.cx f i).act ≠ 0 → P (w.cx f i)
    let traps (i : Instr) (cx : Cx) (t : TrapInfo) : Prop := exec i s = .next (raiseTrap s w cx t)
    acts (.trace h o) (fun cx =>
      let kh := w.rdK o.c.toNat
      let lanes := lanesOf cx.act
      let slot := fld o.flags.toNat 0 4
      let held := s.handleValid c kh
      let aligned : Prop := (w.rdS F (o.b.toNat + 1)).toNat % 256 = 0
      let sound : Prop := liveMaskOk w o.imm = true ∧ runOk w o.a.toNat 8 = true ∧ o.b.toNat % 2 = 0 ∧ (s.findProgram c slot).isSome = true ∧ aligned
        ∧ (held = true → s.refRoom c kh lanes.length = true)
      let pushed := s.pushConts w lanes 1 (fun _ => pcNext cx.pc) (fun _ => 0) (o.imm.setWidth 16)
      (liveMaskOk w o.imm = true → (runOk w o.a.toNat 8 = false ∨ o.b.toNat % 2 ≠ 0 ∨ s.findProgram c slot = none ∨ ¬ aligned) →
        traps (.trace h o) cx { cause := 0x24 })
      ∧ (sound → (s.rayRoom w.info.coreId < lanes.length ∨ pushed = none) → exec (.trace h o) s = .next (s.putWick (w.waits F 8)))
      ∧ (∀ s1 recs, sound → lanes.length ≤ s.rayRoom w.info.coreId → pushed = some (s1, recs) →
          let s2 := addRays (traceRay w cx o) recs (if held then s1.addRef c kh lanes.length else s1)
          exec (.trace h o) s = .next (sweepExit (s2.putWick ((w.moved (.trace h o) cx s2.now (pcNext cx.pc)).retire F cx.act)) w cx)))
    ∧ acts (.rsusp h o) (fun cx =>
      let ids := suspRange s c (w.rdS F o.a.toNat) (w.rdS F o.b.toNat)
      let marked : State := { s with rays := s.rays.map (fun (r : Ray) => if ids.contains r.id then { r with suspend := true } else r) }
      let mine := (w.frag F).wait.rsusp
      (∀ n, mine = some ([], n) → exec (.rsusp h o) s =
        .next (s.done (.rsusp h o) ((w.modWait F (fun y => { y with rsusp := none })).wrS F o.d.toNat (BitVec.ofNat 64 n)) cx))
      ∧ (∀ y l n, mine = some (y :: l, n) → exec (.rsusp h o) s = .next (s.putWick (w.waits F 9)))
      ∧ (mine = none → ids = [] → exec (.rsusp h o) s = .next (s.done (.rsusp h o) (w.wrS F o.d.toNat 0) cx))
      ∧ (mine = none → ids ≠ [] → exec (.rsusp h o) s =
          .next (marked.putWick ((w.modWait F (fun y => { y with rsusp := some (ids, 0) })).stalled 9))))
    ∧ acts (.rres h o) (fun cx =>
      let hd := pairHandle w o
      let lanes := lanesOf cx.act
      let ended := lanes.filter (fun l => decide ((hd l).toNat + 256 > 2 ^ 57))
      let whole := (lanes.filter (fun l => (hd l).toNat % 256 == 0)).map (fun l => (l, (hd l).toNat))
      liveMaskOk w o.imm = true →
      (∀ t, handleTrap 0x10 hd ended = some t → traps (.rres h o) cx t)
      ∧ (ended = [] → s.rayRoom w.info.coreId < lanes.length → exec (.rres h o) s = .next (s.putWick (w.waits F 8)))
      ∧ (∀ s1 s2 recs, ended = [] → lanes.length ≤ s.rayRoom w.info.coreId → claimable s c cx.sl whole = ([], s1) →
          s1.pushConts w lanes 3 (fun _ => pcNext cx.pc) (fun _ => 0) (o.imm.setWidth 16) = some (s2, recs) →
          let s3 := rresLanes w o hd recs s2
          exec (.rres h o) s = .next (sweepExit (s3.putWick ((w.moved (.rres h o) cx s3.now (pcNext cx.pc)).retire F cx.act)) w cx)))
    ∧ acts (.lntp h o) (fun cx =>
      let a := (w.rdS F o.a.toNat).toNat
      let b := (w.rdS F o.b.toNat).toNat
      let p := (w.rdS F o.c.toNat).toNat
      let slot := a % 2 ^ 4
      let len := a / 2 ^ 8 % 2 ^ 7
      let sound : Prop := a / 2 ^ 15 % 2 ^ 49 = 0 ∧ a / 2 ^ 4 % 2 ^ 4 = 0 ∧ 1 ≤ len ∧ len ≤ 64
      (¬ sound → traps (.lntp h o) cx { cause := 0x24 })
      ∧ (∀ s1 s2 l m, sound → s.record w cx b 32 = some (s1, l) → s1.record w cx p (4 * len) = some (s2, m) →
          let code := elems 32 len m
          let running : Bool := s2.rays.any (fun r => r.ctx == c && r.prog == slot && !r.rest)
          (b % 32 ≠ 0 ∨ layoutOk l = false → traps (.lntp h o) cx { cause := 0x13, val := BitVec.ofNat 64 b })
          ∧ (b % 32 = 0 → layoutOk l = true → (p % 4 ≠ 0 ∨ code.all microOk = false) →
              traps (.lntp h o) cx { cause := 0x13, val := BitVec.ofNat 64 p })
          ∧ (b % 32 = 0 → layoutOk l = true → p % 4 = 0 → code.all microOk = true →
              (running = true → exec (.lntp h o) s = .next (s.putWick (w.waits F 9)))
              ∧ (running = false → exec (.lntp h o) s = .next ((s2.install ⟨c, slot, l, code⟩).stepped (.lntp h o) cx)
                  ∧ (s2.install ⟨c, slot, l, code⟩).findProgram c slot = some ⟨c, slot, l, code⟩))))

/-- The microinstructions (14 R312 to R317), on a ray that runs and whose program has this word at its MPC. NODE leaves the ray when it is
to suspend or its budget is used up, faults on a reference that names no node, and otherwise fetches the node; BOXN tests its children;
ORDER sorts the hit ones; PUSHC pushes all but the nearest and goes to it; POP takes the last pushed; LEAF and PRIM walk a leaf; HIT, CALLK,
ACCEPT and IGNORE judge a candidate; SETT, JMP, JIF and CNT work on the ray's own fields; TERM and DONE leave with status 3 and 2. The causes of
BOXN and PUSHC for bad references are log 60's. The model's choices of log 61 are the node PUSHC reads after a resumption, that PUSHC faults
where CUR is no node and LEAF and PRIM where it is no leaf, that SETT, JIF and CNT with a code outside the tables fault when they are executed,
and that MPC stays at TERM and DONE. -/
def Obligations.MicroForms : Prop :=
  ∀ (s : State) (r : Ray) (p : Program) (sel op : BitVec 2) (neg : Bool) (cond : BitVec 4) (target : BitVec 6) (value : BitVec 8),
    s.cur = .ray r.id → s.findRay r.id = some r → r.leaving = none → r.waits = none → (r.rest = false ∨ r.atPoint s = false) →
    s.findProgram r.ctx r.prog = some p → r.mpc < p.code.length → r.micros < 4096 →
    let gives (i : Instr) (t : State) : Prop := exec i s = .next t
    let ray (i : Instr) (r' : Ray) : Prop := gives i (s.putRay r'.nextM)
    let node : Bool := refKind r.cur == .node
    let leaf : Bool := refKind r.cur == .leaf
    let suspends (i : Instr) (P : Prop) : Prop := (r.suspend = true → gives i (leaveRay s r 4 0)) ∧ (r.suspend = false → P)
    let wrong (i : Instr) : Prop := gives i (faultRay s r (if refKind r.cur = .null ∨ refKind r.cur = .bad then 7 else 5))
    suspends .mNode
      ((r.blim = true ∧ r.budget = 0 → gives .mNode (leaveRay s r 4 0))
       ∧ (r.blim = false ∨ r.budget ≠ 0 →
           (node = false → wrong .mNode)
           ∧ (∀ va e t, node = true → rayFetch s r r.cur.toNat (lyNodeBytes p.layout) = (.error (va, e), t) → gives .mNode (pageRay t r va e))
           ∧ (∀ b t, node = true → rayFetch s r r.cur.toNat (lyNodeBytes p.layout) = (.ok b, t) → gives .mNode (t.putRay { r with
               node := some (r.cur.toNat, b), boxes := none, steps := (r.steps + 1) % 2 ^ 32,
               budget := if r.blim then r.budget - 1 else r.budget, fN := false, micros := 0, mpc := r.mpc + 1, verdict := none }))))
    ∧ (r.node = none → gives .mBoxn (faultRay s r 5))
    ∧ (∀ a b, r.node = some (a, b) →
        let cs := (List.range (lyNch p.layout)).filter (fun j => refKind (childRef p.layout b j) != .null)
        let bad : Bool := cs.any (fun j => refKind (childRef p.layout b j) == .bad)
        (bad = true → gives .mBoxn (faultRay s r 7))
        ∧ (bad = false → ray .mBoxn { r with
            boxes := some (cs.filterMap (fun j => (boxHit r (boxCoord p.layout b j)).map (fun e => (j, e)))) }))
    ∧ (r.boxes = none → gives .mOrder (faultRay s r 5))
    ∧ (∀ hs, r.boxes = some hs →
        let cs := (sortHits hs).map Prod.fst
        ray .mOrder { r with cord := BitVec.ofNat 24 (packElems 3 cs), cnum := cs.length, fN := cs.isEmpty })
    ∧ (r.cnum = 0 → ray .mPushc { r with fN := true })
    ∧ (r.cnum ≠ 0 → node = false → wrong .mPushc)
    ∧ (∀ b t, r.cnum ≠ 0 → node = true → pushNode s r p = (.ok b, t) →
        let js := (List.range r.cnum).map r.child
        let refs := js.map (childRef p.layout b)
        let bad : Bool := js.any (fun j => decide (j ≥ lyNch p.layout)) || refs.any (fun x => refKind x == .bad)
        (bad = true → gives .mPushc (faultRay t r 7))
        ∧ (bad = false → 16 < r.sp + r.cnum - 1 → gives .mPushc (faultRay t r 4))
        ∧ (bad = false → r.sp + r.cnum - 1 ≤ 16 → gives .mPushc (t.putRay
            { ({ r with node := some (r.cur.toNat, b) } : Ray).push (refs.drop 1).reverse with cur := refs.head?.getD 0, fN := false, cnum := 0 }.nextM)))
    ∧ (r.sp = 0 → ray .mPop { r with fN := true })
    ∧ (r.sp ≠ 0 → ray .mPop { r with sp := r.sp - 1, cur := r.stack[r.sp - 1]?.getD 0, fN := false })
    ∧ (leaf = false → wrong .mLeaf)
    ∧ (leaf = true → ray .mLeaf { r with lidx := 0, lcnt := leafCount r.cur, fE := false, fH := false })
    ∧ suspends .mPrim
      ((r.lidx = r.lcnt → ray .mPrim { r with fH := false, fE := true })
       ∧ (r.lidx ≠ r.lcnt → leaf = false → wrong .mPrim)
       ∧ (∀ b t, r.lidx ≠ r.lcnt → leaf = true →
           rayFetch s r (leafAddr r.cur + r.lidx * lyPstride p.layout) (lyPrimBytes p.layout) = (.ok b, t) →
           gives .mPrim (t.putRay (r.tryPrim p.layout b).nextM)))
    ∧ (r.fH = true → r.copq = true → ray .mHit { r with
        fA := true, ht := r.ct, hprim := r.cprim, hb1 := r.cb1, hb2 := r.cb2, hnode := BitVec.ofNat 64 (leafAddr r.cur), tmax := r.ct, hv := true, fH := false })
    ∧ (r.fH = false ∨ r.copq = false → ray .mHit { r with fA := false })
    ∧ suspends .mCallk
      ((r.fH = false → ray .mCallk { r with fA := false, fT := false })
       ∧ (r.fH = true → r.kh = 0 → ray .mCallk { r with fA := true, fT := false })
       ∧ (r.fH = true → r.kh ≠ 0 → s.handleFault r.ctx r.kh true ≠ none → gives .mCallk (faultRay s r 3))
       ∧ (r.fH = true → r.kh ≠ 0 → s.handleFault r.ctx r.kh true = none → s.poolFree r.ctx 1 = [] → gives .mCallk s)
       ∧ (∀ slot l, r.fH = true → r.kh ≠ 0 → s.handleFault r.ctx r.kh true = none → s.poolFree r.ctx 1 = slot :: l →
           let k := callkRec s r slot (s.handleEntry r.ctx r.kh).pc
           gives .mCallk (({ s with nextUid := s.nextUid + 1, conts := s.conts ++ [k] }.putRay { r with waits := some s.now }).finalize k.uid
             (Vector.replicate 4 0))))
    ∧ (r.fH = true → ray .mAccept { r with
        ht := r.ct, hprim := r.cprim, hb1 := r.cb1, hb2 := r.cb2, hnode := BitVec.ofNat 64 (leafAddr r.cur), tmax := r.ct, hv := true, fH := false })
    ∧ (r.fH = false → ray .mAccept r)
    ∧ ray .mIgnore { r with fH := false }
    ∧ (sel = 0 → ray (.mSett sel) (if r.fH then { r with tmax := r.ct } else r))
    ∧ (sel = 1 → ray (.mSett sel) (if r.fH then { r with tmin := r.ct } else r))
    ∧ (sel = 2 → ray (.mSett sel) (if r.hv then { r with tmax := r.ht } else r))
    ∧ (sel = 3 → gives (.mSett sel) (faultRay s r 5))
    ∧ gives (.mJmp target) (s.putRay (r.go target.toNat))
    ∧ (r.cond cond.toNat = none → gives (.mJif neg cond target) (faultRay s r 5))
    ∧ (∀ b, r.cond cond.toNat = some b → b ≠ neg → gives (.mJif neg cond target) (s.putRay (r.go target.toNat)))
    ∧ (r.cond cond.toNat = some neg → ray (.mJif neg cond target) r)
    ∧ (op = 0 → ray (.mCnt op value) { r with cnt := value.toNat })
    ∧ (op = 1 → ray (.mCnt op value) { r with cnt := r.cnt - 1 })
    ∧ (op = 2 → ray (.mCnt op value) { r with cnt := min (r.cnt + 1) 255 })
    ∧ (op = 3 → gives (.mCnt op value) (faultRay s r 5))
    ∧ gives .mTerm (leaveRay s r 3 0) ∧ gives .mDone (leaveRay s r 2 0)

/-! ### The privileged forms (16 R325 to R346; 06 R151) -/

/-- The privileged forms, and BKPT. MFPR reads and MTPR writes a numbered register, and what it wrote reads back; MTPR of a register of the
wick that would make a table malformed traps. TLBINV drops the translations of the units in its scope; HALT halts the wick. WICKCTL: RELEASE after a pre-emption entry
gives up the slot and is illegal after any other; KILL ends the wick; PARK leaves single-lane mode without running; UNPARK resumes the
parked wick it names. ERET goes on at TPC and ERET.NEXT at TNPC; ERET.REFLECT enters the closure it names, or reports in s61 of the handler
why not; each waits while a page of the save area that it needs has stopped it (17 R423). REPLAY of an invalid entry gives 0. BKPT enters
single-lane mode with cause 0x0C, at once where no debug record is to be written or the ring has room for it; a page that fails stops the
record. That a register without a stated width holds 64 bits is log 69, HALT's record log 90, and that an MTPR does not lower HWM while a launch
runs log 137. -/
def Obligations.PrivilegedForms : Prop :=
  (∀ (h : Hdr) (o : OpY) (s : State) (w : Wick) (f : Nat),
       let F := w.actor f
       let a := w.rdS F o.a.toNat
       let n := o.imm.toNat % 2 ^ 12
       let c := w.info.ctx
       let ends (i : Instr) (t : State) : Prop := Ready i s w f → exec i s = .next (sweepExit t w (w.cx f i))
       let gives (i : Instr) (t : Cx → State) : Prop := Ready i s w f → exec i s = .next (t (w.cx f i))
       gives (.mfpr h o) (s.done (.mfpr h o) (w.wrS F o.d.toNat (prvRead s w n)))
       ∧ (n = 6 → Ready (.mtpr h o) s w f →
           exec (.mtpr h o) s = .next (sweepExit ((setHwm s w.info.ctx a).stepped (.mtpr h o) (w.cx f (.mtpr h o))) w (w.cx f (.mtpr h o))))
       ∧ (∀ w', n ≠ 6 → prvWrite w n a = some w' → gives (.mtpr h o) (s.done (.mtpr h o) w'))
       ∧ (n ≠ 6 → prvWrite w n a = none → gives (.mtpr h o) (fun cx => raiseTrap s w cx { cause := 0x13 }))
       ∧ (∀ x w', n ∈ [0x040, 0x041, 0x042, 0x043, 0x044, 0x045] → prvWrite w n x = some w' → prvRead s w' n = x)
       ∧ (∀ x, n < 0x040 → prvWrite w n x = some w)
       ∧ (Ready (.tlbinv h o) s w f →
           let lo := if h.sub = 0 then a.toNat else 0
           let hi := if h.sub = 0 then a.toNat + (w.rdS F o.b.toNat).toNat else 2 ^ 64
           exec (.tlbinv h o) s = .next (sweepExit ((invalidate s (tlbScope w o.imm) w.info.ctx lo hi).stepped (.tlbinv h o) (w.cx f (.tlbinv h o))) w (w.cx f (.tlbinv h o))))
       ∧ gives (.halt h o) (fun _ => haltWick s w 0x40 a.toNat)
       ∧ (w.trap.entered ≠ 0x30 → gives (.wickctlRelease h o) (fun cx => raiseTrap s w cx { cause := 0x01 }))
       ∧ (let kept := w.setShown none
          w.trap.entered = 0x30 → ends (.wickctlRelease h o) (checkReleased ((mailReply s w).putWick { kept with
           info := { kept.info with stage := .descheduled, released := true }
           trap := { kept.trap with sl := false } }) w.info.group))
       ∧ (gives (.wickctlKill h o) (fun _ => endWick s w) ∧ (endWick s w).findWick w.info.uid = none)
       ∧ gives (.wickctlPark h o) (fun _ => s.putWick w.park)
       ∧ (let parked := s.wicks.find? (fun x => x.info.ctx == w.info.ctx && x.info.stage == .resident && x.trap.parked && x.info.wickId == a.toNat)
          (∀ x, parked = some x → Ready (.wickctlUnpark h o) s w f → exec (.wickctlUnpark h o) s =
            .next ((s.putWick x.unpark).stepped (.wickctlUnpark h o) (w.cx f (.wickctlUnpark h o))))
          ∧ (parked = none → gives (.wickctlUnpark h o) (s.stepped (.wickctlUnpark h o))))
       ∧ (s.isStopped c (saveWork w) = false →
           ends (.eret h o) (eretTo s w w.trap.tpc) ∧ ends (.eretNext h o) (eretTo s w w.trap.tnpc))
       ∧ (∀ i ∈ [Instr.eret h o, .eretNext h o, .eretReflect h o], s.isStopped c (saveWork w) = true →
           gives i (fun _ => s.putWick (w.waits F 10)))
       ∧ (∀ y, s.isStopped c (saveWork w) = false → reflectFault s w a = some y → gives (.eretReflect h o) (s.done (.eretReflect h o)
           { w with trap := { w.trap with s := w.trap.s.setIfInBounds 1 (BitVec.ofNat 64 y) } }))
       ∧ (∀ t, s.isStopped c (saveWork w) = false → reflectFault s w a = none → checkTarget s w.info.coreId w.info.ctx false (s.handleEntry w.info.ctx a).pc = (.ok, t) →
           let w1 := w.applyFrame w.trap.tfrag o.d.toNat (if o.imm.getLsbD 0 then w.trap.tnpc else w.trap.tpc) a
           let s2 := (t.addRef w.info.ctx a 1).putWick w1
           let pc := (s.handleEntry w.info.ctx a).pc
           (eretStop s2 w1 = none → ends (.eretReflect h o) ((eretTo s2 w1 pc).holdTarget w.info.uid w.trap.tfrag pc))
           ∧ (∀ acc va p, eretStop s2 w1 = some (acc, va, p) → ends (.eretReflect h o) (ownStop s c (saveWork w) acc va p)))
       ∧ (let e : LogEntry := w.books.log[o.imm.toNat % 4]?.getD {}
          (e.valid = false → gives (.replay h o) (s.done (.replay h o) (w.wrS F o.d.toNat 0)))
          ∧ (∀ i body s' res, e.valid = true → decode e.instr = .ok i → loggedBody i = some body →
              body (s.putWick (w.atLog e)) (w.atLog e) (w.logCx e) = .next s' → s'.findWick w.info.uid = some res → Ready (.replay h o) s w f →
              let w2 := ((w.replayed res e i.writes (w.logCx e).act).modLog (o.imm.toNat % 4) (fun x => { x with valid := false, pending := [] })).wrS
                (w.cx f (.replay h o)).f o.d.toNat 0
              exec (.replay h o) s =
                .next (sweepExit (((resnap s' w2).putWick w2).stepped (.replay h o) (w.cx f (.replay h o))) w (w.cx f (.replay h o))))))
  ∧ (∀ (h : Hdr) (o : OpC) (s : State) (w : Wick) (f : Nat), Ready (.bkpt h o) s w f → w.trap.sl = false → w.books.pair = none →
       let cx := w.cx f (.bkpt h o)
       let x : StopInfo := ⟨0, 0, 0, cx.f, cx.pc, cx.act, 0⟩
       let w1 : Wick := { w with books := { w.books with stop := some x } }
       let w2 : Wick := { w1.endWaits with books := { w1.books with stop := none } }
       let s1 := s.putWick w1
       let free : Prop := w.books.svc = none ∧ s1.isStopped w.info.ctx (stopWork w1) = false
       (free → s1.dbgen w.info.ctx = false → exec (.bkpt h o) s = .next (takeTrap s1 w2 cx.f cx.pc { cause := 0x0C }))
       ∧ (∀ t, free → s1.dbgen w.info.ctx = true → writeTrace s1 w.info.ctx (stopRec s1 w1 x) false = .ok (some t) →
           exec (.bkpt h o) s = .next (sweepExit
             (takeTrap t { w2 with books := { w2.books with traceSeq := w.books.traceSeq + 1 } } cx.f cx.pc { cause := 0x0C }) w cx))
       ∧ (free → s1.dbgen w.info.ctx = true → writeTrace s1 w.info.ctx (stopRec s1 w1 x) false = .ok none →
           exec (.bkpt h o) s = .next s1)
       ∧ (∀ acc va p, free → s1.dbgen w.info.ctx = true → writeTrace s1 w.info.ctx (stopRec s1 w1 x) false = .error (acc, va, p) →
           exec (.bkpt h o) s = .next (sweepExit (ownStop s1 w.info.ctx (stopWork w1) acc va p) w cx))
       ∧ (w.books.svc = none → s1.isStopped w.info.ctx (stopWork w1) = true → exec (.bkpt h o) s = .next s1)
       ∧ (w.books.svc.isSome = true → exec (.bkpt h o) s = .next (s.putWick (w.setStop x))))

/-- Saving and restoring (16 R332, R335 to R337). SAVEV and SAVEK.SAVE write their image as plain stores and LOADV and SAVEK.LOAD read it
back as plain loads: nothing else of the wick differs, and a register that held what SAVEV wrote is given it back. QUIESCE stops the
engine work of the wick's group on its core, waits while some of it is not at rest, and then writes its record where it fits, or the header
alone with its size and bit 63 in s[D]; where the record is written, the other wicks' QUIESCE gives 0. What an image does not hold of an
operand-log entry stays (log 18), and the order of the words of an item is the model's (log 127). -/
def Obligations.SaveForms : Prop :=
  (∀ (h : Hdr) (o : OpY) (s t : State) (w : Wick) (f : Nat) (ps : List (Nat × Nat)),
       let F := w.actor f
       let a := (w.rdS F o.a.toNat).toNat
       let b := (w.rdS F o.b.toNat).toNat
       let n := o.d.toNat
       let q := n - 248
       let e := o.imm.toNat % 4
       let stores (i : Instr) (va : Nat) (bs : List Byte) (go : State → State) : Prop := Ready i s w f → va + bs.length ≤ 2 ^ 57 →
         resolveRanges s w (w.cx f i) ⟨1, 0, 0⟩ none (pages va bs.length) = ([], ps, t) →
         exec i s = .next ((go (t.storePieces ps bs)).stepped i (w.cx f i))
       let img := savevImage w h.sub.toNat o.a.toNat e
       (savevReg w h.sub.toNat o.a.toNat = true →
         stores (.savev h o) b img (fun u => u.putWick (w.wrS F o.d.toNat (BitVec.ofNat 64 img.length))))
       ∧ (savevReg w h.sub.toNat o.a.toNat = false → Ready (.savev h o) s w f →
           exec (.savev h o) s = .next (raiseTrap s w (w.cx f (.savev h o)) { cause := 0x06 }))
       ∧ stores (.savekSave h o) a (closureBlock w) id
       ∧ (∀ tag, Ready (.loadv h o) s w f → h.sub = 0 → savevReg w 0 n = true → s.record w (w.cx f (.loadv h o)) a 1 = some (t, tag) →
           (∀ u body r, tag < 3 → t.record w (w.cx f (.loadv h o)) (a + 1) (tagLen tag) = some (u, body) → VReg.ofSaved n tag body = some r →
             exec (.loadv h o) s = .next ((u.putWick (w.putV n r)).stepped (.loadv h o) (w.cx f (.loadv h o))))
           ∧ (3 ≤ tag → exec (.loadv h o) s = .next (raiseTrap s w (w.cx f (.loadv h o)) { cause := 0x13, val := BitVec.ofNat 64 a })))
       ∧ (∀ x, Ready (.loadv h o) s w f → h.sub = 1 → savevReg w 1 n = true → s.record w (w.cx f (.loadv h o)) a 1152 = some (t, x) →
           exec (.loadv h o) s = .next ((t.putWick (Wick.feedTrap { w with books := { w.books with
             qp := w.books.qp.setIfInBounds q (queueOf (w.books.qp[q]?.getD []) x) } })).stepped (.loadv h o) (w.cx f (.loadv h o))))
       ∧ (∀ x, Ready (.loadv h o) s w f → h.sub ≠ 0 → h.sub ≠ 1 → n = 0 → s.record w (w.cx f (.loadv h o)) a 1024 = some (t, x) →
           (∀ y, (w.books.log[e]?.getD {}).ofImage t w x = some y → exec (.loadv h o) s = .next ((t.putWick { w with books := { w.books with
             log := w.books.log.setIfInBounds e y } }).stepped (.loadv h o) (w.cx f (.loadv h o))))
           ∧ ((w.books.log[e]?.getD {}).ofImage t w x = none →
               exec (.loadv h o) s = .next (raiseTrap s w (w.cx f (.loadv h o)) { cause := 0x13, val := BitVec.ofNat 64 a })))
       ∧ (∀ x, Ready (.savekLoad h o) s w f → s.record w (w.cx f (.savekLoad h o)) a 352 = some (t, x) →
           (closureOk x = true → exec (.savekLoad h o) s = .next ((t.putWick (loadClosure w x)).stepped (.savekLoad h o) (w.cx f (.savekLoad h o))))
           ∧ (closureOk x = false →
               exec (.savekLoad h o) s = .next (raiseTrap s w (w.cx f (.savekLoad h o)) { cause := 0x13, val := BitVec.ofNat 64 a }))))
  ∧ (∀ (r : VReg) (d : Nat), d < 128 → ∃ tag body, r.saved = BitVec.ofNat 8 tag :: leBytes (tagLen tag) body ∧ tag < 3
       ∧ ∃ r', VReg.ofSaved d tag body = some r' ∧ (∀ l, l < 32 → r'.lane l = r.lane l))
  ∧ (∀ (h : Hdr) (o : OpY) (s : State) (w : Wick) (f : Nat),
       let F := w.actor f
       let core := w.info.coreId
       let uids := s.mates w
       let a := w.rdS F o.a.toNat
       let ready := settleWorks s core uids
       let image := o.imm.getLsbD 0
       let imagew := o.imm.getLsbD 1
       ∀ y ∈ [(Instr.quiesceWait h o, false), (Instr.quiesceCancel h o, true)], Ready y.1 s w f →
         let cx := w.cx f y.1
         let items := recordItems ready core (ready.mates w) image imagew
         let bytes := recordHeader ready core image imagew y.2 items.length ++ items.flatMap Item.bytes
         (a.toNat % 4096 ≠ 0 → exec y.1 s = .next (raiseTrap s w cx { cause := 0x12, val := a }))
         ∧ (a.toNat % 4096 = 0 → s.captureOf w.info.group core = none →
             exec y.1 s = .next (sweepExit
               ((if y.2 then cancelWorks (markRays s core uids) core uids else markRays s core uids).putCapture w.info.group
                 { core := core, owner := w.info.uid, addr := a, image := false, imagew := false, written := false, size := 0 }) w cx))
         ∧ (∀ c, a.toNat % 4096 = 0 → s.captureOf w.info.group core = some c → c.ready = true → c.written = true →
             exec y.1 s = .next (s.done y.1 (w.wrS F o.d.toNat 0) cx))
         ∧ (∀ c, a.toNat % 4096 = 0 → s.captureOf w.info.group core = some c → c.ready = false →
             (c.owner ≠ w.info.uid ∨ worksAtRest s core uids = false → exec y.1 s = .next (s.putWick (w.waits F 7)))
             ∧ (∀ ps t, c.owner = w.info.uid → worksAtRest s core uids = true → bytes.length ≤ (w.rdS F o.b.toNat).toNat →
                 a.toNat + bytes.length ≤ 2 ^ 57 → resolveRanges ready w cx ⟨1, 0, 0⟩ none (pages a.toNat bytes.length) = ([], ps, t) →
                 ∃ c', c'.addr = BitVec.ofNat 64 a.toNat ∧ c'.written = true ∧ c'.size = bytes.length ∧ c'.ready = true
                   ∧ exec y.1 s = .next (sweepExit ((((t.storePieces ps bytes).putCapture
                       w.info.group c').modWick w.info.uid (fun w => w.wrS F o.d.toNat (BitVec.ofNat 64 bytes.length))).stepped y.1 cx) w cx))
             ∧ (∀ ps t, let header := recordHeader ready core image imagew y.2 0
                 c.owner = w.info.uid → worksAtRest s core uids = true → (w.rdS F o.b.toNat).toNat < bytes.length →
                 a.toNat + header.length ≤ 2 ^ 57 → resolveRanges ready w cx ⟨1, 0, 0⟩ none (pages a.toNat header.length) = ([], ps, t) →
                 ∃ c', c'.addr = BitVec.ofNat 64 a.toNat ∧ c'.written = false ∧ c'.size = bytes.length ∧ c'.ready = true
                   ∧ exec y.1 s = .next (sweepExit ((((t.storePieces ps header).putCapture
                       w.info.group c').modWick w.info.uid (fun w => w.wrS F o.d.toNat (BitVec.ofNat 64 (bytes.length + 2 ^ 63)))).stepped y.1 cx) w cx))))

/-! ### What engines, schedulers and the outside do (spec/00_scope.md R5 and the files named) -/

/-- The engines' own steps: copies, quantisation, the matrix engine, flushes, texel fetches and rays (04 R116, R117; 07 R188, R205; 09 R217 to
R221; 14 R295, R303, R314 to R317). Each does the next piece of the oldest work that neither waits nor rests, and nothing otherwise; a piece
that meets a page fault stops its work with one record and moves nothing (the pixels of a flush before it are written, log 17). A matrix
instruction waits on a tile that an earlier quantisation command still reads, and a co-operative one whose members disagree has FAILED and
completed (07 R205, 09 R228). -/
def Obligations.EngineEvents : Prop :=
  ∀ (s : State) (n : Nat),
    let ev (i : Instr) (t : State) : Prop := exec i s = .next t
    let idle (c : Copy) : Prop := c.stopped = false ∧ c.pos < c.total
    (s.headCopy n = none → ev (.evCopyElementDelivery n) s ∧ ev (.evCopyFaultStop n) s)
    ∧ (∀ c t c', s.headCopy n = some c → idle c → (2048 ≤ n → ∀ p, s.findPacket c.pkt = some p → s.partStopped p.part = false) →
        deliver s c = .ok (t, c') →
        ev (.evCopyElementDelivery n) ((t.putCopy c').putChan { t.chan n with wp := (t.chan n).wp + (c'.pos - c.pos) * c.dst.esz })
        ∧ (c.targets = none → c'.pos = c.pos + 1))
    ∧ (∀ c va p, s.headCopy n = some c → idle c → deliver s c = .error (va, p) →
        ev (.evCopyElementDelivery n) s
        ∧ (let s1 := (s.putCopy { c with stopped := true, stopVa := va }).putChan { s.chan n with faults := (s.chan n).faults + 1 }
           ∃ acc, acc ≤ 1 ∧ ev (.evCopyFaultStop n) (postFaults s1 c.ctx [engineRec s1 3 c.ctx acc va c.token n ((s.chan n).faults + 1) p])))
    ∧ (∀ c, s.headCopy n = some c → c.stopped = false → c.rest = false → c.total ≤ c.pos →
        (completeCopy s c).copies.find? (fun x => x.chan == n && x.done && x.callback.isSome) = none →
        ev (.evCopyCompletion n) (completeCopy s c))
    ∧ (n < 4096 → ev (.evCopyContinue n) { s with
        copies := s.copies.map (fun (x : Copy) => if x.chan == n && x.due then { x with stopped := false, due := false } else x) })
    ∧ (4096 ≤ n → n < 8192 → ev (.evCopyContinue n) { s with
        quants := s.quants.map (fun (x : Quant) => if x.cluster == n - 4096 && x.due then { x with stopped := false, due := false } else x) })
    ∧ (8192 ≤ n → n < 16384 → ev (.evCopyContinue n) { s with
        flushes := s.flushes.map (fun (x : Flush) => if x.core == n - 8192 && x.due then { x with stopped := false, due := false } else x) })
    ∧ (16384 ≤ n → ev (.evCopyContinue n) { s with
        texels := s.texels.map (fun (x : Texel) => if x.record == n - 16384 && x.due then { x with stopped := false, due := false } else x) })
    ∧ (∀ q t q', s.headQuant n = some q → q.stopped = false → q.rest = false → qRun s q (qBlocks q.record + 1) = (t, q', none) →
        ev (.evQuantCommandComplete n) (updateBands (t.putQuant { q' with done := true }) q.pkt) ∧ ev (.evQuantFaultStop n) s)
    ∧ (∀ q t q' acc va p, s.headQuant n = some q → q.stopped = false → q.rest = false → qRun s q (qBlocks q.record + 1) = (t, q', some (acc, va, p)) →
        ev (.evQuantCommandComplete n) s
        ∧ (let k := t.quantFaults[n]?.getD 0 + 1
           let s1 : State := { t.putQuant { q' with stopped := true, stopVa := va } with quantFaults := t.quantFaults.setIfInBounds n k }
           ev (.evQuantFaultStop n) (postFaults s1 q.ctx [engineRec s1 4 q.ctx acc va q.token n k p])))
    ∧ ((s.matrix n).head = none → ev (.evMatrixInstructionComplete n) s ∧ ev (.evStreamingKBlock n) s)
    ∧ (∀ i, (s.matrix n).head = some i → headWaits s n i = true → ev (.evMatrixInstructionComplete n) s ∧ ev (.evStreamingKBlock n) s)
    ∧ (∀ i, (s.matrix n).head = some i → headWaits s n i = false →
        (runMatrix s n i = none →
          (i.abandoned s n = false → ev (.evMatrixInstructionComplete n) s)
          ∧ (i.abandoned s n = true → ev (.evMatrixInstructionComplete n) (finishMatrix s n i)))
        ∧ (∀ t i', runMatrix s n i = some (t, i') → ev (.evMatrixInstructionComplete n) (finishMatrix t n i')))
    ∧ (∀ i, (s.matrix n).head = some i → headWaits s n i = false → i.strm = true → i.kdone < kLimit s n i →
        let need := i.wcount + (i.kdone + 1) * i.m * 32 * esA i.sub
        let y := accBlock s n i (ownA s n i) i.kdone
        ((s.chan (n * 4 + i.ch)).wp < need → ev (.evStreamingKBlock n) s)
        ∧ (need ≤ (s.chan (n * 4 + i.ch)).wp →
            ev (.evStreamingKBlock n) (y.1.modMInstr n i.seq (fun i => { i with kdone := i.kdone + 1, flags := i.flags ||| y.2 }))))
    ∧ (∀ turn i0 l, coTurn s n = some turn → coMembers s n turn = i0 :: l → (i0 :: l).length = 16 → (∀ y ∈ i0 :: l, headWaits s y.1 y.2 = false) →
        let ms := i0 :: l
        let same : Prop := ∀ y ∈ ms, y.2.sub = i0.2.sub ∧ y.2.m = i0.2.m ∧ y.2.n = i0.2.n ∧ y.2.kb = i0.2.kb ∧ y.2.scl = i0.2.scl
        let heads : Prop := ∀ y ∈ ms, (s.matrix y.1).head.map MInstr.seq = some y.2.seq
        (heads → ¬ same → ev (.evMmacRendezvous n) (ms.foldl (fun t y => finishMatrix t y.1 { y.2 with
            computed := true, failed := true, record := y.2.token }) s))
        ∧ (¬ heads → ev (.evMmacRendezvous n) s)
        ∧ (same → heads → ev (.evMmacRendezvous n) (ms.foldl (fun t y =>
            let r := coCompute { s with mem := t.mem } ms y.1 y.2 (y.2.kb + 1) 0
            { t with mem := r.1.mem }.modMInstr y.1 y.2.seq (fun i => { i with computed := true, kdone := i.kb, flags := r.2 })) s)))
    ∧ (∀ f t rest e, s.flushes.find? (fun f => f.core == n && !f.rest) = some f → f.stopped = false → runWrites s f.ctx f.writes = (t, rest, e) →
        (e = none → ev (.evTilefCompletion n)
          (updateBands { t with flushes := t.flushes.filter (fun x => !(x.core == n && x.seq == f.seq)) } f.pkt))
        ∧ (∀ va p, e = some (va, p) →
            let s1 := t.putFlush { f with writes := rest, stopped := true, faults := f.faults + 1, stopVa := va }
            ev (.evTilefCompletion n) (postFaults s1 f.ctx [engineRec s1 3 f.ctx 1 va f.token.toNat n (f.faults + 1) p])))
    ∧ (∀ x, s.findTexel n = some x → x.stopped = false →
        let r := readTexels s x.ctx (s.contPkt n) (texelPlaces x.desc x.u x.v)
        (∀ ts t, r = (.ok ts, t) → ev (.evTexelFetchFaultStop n) s
          ∧ ev (.evTexelFetchComplete n) (updateBands ({ t with texels := t.texels.filter (fun x => x.record != n) }.finalize n
              (blend (fld x.desc 128 2) ts)) (t.contPkt n)))
        ∧ (∀ va p t, r = (.error (va, p), t) → ev (.evTexelFetchComplete n) s
          ∧ (let s1 : State := { t with texels := t.texels.map (fun (y : Texel) =>
               if y.record == n then { y with stopped := true, faults := y.faults + 1, stopVa := va } else y) }
             ev (.evTexelFetchFaultStop n) (postFaults s1 x.ctx [engineRec s1 6 x.ctx 0 va 0 n (x.faults + 1) p]))))
    ∧ (∀ r, s.findRay n = some r → r.leaving = none →
        (r.suspend = true → r.rest = false → r.atPoint s = true → ev (.evRaySuspension n) (leaveRay s r 4 0))
        ∧ (r.suspend = false ∨ r.rest = true ∨ r.atPoint s = false → ev (.evRaySuspension n) s)
        ∧ (4096 ≤ r.micros → r.waits = none → r.rest = false → ev (.evRunaway n) (faultRay s r 6))
        ∧ (r.micros < 4096 → ev (.evRunaway n) s)
        ∧ (∀ t, r.waits = some t → r.rest = false →
            (t + s.verdictTimeout r.ctx ≤ s.now → ev (.evVerdictTimeout n) (faultRay s { r with waits := none } 2))
            ∧ (s.now < t + s.verdictTimeout r.ctx → ev (.evVerdictTimeout n) s)))
    ∧ (∀ v, s.verdicts.find? (fun v => v.uid == n) = some v → ev (.evVerdictArrival n)
        (v.rays.zipIdx.foldl (fun t y => giveVerdict t y.1 (v.s0.toNat / 2 ^ (2 * y.2) % 4)) { s with verdicts := s.verdicts.filter (fun x => x.uid != n) }))

/-- What starts, wakes, saves and ends wicks (06 R150; 11 R245 to R251; 13 R274, R282; 14 R284 to R286, R300; 16 R327, R338 to R340; 17 R358,
R362; 19 R387; 21 R414). Each acts when its condition holds and does nothing before. In a partition's turn one wick issues: one ready for 256
cycles, longest first, else of the best class the one that issued longest ago, and the others are passed over; the issue limit may leave none
(R387, 21 R418). Node wicks, geometry wicks and continuation wicks have the ranks log 45 gives, and the cores they start on are the device's choice (log 3). -/
def Obligations.WickEvents : Prop :=
  ∀ (s : State) (n m : Nat),
    let ev (i : Instr) (t : State) : Prop := exec i s = .next t
    (∀ r rs, s.conts.find? (fun x => x.uid == n) = some r → r.final.isSome = true → s.together r = rs → ∀ first l, rs = first :: l →
        (32 ≤ rs.length → ev (.evContinuationWickStart n) (startCont s first (rs.take 32)))
        ∧ (rs.length < 32 → ev (.evContinuationWickStart n) s)
        ∧ (first.final.getD 0 + 2 * Config.usCycles ≤ s.now → ev (.evChandelierGatherTimer n) (startCont s first (rs.take 32)))
        ∧ (s.now < first.final.getD 0 + 2 * Config.usCycles → ev (.evChandelierGatherTimer n) s))
    ∧ (∀ g p d t first l, s.findGraph n = some g → g.rootLeft = 0 → m < g.count → s.isStopped g.ctx (packetWork g.pkt 2) = false → s.findPacket g.pkt = some p → p.cancelled = false →
        s.heldBack p = false → readNode g m s = .ok (d, t) → g.waiting.filter (fun r => r.node == m) = first :: l →
        let rs := first :: l
        (32 ≤ rs.length → ev (.evNodeWickStart n m) (startNode t g m d (rs.take 32)))
        ∧ (rs.length < 32 → ev (.evNodeWickStart n m) s)
        ∧ (first.arrived + d.timer ≤ t.now → ev (.evGatherTimer n m) (startNode t g m d (rs.take 32)))
        ∧ (t.now < first.arrived + d.timer → ev (.evGatherTimer n m) s))
    ∧ (∀ p l g, s.findPacket n = some p → p.launch = some l → l.graph.bind s.findGraph = some g → l.fld 0 3 = 3 → p.started = true →
        l.tilePhase = false → p.cancelled = false →
        (s.graphDone g = false → ev (.evTilePhaseStart n) s)
        ∧ (s.graphDone g = true → ev (.evTilePhaseStart n)
            ({ s with graphs := s.graphs.filter (fun x => x.id != g.id) }.modLaunch n (fun l => { l with tilePhase := true, graph := none }))))
    ∧ (∀ p l b r, s.findPacket n = some p → p.launch = some l → s.tileBand n m = some b → l.tiles.find? (fun t => t.tile == m) = some r →
        (tileIdle s n b m = false → ev (.evTileCompletion n m) s)
        ∧ (tileIdle s n b m = true → l.pass.testBit 199 = false ∨ r.flushed = true → ev (.evTileCompletion n m)
            ({ s with bands := s.bands.filter (fun x => x.uid != b.uid) }.modLaunch n (fun l => { l with tiles := l.tiles.filter (fun x => x.tile != m) }))))
    ∧ (∀ p l q, s.findPacket n = some p → p.launch = some l → l.dueTable = some q → p.started = true → p.cancelled = false →
        s.isStopped p.ctx (packetWork p.id 1) = false →
        (s.heldBack p = true → ev (.evQueryBlockDispatch n) s)
        ∧ (s.heldBack p = false → ev (.evQueryBlockDispatch n) (dispatchBlock s p l q)))
    ∧ (∀ p y x q s1 s2, s.findPacket n = some p → p.sync = some y → p.ended = false → y.stuck = false → y.phase < 2 →
        s.isStopped p.ctx (packetWork p.id 0) = false → syncReady s p y = true → s.partStopped p.part = false →
        (if y.phase = 0 then syncCheck ⟨p.ctx, true, p.id⟩ y.world s else .ok ((), s)) = .ok ((), s1) →
        (do let x ← readWorld ⟨p.ctx, true, p.id⟩ y.world; let q ← readQueue x; pure (x, q) : EM _) s1 = .ok ((x, q), s2) →
        (∀ c l made dead s3, q.drop y.applied = c :: l → applyChange x c y.made y.dead s2 = .ok ((made, dead), s3) →
          ev (.evApplicationPhase n) (s3.putSync n { y with phase := 1, applied := y.applied + 1, made := made, dead := dead }))
        ∧ (∀ s3, q.drop y.applied = [] → endApplication x s2 = .ok ((), s3) →
          ev (.evApplicationPhase n) (s3.putSync n { y with phase := 2, table := 0 })))
    ∧ (∀ p y x s1, s.findPacket n = some p → p.sync = some y → p.ended = false → y.stuck = false → y.phase = 2 → s.partStopped p.part = false →
        s.isStopped p.ctx (packetWork p.id 0) = false →
        let found (r : Option (Table × Nat × Nat)) : Prop := (do
          let x ← readWorld ⟨p.ctx, true, p.id⟩ y.world
          let m ← findMove x ((List.range (x.ntab - y.table)).map (· + y.table))
          pure (x, m) : EM _) s = .ok ((x, r), s1)
        (∀ t, found none → x.set oCompact 0 s1 = .ok ((), t) → ev (.evCompactionMove n)
          (t.modPacket n (fun p => { p with sync := some { y with phase := 3 }, ended := true })))
        ∧ (∀ t h k, found (some (t, h, k)) →
            let s2 := s1.putSync n { y with table := t.num }
            (moveAllowed s2 p.ctx y.world t.num h k = false → ev (.evCompactionMove n) s2)
            ∧ (∀ s3, moveAllowed s2 p.ctx y.world t.num h k = true → moveRow x t h k s2 = .ok ((), s3) → ev (.evCompactionMove n) s3)))
    ∧ (∀ w, s.findWick n = some w →
        let clock := s.clock w.info.cluster
        (∀ t, (w.frag m).sleep = some t → t ≤ clock → ev (.evSleepExpiry n m) (s.putWick (w.modFrag m (fun g => { g with sleep := none }))))
        ∧ (∀ t, (w.frag m).sleep = some t → clock < t → ev (.evSleepExpiry n m) s)
        ∧ (w.canRun = true → w.info.ready + 256 ≤ clock → ev (.evAgeGuard n) (s.putWick { w with info := { w.info with guarded := true } }))
        ∧ (w.canRun = false ∨ (w.info.guarded = false ∧ clock < w.info.ready + 256) → ev (.evAgeGuard n) s)
        ∧ (w.info.stage = .resident → w.info.preq = true → w.books.pair = none → w.books.stop = none →
            s.isStopped w.info.ctx (saveWork w) = false →
            (w.trap.sl = true → ev (.evPreemptionEntry n)
              (s.putWick { w with info := { w.info with preq := false }, trap := { w.trap with ppend := true } }))
            ∧ (∀ t, w.trap.sl = false → w.books.svc = none → saveAccess s w.endWaits = .ok t →
                let f := (w.endWaits.deliverFrag).getD 0
                ev (.evPreemptionEntry n) (takeTrap t { w.endWaits with info := { w.info with preq := false } } f (w.frag f).pc { cause := 0x30 })))
        ∧ (w.info.preq = false → ev (.evPreemptionEntry n) s)
        ∧ (∀ x, w.info.resume = some x → w.info.stage = .resident → w.trap.sl = false → w.books.pair = none → w.books.stop = none →
            w.info.restoring = false → w.books.svc = none →
            let f := (w.deliverFrag).getD 0
            ev (.evResumeEntry n) (takeTrap s { w with info := { w.info with resume := none } } f (w.frag f).pc
              { cause := 0x32, mask := BitVec.ofNat 32 x.toNat }))
        ∧ (w.info.resume = none → ev (.evResumeEntry n) s)
        ∧ (∀ x0 t, w.books.stop = some x0 → w.info.stage = .resident → w.trap.sl = false → w.books.svc = none → w.books.pair = none →
            s.isStopped w.info.ctx (stopWork w) = false → s.dbgen w.info.ctx = true →
            let x := x0.at w
            (writeTrace s w.info.ctx (stopRec s w x) false = .ok (some t) → ev (.evDebugStop n) (takeTrap t
              { w.endWaits with books := { w.books with stop := none, traceSeq := w.books.traceSeq + 1 } } x.frag x.pc { cause := 0x0C }))
            ∧ (writeTrace s w.info.ctx (stopRec s w x) false = .ok none → ev (.evDebugStop n) s)
            ∧ (∀ acc va p, writeTrace s w.info.ctx (stopRec s w x) false = .error (acc, va, p) →
                ev (.evDebugStop n) (ownStop s w.info.ctx (stopWork w) acc va p)))
        ∧ (w.books.stop = none → ev (.evDebugStop n) s)
        ∧ ev (.evWickKillCommand n) (endWick s w) ∧ (endWick s w).findWick n = none)
    ∧ (∀ g t, s.findGroup n = some g → g.stage = .saving t →
        (t + 20 * Config.usCycles ≤ s.now → g.captures.any (fun c => c.imagew) = false → ev (.evPreemptionWatchdog n)
          (((s.groupWicks n).filter (fun w => w.info.stage == .resident)).foldl (fun s w => haltWick s w 0x3E 0) s))
        ∧ (s.now < t + 20 * Config.usCycles → ev (.evPreemptionWatchdog n) s))
    ∧ (∀ g, s.findGroup n = some g → mayRestore s g = true → s.isStopped g.ctx (2 ^ 51 + n) = false →
        (∀ va p t, readAllSaved s (s.groupWicks n) = (.error (va, p), t) → ev (.evRestoreEntry n) (ownStop t g.ctx (2 ^ 51 + n) 0 va p))
        ∧ (∀ l t, readAllSaved s (s.groupWicks n) = (.ok l, t) →
            let named := ((l.map (fun y => y.2.1)).filter (fun r => r != 0)).eraseDups
            (∀ rs u, readRecords t g.ctx named = (.ok rs, u) → ev (.evRestoreEntry n) (l.foldl enterRestore (rs.foldl (reloadRecord g) u)))
            ∧ (∀ va p u, readRecords t g.ctx named = (.error (va, p), u) → ev (.evRestoreEntry n) (ownStop u g.ctx (2 ^ 51 + n) 0 va p))))
    ∧ (∀ x, s.findCtx n = some x →
        ev (.evFaultRecord n) (flushTraces (flushFaults s n x.faults.length) n x.traces.length)
        ∧ (s.uiBlock n = 0 ∨ s.isStopped n 1 = true → ev (.evUserInterruptDelivery n) s)
        ∧ (∀ t, s.uiBlock n ≠ 0 → s.isStopped n 1 = false → dueDelivery s n s = .ok (none, t) → ev (.evUserInterruptDelivery n) s)
        ∧ (∀ w f h t, s.uiBlock n ≠ 0 → s.isStopped n 1 = false → dueDelivery s n s = .ok (some (w, f, h), t) → ev (.evUserInterruptDelivery n) (t.putWick (w.deliver f h))))
    ∧ ev (.evIssueCycle n) { s with agenda := .port n :: s.agenda }
    ∧ (let s1 := s.bystand (fun w => w.port == n)
       let ws := (s1.inPart (n / 4) (n % 4)).filter (fun w => w.info.stage == .resident)
       let age (w : Wick) : Nat := w.info.ready * 16 + w.info.slot
       (∀ w, chooseWick s1 ws = some w → w ∈ ws
         ∧ (∀ x ∈ ws, s1.aged x = true → s1.aged w = true ∧ age w ≤ age x)
         ∧ ((∀ x ∈ ws, s1.aged x = false) → ∀ x ∈ ws, s1.classOf w.info.pkt ≤ s1.classOf x.info.pkt
             ∧ (s1.classOf x.info.pkt = s1.classOf w.info.pkt → w.info.last ≤ x.info.last)))
       ∧ (chooseWick s1 ws = none → portTurn s n = .next s1)
       ∧ (∀ w t, s1.limited n = false → chooseWick s1 ws = some w → wickTurn s1 w.info.uid = .next (t, true) →
           portTurn s n = .next (((orderWicks s1 ws.length ws).drop 1).foldl passOver
             ((t.modWick w.info.uid (fun x => x.issuedAt (t.clock (n / 256)))).noteIssue n)))
       ∧ (s1.limited n = true → portTurn s n = .next ((orderWicks s1 ws.length ws).foldl passOver s1)))

/-- The packets (19 R370 to R386; 20 R407 to R409): a TAIL store, a parse round, validation, start, placement and completion, and what each
type does when it has started. The model's choices: that the launch record, the closure handle and argument and the pass record are read when
the packet is accepted, and the pass record once more at validation, whose reading the ranges then follow (log 26); when a COPY reads its shape
records (log 27); how long the copy of a snapshot and a drain last (log 81). -/
def Obligations.PacketEvents : Prop :=
  ∀ (s : State) (n : Nat),
    let ev (i : Instr) (t : State) : Prop := exec i s = .next t
    let ended : State := s.modPacket n (fun p => { p with ended := true })
    let late : State := s.abandonLate n
    (∀ (die queue size : Nat) (value : Word), die < 4 → queue < 64 → s.cfg.boot = 1 →
        let q := s.queue die queue
        let x := value.toNat
        (size = 8 → q.en = true → q.stopped = false →
          (q.tail ≤ x → x ≤ q.head + 63 → ev (.evTailWrite die queue size value) (s.modQueue die queue (fun q => { q with tail := x })))
          ∧ (x < q.tail ∨ q.head + 63 < x → ev (.evTailWrite die queue size value) (s.modQueue die queue (fun q => { q with stopped := true }))))
        ∧ (size ≠ 8 ∨ q.en = false ∨ q.stopped = true → ev (.evTailWrite die queue size value) s))
    ∧ (4 ≤ n → ev (.evParseRound n) s)
    ∧ (n < 4 → (∀ q, q < 64 → laneReady s n q = false) → ev (.evParseRound n) s)
    ∧ (∀ q body, n < 4 → (List.range 64).filter (laneReady s n) = [q] → windowPacket s n q (s.queue n q).head = body → pType body ≠ 1 → pType body ≠ 3 →
        s.intervals n ≤ 4096 → ev (.evParseRound n) (acceptPacket s (mkPacket s n q body)))
    ∧ (∀ q body r pass t, n < 4 → (List.range 64).filter (laneReady s n) = [q] → windowPacket s n q (s.queue n q).head = body → pType body = 1 →
        packetOk body 4 = true → s.isStopped (mkPacket s n q body).ctx (laneWork n q) = false →
        readLaunch (mkPacket s n q body).ctx body s = .ok ((r, pass), t) → t.intervals n + (launchRanges r pass).length ≤ 4096 →
        let l : Launch := { record := r, pass := pass, handle := BitVec.ofNat 64 (fld body 128 64), arg := BitVec.ofNat 64 (fld body 192 64) }
        ev (.evParseRound n) (acceptPacket t { mkPacket s n q body with launch := some l }))
    ∧ (∀ p l, s.findPacket n = some p → p.launch = some l → l.valid = false → p.ended = false → s.isStopped p.ctx (packetWork n 3) = false →
        let found : EM (Nat × List BandSpec) := do let r ← readPassRec p.ctx l.record; let specs ← readAll p { l with pass := r }; pure (r, specs)
        (launchOk l.record = false → ev (.evLaunch n) (s.endPacket n 1))
        ∧ (∀ a, launchOk l.record = true → found s = .error (.malf a) → ev (.evLaunch n) (s.endPacket n 1))
        ∧ (∀ k a e, launchOk l.record = true → found s = .error (.page k a e) → ev (.evLaunch n) (ownStop s p.ctx (packetWork n 3) k a e))
        ∧ (∀ r specs t, launchOk l.record = true → found s = .ok ((r, specs), t) →
            let l1 := { l with pass := r }
            (placementBad t p l1 specs = true → ev (.evLaunch n) (t.endPacket n 2))
            ∧ (∀ st, placementBad t p l1 specs = false → takeClosure t p l1 = .inr st → ev (.evLaunch n) (t.endPacket n st))
            ∧ (∀ u, placementBad t p l1 specs = false → takeClosure t p l1 = .inl u →
                ev (.evLaunch n) ((u.modLaunch n (fun l => { l with pass := r, specs := specs, valid := true })).modPacket n
                  (fun p => { p with ranges := launchRanges l.record r })))))
    ∧ (∀ p, s.findPacket n = some p → mayStart s p = true → s.isStopped p.ctx (packetWork n 4) = false →
        (p.launch = none → ev (.evPacketStart n) (s.modPacket n (fun p => { p with started := true, start := s.now })))
        ∧ (∀ l t, p.launch = some l → startLaunch s p l = .ok t →
            ev (.evPacketStart n) (t.modPacket n (fun p => { p with started := true, start := t.now }))))
    ∧ (∀ p, s.findPacket n = some p → mayStart s p = false → ev (.evPacketStart n) s)
    ∧ (s.partStopped n = true → ev (.evPlacement n) s)
    ∧ (∀ x t, s.partStopped n = false → s.groups.find? (fun g => g.part == n && stranded s g) = none →
        leastBy Waiting.key (waitingList s n) = some x → placeWaiting s x = some t → ev (.evPlacement n) t)
    ∧ (∀ p, s.findPacket n = some p → p.revoked = false ∨ p.ended = true → late = s)
    ∧ (∀ p, late.findPacket n = some p →
        let due : Prop := workDone late p = true ∧ late.posts.any (fun x => x.ctx == p.ctx) = false ∧ late.isStopped p.ctx (packetWork n 5) = false
        (workDone late p = false ∨ late.posts.any (fun x => x.ctx == p.ctx) = true → ev (.evPacketCompletion n) late)
        ∧ (∀ t, due → (∀ l, p.launch = some l → l.fld 0 3 ≠ 3 ∨ p.started = false) → writeCompletion late p false = .ok t →
            ev (.evPacketCompletion n) (startDrain (forgetPacket t.forgetLate p) p))
        ∧ (∀ l b u t, due → p.launch = some l → l.fld 0 3 = 3 → p.started = true →
            anyDrop (candAcc p.ctx) l.pass (pTx l.pass * pTy l.pass) late = .ok (b, u) → writeCompletion u p b = .ok t →
            ev (.evPacketCompletion n) (startDrain (forgetPacket t.forgetLate p) p)))
    ∧ (∀ p, s.findPacket n = some p → p.started = true → p.ended = false →
        let a := fld p.body 64 64
        (pType p.body = 0 → ev (.evNopPacket n) ended)
        ∧ (∀ r1 r2 t, pType p.body = 3 → s.copies.any (fun c => c.pkt == n) = false → s.isStopped p.ctx (packetWork p.id 4) = false →
            a % 8 = 0 → fld p.body 128 64 % 8 = 0 →
            (do let x ← eRd (candAcc p.ctx) a 64; let y ← eRd (candAcc p.ctx) (fld p.body 128 64) 64; pure (x, y) : EM _) s = .ok ((r1, r2), t) →
            (packetShapes r1 r2 = none → ev (.evCopy n) (t.endPacket n 1))
            ∧ (∀ src dst, packetShapes r1 r2 = some (src, dst) →
                let id := 2048 + p.die
                let c : Copy := { chan := id, seq := (t.chan id).seq + 1, uid := 0, pkt := n, rank := 0, ctx := p.ctx, cluster := 0, core := 0, band := 0,
                                  batch := 0, src := src, dst := dst }
                rangeCheck { uid := 0, pkt := n, index := 0, members := [] } c = none →
                ev (.evCopy n) { t.putChan { t.chan id with seq := (t.chan id).seq + 1 } with copies := t.copies ++ [c] }))
        ∧ (∀ old t u, pType p.body = 5 → s.ctxRead p.ctx a 8 = (.ok old, t) →
            t.ctxWrite p.ctx a 8 (if p.body.testBit 192 then (old + fld p.body 128 64) % 2 ^ 64 else fld p.body 128 64) = .ok u →
            ev (.evSignal n) (u.modPacket n (fun p => { p with ended := true })))
        ∧ (∀ e t, pType p.body = 5 → s.ctxRead p.ctx a 8 = (.error e, t) → ev (.evSignal n) (s.endPacket n 8))
        ∧ (pType p.body = 6 → p.target = none →
            let s1 := s.modPacket n (fun p => { p with target := some 0 })
            let payload := BitVec.ofNat 64 (fld p.body 192 64)
            (sendTo s (fld p.body 80 12) = .refused → ev (.evUiraise n) (s1.endPacket n 7))
            ∧ (sendTo s (fld p.body 80 12) = .local_ →
                ev (.evUiraise n) (s1.send (fld p.body 64 16) ⟨.host p.pasid, fld p.body 128 6, payload, .packet n⟩))
            ∧ (∀ k, sendTo s (fld p.body 80 12) = .peer k → ev (.evUiraise n) { s1 with out := { s1.out with
                links := s1.out.links ++ [.send k p.ctx (fld p.body 64 16) (fld p.body 128 6) payload] } }))
        ∧ (pType p.body = 7 →
            (waitHolds s p = none → ev (.evWait n) (s.endPacket n 8) ∧ ev (.evWaitSatisfied n) (s.endPacket n 8))
            ∧ (waitHolds s p = some false → ev (.evWait n) s ∧ ev (.evWaitSatisfied n) s)
            ∧ (waitHolds s p = some true → ev (.evWait n) s
                ∧ ev (.evWaitSatisfied n) ((s.ctxRead p.ctx a 8).2.modPacket n (fun p => { p with ended := true }))))
        ∧ (pType p.body = 8 →
            (∀ t, p.target = some t → s.findPacket t = none → ev (.evCancel n) ended)
            ∧ (∀ q, p.target = none →
                s.packets.find? (fun q => q.die == p.die && q.queue == fld p.body 64 6 && q.n == fld p.body 128 64 && q.id != n) = some q →
                let s1 := s.modPacket n (fun p => { p with target := some q.id })
                (q.ended = true → ev (.evCancel n) s1)
                ∧ (q.ended = false → q.started = false → ev (.evCancel n) (s1.endPacket q.id 3))
                ∧ (q.ended = false → q.started = true → q.launch.isSome = true → ev (.evCancel n) (cancelLaunch s1 q.id 3))
                ∧ (∀ c, q.ended = false → q.started = true → q.launch = none → s1.copies.find? (fun c => c.pkt == q.id && !c.done) = some c →
                    ev (.evCancel n) ((s1.modPacket q.id (fun q => { q with cancelled := true, status := 3 })).abandonLate q.id))))
        ∧ (pType p.body = 9 → ev (.evPreempt n)
            ((((s.groups.filter (fun g => g.ctx == fld p.body 64 16)).map Group.id).foldl deliverPreempt s).modPacket n (fun p => { p with ended := true })))
        ∧ (pType p.body = 10 →
            let c := fld p.body 64 16
            let id := fld p.body 128 64
            let s1 := recheckOwn (recheckEngines s c (fun _ _ => true)) c (fun _ _ => true)
            ev (.evResume n) ({ s1 with wicks := s1.wicks.map (fun (w : Wick) =>
                if w.info.ctx == c && w.trap.parked && w.info.stage == Stage.resident && (id == 0 || w.info.wickId == id) then w.unpark else w) }.modPacket n
              (fun p => { p with ended := true })))
        ∧ (∀ x, pType p.body = 4 → p.snap = some x →
            (x.stage = 0 → mayStop s p = true → ev (.evSnapshotStart n)
              (((s.groups.filter (fun g => g.part == p.part)).map Group.id).foldl deliverPreempt (s.setStage n 1)))
            ∧ (x.stage = 0 → mayStop s p = false → ev (.evSnapshotStart n) s)
            ∧ (x.stage = 1 → partReleased s p.part = false → ev (.evSnapshotStart n) s)
            ∧ (x.stage = 1 → partReleased s p.part = true →
                ev (.evSnapshotStart n) (if p.body.testBit 256 then (sendCuts s p x).setStage n 2 else s.setStage n 3))
            ∧ (x.stage = 2 → missingMembers s p x = [] → ev (.evSnapshotStart n)
                ({ s with cuts := s.cuts.filter (fun y => y.2 != fld p.body 224 32) }.setStage n 3))
            ∧ (x.stage = 2 → x.since + cutLimit ≤ s.now → ev (.evCutTimeout n) ((missingMembers s p x).foldl declareLost s))
            ∧ (x.stage ≠ 2 ∨ s.now < x.since + cutLimit → ev (.evCutTimeout n) s)
            ∧ (∀ t, x.stage = 3 → (x.regions.map Prod.snd).foldl (· + ·) 0 * 3 ≤ (s.now - x.since) * 80000 →
                s.isStopped p.ctx (packetWork n 4) = false → copyRange s p.ctx x.regions (fld p.body 160 64) = .ok t →
                ev (.evSnapshotCopyComplete n) ((t.setStage n 4).modPacket n (fun p => { p with ended := true })))))
    ∧ ev (.evWorldsync n) (s.modPacket n (fun p => if pType p.body = 2 && !p.ended && p.sync.isNone then { p with sync := some { world := fld p.body 64 64 } } else p))
    ∧ (∀ p h es t, s.findPacket n = some p → pType p.body = 4 → p.ended = false → p.snap = none →
        s.isStopped p.ctx (packetWork n 3) = false → readRegions p.ctx (fld p.body 64 64) (fld p.body 128 32) s = .ok ((h, es), t) →
        let rs := es.map parseRegion
        let good : Bool := es.all regionOk && snapHeaderOk t h (p.body.testBit 256) && placesOk t p.ctx (fld p.body 160 64) rs
          && copiesOk t p.ctx h ((rs.map Prod.snd).foldl (· + ·) 0)
        (good = true → ev (.evSnapshot n) (t.modPacket n (fun p => { p with snap := some { header := h, regions := rs } })))
        ∧ (good = false → ev (.evSnapshot n) (t.endPacket n 1)))
    ∧ (∀ (cut : BitVec 32),
        (s.cfg.job = true → s.reaches n = true → (n, cut.toNat) ∉ s.cuts → ev (.evCutMessage n cut) { s with cuts := s.cuts ++ [(n, cut.toNat)] })
        ∧ (s.cfg.job = false ∨ s.reaches n = false → ev (.evCutMessage n cut) s))
    ∧ (∀ d, s.drains.find? (fun d => d.pkt == n) = some d →
        let buddy : Bool := d.stage == 1 && !s.cfg.lost.getLsbD (fld d.header 256 8)
        (drainDue s d = false → ev (.evDrainStageComplete n true) s)
        ∧ (∀ t, drainDue s d = true → s.isStopped d.ctx (packetWork n 6) = false → copyRange s d.ctx [(d.shadow, d.size)] (fld d.header (if buddy then 320 else 384) 64) = .ok t →
            ev (.evDrainStageComplete n true)
              (if buddy then (t.putDrain { d with stage := 2, since := s.now }).postDstat d.ctx d.header 2 d.cut d.size
               else (t.dropDrain n).postDstat d.ctx d.header 3 d.cut d.size))
        ∧ (buddy = true → ev (.evDrainStageComplete n false) s)
        ∧ (buddy = false → ev (.evDrainStageComplete n false)
            ((s.fresh.2.dropDrain n).postDstat d.ctx d.header 4 d.cut (s.fresh.1 % (d.size + 1)))))

/-- What the host, the driver and the power manager do (13 R272, R276, R279; 19 R368 to R371; 20 R394 to R401; 21 R418, R419). Before the
firmware runs the control region answers nothing (log 86). The addresses of a host access are log 22's, an ignored configuration write is
log 77's, that every port fails when NODE takes a number the device reaches log 78's, that a partition without a cluster clashes with none
log 76's, and that a throttle change outside the tables is ignored log 95's. -/
def Obligations.HostEvents : Prop :=
  ∀ (s : State),
    let ev (i : Instr) (t : State) : Prop := exec i s = .next t
    (∀ (pasid : Option (BitVec 20)) (offset size : Nat) (payload : Word),
        let i := Instr.evDoorbellSend pasid offset size payload
        let drop := s.answerSend ⟨.loss, 0, 0, .doorbell⟩ false
        (s.cfg.boot ≠ 1 → ev i s)
        ∧ (s.cfg.boot = 1 → pasid = none ∨ size ≠ 8 ∨ 0x200 ≤ offset ∨ offset % 8 ≠ 0 → ev i drop)
        ∧ (∀ p x, s.cfg.boot = 1 → pasid = some p → size = 8 → offset < 0x200 → offset % 8 = 0 → s.ctxs.find? (fun x => x.pasid == p) = some x →
            ev i (s.send x.id ⟨.host p.toNat, offset / 8, payload, .doorbell⟩)))
    ∧ (∀ (node sender target vector : Nat) (payload : Word),
        let i := Instr.evPeerSend node sender target vector payload
        (s.reaches node = false → ev i s)
        ∧ (s.reaches node = true → s.cfg.job = true → vector < 64 → ev i (s.send target ⟨.peer node sender, vector, payload, .peer node⟩))
        ∧ (s.reaches node = true → s.cfg.job = false ∨ 64 ≤ vector → ev i (s.answerSend ⟨.loss, 0, 0, .peer node⟩ false)))
    ∧ (∀ (u f : Nat) (w : Wick) (ok : Bool), s.neighbours ≠ [] → s.findWick u = some w → s.findPacket u = none → (w.frag f).wait.send = some none →
        ev (.evPeerSendAnswer (u, f) ok) (s.putWick (w.modWait f (fun y => { y with send := some (some ok) }))))
    ∧ (∀ (u f : Nat) (p : Packet) (ok : Bool), s.neighbours ≠ [] → s.findWick u = none → s.findPacket u = some p → fld p.body 0 8 = 6 →
        p.started = true → ev (.evPeerSendAnswer (u, f) ok) (s.modPacket u (fun p =>
          if fld p.body 0 8 = 6 && p.started then { p with ended := true, status := if ok then 0 else 7 } else p)))
    ∧ (∀ (part : Nat) (token value : Word),
        (s.cfg.boot ≠ 1 ∨ s.requests.find? (fun r => r.token == token) = none → ev (.evServiceReply part token value) s)
        ∧ (∀ r w, s.cfg.boot = 1 → s.requests.find? (fun r => r.token == token) = some r → s.findWick r.uid = some w →
            let s1 : State := { s with requests := s.requests.filter (fun x => x.token != token) }
            let shown : Bool := w.svcShown.any (fun c => c.token == token)
            let away : Prop := s.ctxPart w.info.ctx = part ∧ w.info.stage = .descheduled
            (s.ctxPart w.info.ctx ≠ part → ev (.evServiceReply part token value) s)
            ∧ (s.ctxPart w.info.ctx = part → w.info.stage ≠ .descheduled →
                ev (.evServiceReply part token value) ((s1.learn w.info.coreId r.svc value).putWick (w.takeReply token value)))
            ∧ (away → shown = true → ev (.evServiceReply part token value)
                (s1.post { ctx := w.info.ctx, va := (s.wsave w.info).toNat + 0x80, len := 16, value := value.toNat + 2 ^ 64 }))
            ∧ (away → shown = false → ev (.evServiceReply part token value) (s1.putWick (w.takeReply token value)))))
    ∧ (∀ (addr size : Nat) (dirty : Bool),
        let answer (a : Option Nat) : State := { s with out := { s.out with answer := a } }
        (addr < ctlSize → ev (.evHostMemoryAccess addr size none) (answer (some (leVal ((List.range size).map (fun i => ctlByte s (addr + i)))))))
        ∧ (∀ v, addr < ctlSize → ev (.evHostMemoryAccess addr size (some (v, dirty))) (ctlStore s addr size v))
        ∧ (∀ i, s.cfg.boot ≠ 1 → ctlByte s i = 0) ∧ (∀ i n v, s.cfg.boot ≠ 1 → ctlStore s i n v = s)
        ∧ (∀ k, ctlSize ≤ addr → hostKey s addr size = some k →
            (s.poisoned k size = false → ev (.evHostMemoryAccess addr size none) (answer (some (s.mem.read k size))))
            ∧ (s.poisoned k size = true → ev (.evHostMemoryAccess addr size none) (answer none))
            ∧ (∀ v, let s1 : State := s.storePieces [(k, size)] (leBytes size v)
                ev (.evHostMemoryAccess addr size (some (v, dirty))) (if dirty then s1.poisonBytes k size else s1).flushErrs))
        ∧ (ctlSize ≤ addr → hostKey s addr size = none → ev (.evHostMemoryAccess addr size none) (answer none)))
    ∧ (∀ (node pa size : Nat),
        let key := keyLocal pa
        let old := s.mem.read key size
        let stored (v : Nat) : State := s.storePieces [(key, size)] (leBytes size v)
        let answer (t : State) (a : Option Nat) : State := { t with out := { t.out with answer := a } }
        let asks (req : PeerReq) (t : State) : Prop := ev (.evPeerMemoryRequest node pa size req) t
        (∀ req, peerAllowed s node pa size = false → asks req (answer s none))
        ∧ (peerAllowed s node pa size = true →
            (s.poisoned key size = false → asks .read (answer s (some old))) ∧ (s.poisoned key size = true → asks .read (answer s none))
            ∧ (∀ v, asks (.write v) (answer (stored v) (some 0)).flushErrs)
            ∧ (∀ v, asks (.poisonedWrite v) ((answer (stored v) (some 0)).poisonBytes key size).flushErrs)
            ∧ (∀ op a b, s.poisoned key size = false → asks (.atomic op a b)
                (answer (stored (peerAtomic op.toNat size old a.toNat b.toNat)) (some old)).flushErrs)
            ∧ (∀ op a b, s.poisoned key size = true → asks (.atomic op a b) (answer s none))))
    ∧ (∀ (die queue index : Nat) (v : Word), die < 4 → queue < 64 → index < 4 → s.cfg.boot = 1 →
        let q := s.queue die queue
        let x := descWord index v
        let set (f : Queue → Queue) : Prop := ev (.evQueueDescriptorWrite die queue index v) (s.modQueue die queue f)
        (q.en = true → index ≠ 0 ∨ x.getLsbD 0 = true → ev (.evQueueDescriptorWrite die queue index v) s)
        ∧ (q.en = true → index = 0 → x.getLsbD 0 = false → set (fun q => { q with desc := q.desc &&& ~~~ (1 : BitVec 256) }))
        ∧ (q.en = false → index ≠ 0 ∨ x.getLsbD 0 = false → set (fun q => { q with desc := setWord q.desc index x }))
        ∧ (q.en = false → index = 0 → x.getLsbD 0 = true → s.homeDie (fld x.toNat 2 3) = some die → set (fun q => { desc := setWord q.desc 0 x })))
    ∧ (∀ v, s.anyBusy = false →
        let s1 : State := { s with cfg := { s.cfg with nodeId := v.extractLsb' 0 8, job := v.getLsbD 8 } }
        let taken : Prop := v.getLsbD 8 = true ∧ s.reaches (v.toNat % 2 ^ 8) = true
        (¬ taken → ev (.evConfigRegisterWrite (.node v)) s1) ∧ (taken → ev (.evConfigRegisterWrite (.node v)) (failPorts s1)))
    ∧ (∀ o, ev (.evConfigRegisterWrite (.cycle o none)) { s with out := { s.out with answer := some (s.dvsec / 2 ^ (8 * o) % 2 ^ 32) } })
    ∧ (∀ v, let cycle (o : Nat) : Host.Outcome State Fault Refusal := exec (.evConfigRegisterWrite (.cycle o (some v))) s
        cycle 0x10 = exec (.evConfigRegisterWrite (.node v)) s ∧ cycle 0x14 = .next s ∧ cycle 0x18 = exec (.evPlimitWrite v) s
        ∧ (∀ p, p < 16 → cycle (0x20 + 4 * p) = exec (.evKlctlWrite p v) s) ∧ (∀ p, p < 8 → cycle (0x60 + 4 * p) = exec (.evPartcfgWrite p v) s)
        ∧ cycle 0x88 = exec (.evConfigRegisterWrite (.erSize v)) s ∧ (∀ o, o % 4 ≠ 0 ∨ 0x90 ≤ o → cycle o = .next s))
    ∧ (∀ v, s.anyBusy = false → v.toNat % 4096 = 0 → ev (.evConfigRegisterWrite (.erBase v)) ({ s with cfg := { s.cfg with erbase := v } } : State).flushErrs)
    ∧ (∀ v k, s.anyBusy = false → 6 ≤ k → k ≤ 16 → v.toNat = 2 ^ k →
        ev (.evConfigRegisterWrite (.erSize v)) ({ s with cfg := { s.cfg with ersize := v } } : State).flushErrs)
    ∧ (∀ v, s.anyBusy = true → ev (.evConfigRegisterWrite (.node v)) s)
    ∧ (∀ v, s.anyBusy = true → ev (.evConfigRegisterWrite (.erBase v)) s)
    ∧ (∀ v, s.anyBusy = true → ev (.evConfigRegisterWrite (.erSize v)) s)
    ∧ (∀ on, ev (.evConfigRegisterWrite (.atomicRequester on)) { s with cfg := { s.cfg with atomReq := on } })
    ∧ (∀ (c : CtxInstall), (s.cfg.boot = 1 → ev (.evConfigRegisterWrite (.context c)) (installCtx s c))
        ∧ (s.cfg.boot ≠ 1 → ev (.evConfigRegisterWrite (.context c)) s))
    ∧ (∀ (part : Nat) (value : BitVec 32),
        let r : BitVec 25 := value.extractLsb' 0 25
        let good : Prop := part < 8 ∧ s.partBusy part = false ∧ (r.extractLsb' 16 9).toNat ≤ 256 ∧ partClash s part r = false
        (good → ev (.evPartcfgWrite part value) { s with cfg := { s.cfg with partcfg := s.cfg.partcfg.setIfInBounds part r } })
        ∧ (¬ good → ev (.evPartcfgWrite part value) s))
    ∧ (∀ (value : BitVec 32),
        let x : BitVec 11 := value.extractLsb' 0 11
        (600 ≤ x.toNat → x.toNat ≤ 1500 → ev (.evPlimitWrite value) { s with cfg := { s.cfg with plimit := x } })
        ∧ (x.toNat < 600 ∨ 1500 < x.toNat → ev (.evPlimitWrite value) s))
    ∧ (∀ (request : Nat), ∃ a, ev (.evSpdmRequest request) { s with free := s.free + 1, out := { s.out with answer := some a } })
    ∧ (∀ (d : Domain) (t : Throttle),
        let cls := Domain.clusters d
        let good : Prop := (∀ c ∈ cls, c < 8) ∧ 1 ≤ t.limit.toNat ∧ t.limit.toNat ≤ 16 ∧ t.kind.toNat ≤ 3
        (¬ good → ev (.evThrottleChange d t) s)
        ∧ (good → (∀ x ∈ s.ctxs, s.tren x.id = false) → ev (.evThrottleChange d t) { s with
            power := cls.foldl (fun (v : Vector Power 8) c => v.setIfInBounds c ⟨t.mhz, t.mv, t.limit⟩) s.power
            domSeq := s.domSeq.setIfInBounds (Domain.source d) ((s.domSeq[Domain.source d]?.getD 0) + 1) }))

/-- Resets, links and errors (19 R369, R392, R393; 20 R397 to R410). A rung is taken unless a rung at least as high is busy, and is busy until
it is done; a function-level or a cold reset leaves every register and all state at its reset value, but the clock under a function-level
reset, BOOTST and SVN, which the verified firmware gives, memory and its poison, and what is the model's own (the agenda, the numbers given
and what went out), and device DRAM as it was but under a function-level reset of PCIe; a port trains and fails
as the table of states gives; a lost node is lost once; an error is recorded, and one that lasts retires its unit. The model's choices: memory
never written reads 0 (log 1), and a cold reset keeps device DRAM (log 128); what a port that fails or trains means for other nodes is log 75
and log 78; a rung under a busy one and rung 1 are log 82 and log 83; errors are counted by whole unit (log 72), and poison stays in its sector
when it is consumed (log 73). -/
def Obligations.ResetAndErrorEvents : Prop :=
  ∀ (s : State) (die : Nat),
    let ev (i : Instr) (t : State) : Prop := exec i s = .next t
    let d : Die := s.dies[die]?.getD {}
    let rung (i : Instr) (n : Nat) (t : State) : Prop :=
      (s.cfg.boot = 1 → die < 4 → (d.busy = false ∨ d.lastRung.toNat < n) →
        ev i (t.modDie die (fun d => { d with lastRung := BitVec.ofNat 3 n, busy := true })))
      ∧ (s.cfg.boot ≠ 1 ∨ 4 ≤ die ∨ (d.busy = true ∧ n ≤ d.lastRung.toNat) → ev i s)
    rung (.evRecover die) 1 s
    ∧ rung (.evResetRung2 die) 2 ((s.packets.filter (fun p => p.die == die)).foldl revalidate s)
    ∧ (∀ part, rung (.evResetRung3 die part) 3 (partReset s part)
        ∧ (∀ p ∈ s.packets, p.part = part → ∃ q ∈ (partReset s part).packets, q.id = p.id ∧ q.ended = true ∧ q.status = 6 ∧ q.launch = none)
        ∧ (∀ w ∈ (partReset s part).wicks, s.ctxPart w.info.ctx ≠ part))
    ∧ rung (.evResetRung4 die) 4 (dieReset s die)
    ∧ (die < 4 → d.busy = true → ev (.evRungCompletion die) (s.modDie die (fun d => if d.busy then { d with busy := false, rungs := d.rungs + 1 } else d)))
    ∧ (∀ (f : Firmware) (cxl : Bool), ∃ t u : State, ev (.evFunctionLevelReset cxl f) t ∧ ev (.evColdReset f) u
        ∧ (let fresh (v : State) (now : Nat) (cycles : Vector Nat 8) : State := { State.reset with
             now := now, cycles := cycles, cycBase := cycles, mem := v.mem, older := v.older, poison := v.poison, free := s.free,
             agenda := s.agenda, nextUid := s.nextUid, out := s.out, dies := Vector.replicate 4 { tick := now },
             cfg := { State.reset.cfg with boot := v.cfg.boot, svn := v.cfg.svn } }
           t = fresh t s.now s.cycles ∧ u = fresh u 0 (Vector.replicate 8 0))
        ∧ (∀ y ∈ t.poison, y ∈ s.poison) ∧ (∀ y ∈ u.poison, y ∈ s.poison)
        ∧ t.cfg.boot = u.cfg.boot ∧ t.cfg.svn = u.cfg.svn
        ∧ u.cfg.svn = (if u.cfg.boot = 1 then f.svn else Config.fuseSvn)
        ∧ (u.cfg.boot = 1 ↔ f.ecdsaOk = true ∧ f.lmsOk = true ∧ Config.fuseSvn.toNat ≤ f.svn.toNat)
        ∧ (cxl = true → s.memWf → ∀ k, k < 2 ^ 64 → t.mem.get k = s.mem.get k) ∧ (cxl = false → ∀ k, k < 2 ^ 64 → t.mem.get k = 0)
        ∧ (s.memWf → ∀ k, k < 2 ^ 64 → u.mem.get k = s.mem.get k))
    ∧ (s.cfg.boot = 1 → die < 4 → d.tick + pilotPeriod ≤ s.now →
        ev (.evPilotTick die) (s.modDie die (fun d => { d with pilot := d.pilot + 1, tick := d.tick + pilotPeriod })))
    ∧ (s.now < d.tick + pilotPeriod → ev (.evPilotTick die) s)
    ∧ (∀ (port : Nat) (value : BitVec 32), port < 16 → s.dieBusy (port / 4) = false →
        (portEn (s.port port) = false → value.getLsbD 0 = true →
          ev (.evKlctlWrite port value) (setPort s port (mkPort true (value.getLsbD 1) 1 0)))
        ∧ (portEn (s.port port) = false → value.getLsbD 0 = false →
            ev (.evKlctlWrite port value) (setPort s port (mkPort false (value.getLsbD 1) 0 0)))
        ∧ (portEn (s.port port) = true → value.getLsbD 0 = true → ev (.evKlctlWrite port value) s)
        ∧ (portEn (s.port port) = true → value.getLsbD 0 = false →
            ev (.evKlctlWrite port value) (setPort s port (mkPort false (portGen (s.port port)) 0 0))))
    ∧ (∀ (port : Nat) (peer : BitVec 8) (gen : Bool), port < 16 → portEn (s.port port) = true →
        let k := s.port port
        let fails : State := setPort s port (mkPort true (portGen k) 3 0)
        (portState k = 1 ∨ portState k = 2 → ev (.evLinkStateChange port false peer gen) fails)
        ∧ (portState k = 1 → gen ≠ portGen k → ev (.evLinkStateChange port true peer gen) fails)
        ∧ (portState k = 1 → gen = portGen k →
            let up := setPort s port (mkPort true (portGen k) 2 peer.toNat)
            let taken : Prop := s.cfg.job = true ∧ up.reaches s.cfg.nodeId.toNat = true
            (¬ taken → ev (.evLinkStateChange port true peer gen) up) ∧ (taken → ev (.evLinkStateChange port true peer gen) (failPorts up))
            ∧ (peer = s.cfg.nodeId → up.reaches s.cfg.nodeId.toNat = true)))
    ∧ (∀ (n : Nat), s.neighbours = [] → ev (.evLossNotice n) s)
    ∧ (∀ (n : Nat), s.neighbours ≠ [] → n < 256 → s.cfg.job = true → n ≠ s.cfg.nodeId.toNat → s.cfg.lost.getLsbD n = false → ∃ t u : State,
        ev (.evLossNotice n) t ∧ ev (.evLinkHeartbeatTimeout n) u ∧ t.cfg.lost = s.cfg.lost ||| BitVec.ofNat 256 (2 ^ n) ∧ u.cfg.lost = t.cfg.lost)
    ∧ (∀ (n : Nat), 256 ≤ n ∨ s.cfg.job = false ∨ n = s.cfg.nodeId.toNat ∨ s.cfg.lost.getLsbD n = true →
        ev (.evLossNotice n) s ∧ ev (.evLinkHeartbeatTimeout n) s)
    ∧ (∀ (u : UnitId) (spare : Bool),
        let others := s.unitTimes u
        let t := ({ s with errs := ⟨wholeUnit u, s.now :: others⟩ :: s.errs.filter (fun e => e.unit != wholeUnit u) } : State).postErr
          { kind := 1, unit := u.unit.toNat, srcid := u.srcId.toNat, count := others.length + 1, addr := u.addr.toNat, parts := u.parts.toNat }
        (others.length < 3 → ev (.evCorrectableError u spare) t)
        ∧ (3 ≤ others.length → ev (.evCorrectableError u spare) (lastingFault t u spare (others.length + 1))))
    ∧ (∀ (u : UnitId) (key : Nat), ∃ t : State, ev (.evUncorrectableError u key) t ∧ t.poisoned key 1 = true)
    ∧ (∀ (c : Consumer), s.poison = [] → ev (.evPoisonConsumption c) s)
    ∧ (∀ (c : Consumer), s.poison ≠ [] → ∃ y ∈ s.poison, ∃ t : State, t.poison = s.poison ∧ ev (.evPoisonConsumption c) (consume t c y.2))

/-- Words written out from the fields of 05 R126 to R132 and 14 R312 decode to the instructions they stand for, one of each family; TY 15,
an unassigned opcode, GP 15 with GN 1 and a register in an absent field are refused (05 R126 to R128, R136; 03 R69). -/
def Obligations.DecodeWords : Prop :=
  (decode 0x0107800000000000FFFFFFF3).toOption = some (.bra ⟨0, false, 15⟩ ⟨0, 0, 0, 0, 0, 0, 0x1FFFFFFE, 3⟩)
  ∧ (decode 0x100780810180500000000000).toOption = some (.sadd ⟨0, false, 15⟩ ⟨1, 2, 3, 0, .i64, .rne, false, false, false, false, false, 0⟩)
  ∧ (decode 0x290781800000000000000040).toOption = some (.mfpr ⟨0, false, 15⟩ ⟨3, 0, 0, 0x40⟩)
  ∧ (decode 0x3008C10280000818FFFFFFFF).toOption = some (.vadd ⟨0, true, 1⟩ ⟨130, 5, 0, 0, .i32, .rne, false, false, false, true, true, 0xFFFFFFFF⟩)
  ∧ (decode 0x5007848505801A8000000000).toOption = some (.fadd ⟨0, false, 15⟩ ⟨9, 10, 11, 0, .f32, .rup, true, false, false, false, false, 0⟩)
  ∧ (decode 0x711780810000000800000005).toOption = some (.lrot ⟨1, false, 15⟩ ⟨1, 2, 0, 0, .b32, .rne, false, false, false, false, true, 5⟩)
  ∧ (decode 0x9007827F8BC20000FFFFFFF8).toOption = some (.ld ⟨0, false, 15⟩ ⟨4, 0xFF, 5, 7, .glob, .b4, .plain, .relaxed, false, false, false, 0, 0xFFFFFFF8⟩)
  ∧ (decode 0xB40103800000000000000000).toOption = some (.seal ⟨0, false, 2⟩ ⟨7, 0, 0, 0, 0, 0⟩)
  ∧ (decode 0xC60780030000000000000000).toOption = some (.mwait ⟨0, false, 15⟩ ⟨0, 6, 0, 0, 0, 0⟩)
  ∧ (decode 0xD10784060000000000000000).toOption = some (.edel ⟨0, false, 15⟩ ⟨8, 12, 0, 0, 0, 0⟩)
  ∧ (decode 0xE20781820000000000000000).toOption = some (.kdup ⟨0, false, 15⟩ ⟨3, 4, 0, 0, 0, 0⟩)
  ∧ (decode 0xEF0780000000000000000000).toOption = some (.nodefin ⟨0, false, 15⟩ ⟨0, 0, 0, 0, 0, 0⟩)
  ∧ (decode 0xF80780810180000000000000).toOption = some (.rsusp ⟨0, false, 15⟩ ⟨1, 2, 3, 0, 0, 0⟩)
  ∧ (decodeMicro 0x68001309).toOption = some (.mJif true 3 9)
  ∧ (decodeMicro 0x700000C8).toOption = some (.mCnt 0 200)
  ∧ (decodeMicro 0x80000000).toOption = some (.mDone)
  ∧ (decode 0x100780810180780000000000).toOption = none
  ∧ (decode 0x450780000000000000000000).toOption = none
  ∧ (decode 0x000F80000000000000000000).toOption = none
  ∧ (decode 0x100780810180D00000000000).toOption = none

/-! ### The step -/

/-- A step runs the decoded instruction (05 R119 to R125, R136; 01 R20; 19 R387, R389). The front end gives the instruction in the slot of the
PC of the line the fragment holds, or of a line that is fetched, whose parity holds, that is legal and, at an entry, a legal target; a line
none of whose bytes has been overwritten is the 64 bytes of memory its translation names (what a fetch finds else is log 102's). A wick's turn
runs exec of the instruction of its least recently issued fragment, and marks it as issued; one that waits keeps its place and counts one
stall row (log 54); the second of a pair follows in the same step (log 89); under the issue limit nothing issues. A core's access turn issues
from the sliced wick that issued longest ago, once a cycle. A ray's turn runs exec of the microinstruction at its MPC, and an event's turn
exec of that event (log 3). A move that uses poisoned data has no effect, and what makes it stops (20 R402, log 73); one of the Candelabrum or of
the Ocris that meets no refused sector goes on as it would without poison; without poison a turn is as said. Every wick that has no turn counts the cycle (21 R417). -/
def Obligations.StepRunsInstruction : Prop :=
  (∀ (s s1 : State) (w : Wick) (f line : Nat) (i : Instr),
       let pc := w.issuePc f
       let w1 := (w.holdLine f pc line).pastEntry f
       pcForm pc = true → fetchChecked s w.info.coreId w.info.ctx w.trap.sl (pcLine pc) (pcSlot pc) (w.heldLine f pc) = (.line line, s1) →
       (w.atEntry f = true → lineT line (pcSlot pc) = true) → lineIllegal line = false → decode (lineSlot line (pcSlot pc)) = .ok i →
       comparator w1 f i line = none → frontEnd s w f = .go s1 w1 i line)
  ∧ (∀ (s : State) (core c addr j l : Nat) (sl : Bool), parityOk l j = true → fetchChecked s core c sl addr j (some l) = (.line l, s))
  ∧ (∀ (s t : State) (core c addr key j : Nat) (sl : Bool), xlate s c sl ⟨3, 0, 0⟩ addr = (.ok key, t) →
       let l := lineAt t core c addr key
       (parityOk l j = true → fetchChecked s core c sl addr j none = (.line l, t))
       ∧ ((∀ x ∈ t.older.past, x.key < key ∨ key + 64 ≤ x.key) → l = t.mem.read key 64))
  ∧ (∀ (s t : State) (by_ : Asker) (take : State → Nat → State) (go : State → Host.Outcome State Fault Refusal),
       let used := s.poison.find? (fun y => s.consumes go y.1 y.2)
       (used = none → go s = .next t → s.guarded by_ take go = .next t)
       ∧ (∀ k n, used = some (k, n) → n ≠ 0 → s.guarded by_ take go = .next (take s n))
       ∧ (∀ k, used = some (k, 0) → s.guarded by_ take go = .next (take (outsideError s by_ k).1 (outsideError s by_ k).2))
       ∧ (s.refusedBy go = [] → s.besides by_ go = go s))
  ∧ (∀ (s s2 t : State) (uid f line : Nat) (fs : List Nat) (rest : List Turn) (w0 w2 : Wick) (i : Instr), s.agenda = .issue uid :: rest → s.poison = [] →
       let s0 := (s.tick rest).bystand (fun w => w.info.uid == uid)
       let w := w0.parkCheck
       let s1 := s0.putWick w
       s0.findWick uid = some w0 → w0.info.stage = .resident → w.canRun = true → w.fragOrder s0.free = f :: fs → heldTurn s1 w = none →
       frontEnd s1 w f = .go s2 w2 i line → exec i { s2.putWick w2 with cur := .wick uid f } = .next t →
       let second : Bool := w.books.pair == some f
       let t1 := afterIssue s2 t w2 f i line second
       let opens : Bool := !second && (t1.findWick uid).any (fun x => x.books.pair.isSome)
       let clock (u : State) : Nat := u.clock (w0.port / 256)
       let ends (u : State) : Prop := step s = .next ((u.modWick uid (fun w => w.issuedAt (clock u))).noteIssue w0.port)
       (s0.limited w0.port = false →
         (opens = false → waitRow s1 t1 uid f = none → ends t1)
         ∧ (∀ n, opens = false → waitRow s1 t1 uid f = some n → fs = [] →
             let u := (restoreStall s1 t1 uid).modWick uid (fun w' => w'.countRow (n :: otherRows s1 w))
             step s = .next (u.modWick uid (fun w => w.rested (clock u))))
         ∧ (∀ u, opens = true → issueOne t1 uid f true = .next u → waitRow t1 u uid f = none → waitRow s1 u uid f = none → ends u))
       ∧ (s0.limited w0.port = true → step s = .next (passOver s0 uid)))
  ∧ (∀ (s t : State) (core : Nat) (rest : List Turn) (w : Wick) (ws : List Wick), s.agenda = .access core :: rest → s.poison = [] →
       let s0 := (s.tick rest).idleCycle
       let clock := s0.clock (core / 64)
       let had : Bool := s0.wicks.any (fun x => x.info.coreId == core && x.access.isSome && x.accessLast == clock && x.accessLast != 0)
       let s1 := s0.putWick w.swapSlice
       let uid := w.info.uid
       (had = true → step s = .next s0)
       ∧ (had = false → sortBy (fun x => (x.accessLast * 4 + x.info.part) * 16 + x.info.slot)
             (s0.wicks.filter (fun x => x.info.coreId == core && x.accessReady)) = w :: ws →
           issueOne s1 uid 0 true = .next t → waitRow s1 t uid 0 = none →
           let u := restoreStall s0 (t.modWick uid (fun x => if x.inAccess then x.swapSlice else x)) uid
           step s = .next (u.modWick uid (fun x => { x with access := x.access.map (fun a => { a with last := s0.clock w.info.cluster }) }))))
  ∧ (∀ (s : State) (id : Nat) (word : BitVec 32) (rest : List Turn) (i : Instr), s.agenda = .micro id :: rest → s.poison = [] →
       (s.findRay id).isSome = true → s.microWord id = some word → decodeMicro word = .ok i →
       step s = exec i { (s.tick rest).idleCycle with cur := .ray id })
  ∧ (∀ (s : State) (rest : List Turn) (i : Instr), s.agenda = .event i :: rest → s.poison = [] → isEvent i = true →
       step s = exec i { (s.tick rest).idleCycle with cur := (makerOf (s.tick rest) i).actor (s.tick rest) })

/-- No step faults or refuses: whatever the state, the machine answers a next state (05 R136 makes every encoding that is not legal a trap,
and a trap is a next state; 16 R346 makes even a trap that cannot be taken one). -/
def Obligations.StepNeverStops : Prop := ∀ (s : State), Goes s

/-- Every step keeps memory in its canonical form: addresses rising, and no byte listed that equals what an unlisted one reads as (log 1). -/
def Obligations.StepKeepsMemory : Prop := ∀ (s t : State), s.memWf → step s = .next t → t.memWf

/-- Reset (20 R401; 02 R61; 19 R370, R392; 21 R418): no wick, packet or context, nothing listed in memory, TIMER and PILOT zero, no queue enabled,
no port enabled, BOOTST.STATE 0, PLIMIT 1500 W, no core retired and no node lost. That nothing is listed means that every byte reads 0, which
is the model's choice (log 1). -/
def Obligations.ResetState : Prop :=
  State.reset.memWf ∧ State.reset.mem = [] ∧ State.reset.wicks = [] ∧ State.reset.packets = [] ∧ State.reset.ctxs = []
  ∧ State.reset.timer = 0 ∧ (∀ d, d < 4 → (State.reset.dies[d]?.getD {}).pilot = 0) ∧ (∀ d q, (State.reset.queue d q).en = false)
  ∧ (∀ n, portEn (State.reset.port n) = false) ∧ State.reset.cfg.boot = 0 ∧ State.reset.cfg.plimit = 1500
  ∧ (∀ c k, c < 8 → State.reset.coreRetired c k = false) ∧ State.reset.cfg.lost = 0
end

