-- ==== Sys2Proof/Laws/State.lean ====
section
/-! SUPPORT. What each update of the state leaves alone: one lemma per update and field. -/

namespace Sys2Proof.Machine

/-! ### putWick -/

@[simp] theorem State.putWick_now (s : State) (w : Wick) : (s.putWick w).now = s.now := rfl
@[simp] theorem State.putWick_cycBase (s : State) (w : Wick) : (s.putWick w).cycBase = s.cycBase := rfl
@[simp] theorem State.putWick_cycles (s : State) (w : Wick) : (s.putWick w).cycles = s.cycles := rfl
@[simp] theorem State.putWick_mem (s : State) (w : Wick) : (s.putWick w).mem = s.mem := rfl
@[simp] theorem State.putWick_icinvs (s : State) (w : Wick) : (s.putWick w).icinvs = s.icinvs := rfl
@[simp] theorem State.putWick_tlb (s : State) (w : Wick) : (s.putWick w).tlb = s.tlb := rfl
@[simp] theorem State.putWick_free (s : State) (w : Wick) : (s.putWick w).free = s.free := rfl
@[simp] theorem State.putWick_cur (s : State) (w : Wick) : (s.putWick w).cur = s.cur := rfl
@[simp] theorem State.putWick_agenda (s : State) (w : Wick) : (s.putWick w).agenda = s.agenda := rfl
@[simp] theorem State.putWick_nextUid (s : State) (w : Wick) : (s.putWick w).nextUid = s.nextUid := rfl
@[simp] theorem State.putWick_snaps (s : State) (w : Wick) : (s.putWick w).snaps = s.snaps := rfl
@[simp] theorem State.putWick_ctxs (s : State) (w : Wick) : (s.putWick w).ctxs = s.ctxs := rfl
@[simp] theorem State.putWick_cfg (s : State) (w : Wick) : (s.putWick w).cfg = s.cfg := rfl
@[simp] theorem State.putWick_bands (s : State) (w : Wick) : (s.putWick w).bands = s.bands := rfl
@[simp] theorem State.putWick_env (s : State) (w : Wick) : (s.putWick w).env = s.env := rfl
@[simp] theorem State.putWick_conts (s : State) (w : Wick) : (s.putWick w).conts = s.conts := rfl
@[simp] theorem State.putWick_finals (s : State) (w : Wick) : (s.putWick w).finals = s.finals := rfl
@[simp] theorem State.putWick_copies (s : State) (w : Wick) : (s.putWick w).copies = s.copies := rfl
@[simp] theorem State.putWick_chans (s : State) (w : Wick) : (s.putWick w).chans = s.chans := rfl
@[simp] theorem State.putWick_quants (s : State) (w : Wick) : (s.putWick w).quants = s.quants := rfl
@[simp] theorem State.putWick_quantSeq (s : State) (w : Wick) : (s.putWick w).quantSeq = s.quantSeq := rfl
@[simp] theorem State.putWick_quantFaults (s : State) (w : Wick) : (s.putWick w).quantFaults = s.quantFaults := rfl
@[simp] theorem State.putWick_matrices (s : State) (w : Wick) : (s.putWick w).matrices = s.matrices := rfl
@[simp] theorem State.putWick_flushes (s : State) (w : Wick) : (s.putWick w).flushes = s.flushes := rfl
@[simp] theorem State.putWick_flushSeq (s : State) (w : Wick) : (s.putWick w).flushSeq = s.flushSeq := rfl
@[simp] theorem State.putWick_texels (s : State) (w : Wick) : (s.putWick w).texels = s.texels := rfl
@[simp] theorem State.putWick_programs (s : State) (w : Wick) : (s.putWick w).programs = s.programs := rfl
@[simp] theorem State.putWick_rays (s : State) (w : Wick) : (s.putWick w).rays = s.rays := rfl
@[simp] theorem State.putWick_verdicts (s : State) (w : Wick) : (s.putWick w).verdicts = s.verdicts := rfl
@[simp] theorem State.putWick_raySeq (s : State) (w : Wick) : (s.putWick w).raySeq = s.raySeq := rfl
@[simp] theorem State.putWick_requests (s : State) (w : Wick) : (s.putWick w).requests = s.requests := rfl
@[simp] theorem State.putWick_calls (s : State) (w : Wick) : (s.putWick w).calls = s.calls := rfl
@[simp] theorem State.putWick_predict (s : State) (w : Wick) : (s.putWick w).predict = s.predict := rfl
@[simp] theorem State.putWick_graphs (s : State) (w : Wick) : (s.putWick w).graphs = s.graphs := rfl
@[simp] theorem State.putWick_packets (s : State) (w : Wick) : (s.putWick w).packets = s.packets := rfl
@[simp] theorem State.putWick_late (s : State) (w : Wick) : (s.putWick w).late = s.late := rfl
@[simp] theorem State.putWick_groups (s : State) (w : Wick) : (s.putWick w).groups = s.groups := rfl
@[simp] theorem State.putWick_holders (s : State) (w : Wick) : (s.putWick w).holders = s.holders := rfl
@[simp] theorem State.putWick_dies (s : State) (w : Wick) : (s.putWick w).dies = s.dies := rfl
@[simp] theorem State.putWick_posts (s : State) (w : Wick) : (s.putWick w).posts = s.posts := rfl
@[simp] theorem State.putWick_out (s : State) (w : Wick) : (s.putWick w).out = s.out := rfl
@[simp] theorem State.putWick_drains (s : State) (w : Wick) : (s.putWick w).drains = s.drains := rfl
@[simp] theorem State.putWick_cuts (s : State) (w : Wick) : (s.putWick w).cuts = s.cuts := rfl
@[simp] theorem State.putWick_errs (s : State) (w : Wick) : (s.putWick w).errs = s.errs := rfl
@[simp] theorem State.putWick_errSeq (s : State) (w : Wick) : (s.putWick w).errSeq = s.errSeq := rfl
@[simp] theorem State.putWick_errPend (s : State) (w : Wick) : (s.putWick w).errPend = s.errPend := rfl
@[simp] theorem State.putWick_poison (s : State) (w : Wick) : (s.putWick w).poison = s.poison := rfl
@[simp] theorem State.putWick_power (s : State) (w : Wick) : (s.putWick w).power = s.power := rfl
@[simp] theorem State.putWick_issues (s : State) (w : Wick) : (s.putWick w).issues = s.issues := rfl
@[simp] theorem State.putWick_domSeq (s : State) (w : Wick) : (s.putWick w).domSeq = s.domSeq := rfl
@[simp] theorem State.putWick_storeSeq (s : State) (w : Wick) : (s.putWick w).storeSeq = s.storeSeq := rfl
@[simp] theorem State.putWick_retired (s : State) (w : Wick) : (s.putWick w).retired = s.retired := rfl
@[simp] theorem State.putWick_older (s : State) (w : Wick) : (s.putWick w).older = s.older := rfl

/-! ### modWick -/

@[simp] theorem State.modWick_now (s : State) (u : Nat) (f : Wick → Wick) : (s.modWick u f).now = s.now := rfl
@[simp] theorem State.modWick_cycBase (s : State) (u : Nat) (f : Wick → Wick) : (s.modWick u f).cycBase = s.cycBase := rfl
@[simp] theorem State.modWick_cycles (s : State) (u : Nat) (f : Wick → Wick) : (s.modWick u f).cycles = s.cycles := rfl
@[simp] theorem State.modWick_mem (s : State) (u : Nat) (f : Wick → Wick) : (s.modWick u f).mem = s.mem := rfl
@[simp] theorem State.modWick_icinvs (s : State) (u : Nat) (f : Wick → Wick) : (s.modWick u f).icinvs = s.icinvs := rfl
@[simp] theorem State.modWick_tlb (s : State) (u : Nat) (f : Wick → Wick) : (s.modWick u f).tlb = s.tlb := rfl
@[simp] theorem State.modWick_free (s : State) (u : Nat) (f : Wick → Wick) : (s.modWick u f).free = s.free := rfl
@[simp] theorem State.modWick_cur (s : State) (u : Nat) (f : Wick → Wick) : (s.modWick u f).cur = s.cur := rfl
@[simp] theorem State.modWick_agenda (s : State) (u : Nat) (f : Wick → Wick) : (s.modWick u f).agenda = s.agenda := rfl
@[simp] theorem State.modWick_nextUid (s : State) (u : Nat) (f : Wick → Wick) : (s.modWick u f).nextUid = s.nextUid := rfl
@[simp] theorem State.modWick_snaps (s : State) (u : Nat) (f : Wick → Wick) : (s.modWick u f).snaps = s.snaps := rfl
@[simp] theorem State.modWick_ctxs (s : State) (u : Nat) (f : Wick → Wick) : (s.modWick u f).ctxs = s.ctxs := rfl
@[simp] theorem State.modWick_cfg (s : State) (u : Nat) (f : Wick → Wick) : (s.modWick u f).cfg = s.cfg := rfl
@[simp] theorem State.modWick_bands (s : State) (u : Nat) (f : Wick → Wick) : (s.modWick u f).bands = s.bands := rfl
@[simp] theorem State.modWick_env (s : State) (u : Nat) (f : Wick → Wick) : (s.modWick u f).env = s.env := rfl
@[simp] theorem State.modWick_conts (s : State) (u : Nat) (f : Wick → Wick) : (s.modWick u f).conts = s.conts := rfl
@[simp] theorem State.modWick_finals (s : State) (u : Nat) (f : Wick → Wick) : (s.modWick u f).finals = s.finals := rfl
@[simp] theorem State.modWick_copies (s : State) (u : Nat) (f : Wick → Wick) : (s.modWick u f).copies = s.copies := rfl
@[simp] theorem State.modWick_chans (s : State) (u : Nat) (f : Wick → Wick) : (s.modWick u f).chans = s.chans := rfl
@[simp] theorem State.modWick_quants (s : State) (u : Nat) (f : Wick → Wick) : (s.modWick u f).quants = s.quants := rfl
@[simp] theorem State.modWick_quantSeq (s : State) (u : Nat) (f : Wick → Wick) : (s.modWick u f).quantSeq = s.quantSeq := rfl
@[simp] theorem State.modWick_quantFaults (s : State) (u : Nat) (f : Wick → Wick) : (s.modWick u f).quantFaults = s.quantFaults := rfl
@[simp] theorem State.modWick_matrices (s : State) (u : Nat) (f : Wick → Wick) : (s.modWick u f).matrices = s.matrices := rfl
@[simp] theorem State.modWick_flushes (s : State) (u : Nat) (f : Wick → Wick) : (s.modWick u f).flushes = s.flushes := rfl
@[simp] theorem State.modWick_flushSeq (s : State) (u : Nat) (f : Wick → Wick) : (s.modWick u f).flushSeq = s.flushSeq := rfl
@[simp] theorem State.modWick_texels (s : State) (u : Nat) (f : Wick → Wick) : (s.modWick u f).texels = s.texels := rfl
@[simp] theorem State.modWick_programs (s : State) (u : Nat) (f : Wick → Wick) : (s.modWick u f).programs = s.programs := rfl
@[simp] theorem State.modWick_rays (s : State) (u : Nat) (f : Wick → Wick) : (s.modWick u f).rays = s.rays := rfl
@[simp] theorem State.modWick_verdicts (s : State) (u : Nat) (f : Wick → Wick) : (s.modWick u f).verdicts = s.verdicts := rfl
@[simp] theorem State.modWick_raySeq (s : State) (u : Nat) (f : Wick → Wick) : (s.modWick u f).raySeq = s.raySeq := rfl
@[simp] theorem State.modWick_requests (s : State) (u : Nat) (f : Wick → Wick) : (s.modWick u f).requests = s.requests := rfl
@[simp] theorem State.modWick_calls (s : State) (u : Nat) (f : Wick → Wick) : (s.modWick u f).calls = s.calls := rfl
@[simp] theorem State.modWick_predict (s : State) (u : Nat) (f : Wick → Wick) : (s.modWick u f).predict = s.predict := rfl
@[simp] theorem State.modWick_graphs (s : State) (u : Nat) (f : Wick → Wick) : (s.modWick u f).graphs = s.graphs := rfl
@[simp] theorem State.modWick_packets (s : State) (u : Nat) (f : Wick → Wick) : (s.modWick u f).packets = s.packets := rfl
@[simp] theorem State.modWick_late (s : State) (u : Nat) (f : Wick → Wick) : (s.modWick u f).late = s.late := rfl
@[simp] theorem State.modWick_groups (s : State) (u : Nat) (f : Wick → Wick) : (s.modWick u f).groups = s.groups := rfl
@[simp] theorem State.modWick_holders (s : State) (u : Nat) (f : Wick → Wick) : (s.modWick u f).holders = s.holders := rfl
@[simp] theorem State.modWick_dies (s : State) (u : Nat) (f : Wick → Wick) : (s.modWick u f).dies = s.dies := rfl
@[simp] theorem State.modWick_posts (s : State) (u : Nat) (f : Wick → Wick) : (s.modWick u f).posts = s.posts := rfl
@[simp] theorem State.modWick_out (s : State) (u : Nat) (f : Wick → Wick) : (s.modWick u f).out = s.out := rfl
@[simp] theorem State.modWick_drains (s : State) (u : Nat) (f : Wick → Wick) : (s.modWick u f).drains = s.drains := rfl
@[simp] theorem State.modWick_cuts (s : State) (u : Nat) (f : Wick → Wick) : (s.modWick u f).cuts = s.cuts := rfl
@[simp] theorem State.modWick_errs (s : State) (u : Nat) (f : Wick → Wick) : (s.modWick u f).errs = s.errs := rfl
@[simp] theorem State.modWick_errSeq (s : State) (u : Nat) (f : Wick → Wick) : (s.modWick u f).errSeq = s.errSeq := rfl
@[simp] theorem State.modWick_errPend (s : State) (u : Nat) (f : Wick → Wick) : (s.modWick u f).errPend = s.errPend := rfl
@[simp] theorem State.modWick_poison (s : State) (u : Nat) (f : Wick → Wick) : (s.modWick u f).poison = s.poison := rfl
@[simp] theorem State.modWick_power (s : State) (u : Nat) (f : Wick → Wick) : (s.modWick u f).power = s.power := rfl
@[simp] theorem State.modWick_issues (s : State) (u : Nat) (f : Wick → Wick) : (s.modWick u f).issues = s.issues := rfl
@[simp] theorem State.modWick_domSeq (s : State) (u : Nat) (f : Wick → Wick) : (s.modWick u f).domSeq = s.domSeq := rfl
@[simp] theorem State.modWick_storeSeq (s : State) (u : Nat) (f : Wick → Wick) : (s.modWick u f).storeSeq = s.storeSeq := rfl
@[simp] theorem State.modWick_retired (s : State) (u : Nat) (f : Wick → Wick) : (s.modWick u f).retired = s.retired := rfl
@[simp] theorem State.modWick_older (s : State) (u : Nat) (f : Wick → Wick) : (s.modWick u f).older = s.older := rfl

/-! ### modBand -/

@[simp] theorem State.modBand_now (s : State) (b : Nat) (f : Band → Band) : (s.modBand b f).now = s.now := rfl
@[simp] theorem State.modBand_cycBase (s : State) (b : Nat) (f : Band → Band) : (s.modBand b f).cycBase = s.cycBase := rfl
@[simp] theorem State.modBand_cycles (s : State) (b : Nat) (f : Band → Band) : (s.modBand b f).cycles = s.cycles := rfl
@[simp] theorem State.modBand_mem (s : State) (b : Nat) (f : Band → Band) : (s.modBand b f).mem = s.mem := rfl
@[simp] theorem State.modBand_icinvs (s : State) (b : Nat) (f : Band → Band) : (s.modBand b f).icinvs = s.icinvs := rfl
@[simp] theorem State.modBand_tlb (s : State) (b : Nat) (f : Band → Band) : (s.modBand b f).tlb = s.tlb := rfl
@[simp] theorem State.modBand_free (s : State) (b : Nat) (f : Band → Band) : (s.modBand b f).free = s.free := rfl
@[simp] theorem State.modBand_cur (s : State) (b : Nat) (f : Band → Band) : (s.modBand b f).cur = s.cur := rfl
@[simp] theorem State.modBand_agenda (s : State) (b : Nat) (f : Band → Band) : (s.modBand b f).agenda = s.agenda := rfl
@[simp] theorem State.modBand_nextUid (s : State) (b : Nat) (f : Band → Band) : (s.modBand b f).nextUid = s.nextUid := rfl
@[simp] theorem State.modBand_wicks (s : State) (b : Nat) (f : Band → Band) : (s.modBand b f).wicks = s.wicks := rfl
@[simp] theorem State.modBand_snaps (s : State) (b : Nat) (f : Band → Band) : (s.modBand b f).snaps = s.snaps := rfl
@[simp] theorem State.modBand_ctxs (s : State) (b : Nat) (f : Band → Band) : (s.modBand b f).ctxs = s.ctxs := rfl
@[simp] theorem State.modBand_cfg (s : State) (b : Nat) (f : Band → Band) : (s.modBand b f).cfg = s.cfg := rfl
@[simp] theorem State.modBand_env (s : State) (b : Nat) (f : Band → Band) : (s.modBand b f).env = s.env := rfl
@[simp] theorem State.modBand_conts (s : State) (b : Nat) (f : Band → Band) : (s.modBand b f).conts = s.conts := rfl
@[simp] theorem State.modBand_finals (s : State) (b : Nat) (f : Band → Band) : (s.modBand b f).finals = s.finals := rfl
@[simp] theorem State.modBand_copies (s : State) (b : Nat) (f : Band → Band) : (s.modBand b f).copies = s.copies := rfl
@[simp] theorem State.modBand_chans (s : State) (b : Nat) (f : Band → Band) : (s.modBand b f).chans = s.chans := rfl
@[simp] theorem State.modBand_quants (s : State) (b : Nat) (f : Band → Band) : (s.modBand b f).quants = s.quants := rfl
@[simp] theorem State.modBand_quantSeq (s : State) (b : Nat) (f : Band → Band) : (s.modBand b f).quantSeq = s.quantSeq := rfl
@[simp] theorem State.modBand_quantFaults (s : State) (b : Nat) (f : Band → Band) : (s.modBand b f).quantFaults = s.quantFaults := rfl
@[simp] theorem State.modBand_matrices (s : State) (b : Nat) (f : Band → Band) : (s.modBand b f).matrices = s.matrices := rfl
@[simp] theorem State.modBand_flushes (s : State) (b : Nat) (f : Band → Band) : (s.modBand b f).flushes = s.flushes := rfl
@[simp] theorem State.modBand_flushSeq (s : State) (b : Nat) (f : Band → Band) : (s.modBand b f).flushSeq = s.flushSeq := rfl
@[simp] theorem State.modBand_texels (s : State) (b : Nat) (f : Band → Band) : (s.modBand b f).texels = s.texels := rfl
@[simp] theorem State.modBand_programs (s : State) (b : Nat) (f : Band → Band) : (s.modBand b f).programs = s.programs := rfl
@[simp] theorem State.modBand_rays (s : State) (b : Nat) (f : Band → Band) : (s.modBand b f).rays = s.rays := rfl
@[simp] theorem State.modBand_verdicts (s : State) (b : Nat) (f : Band → Band) : (s.modBand b f).verdicts = s.verdicts := rfl
@[simp] theorem State.modBand_raySeq (s : State) (b : Nat) (f : Band → Band) : (s.modBand b f).raySeq = s.raySeq := rfl
@[simp] theorem State.modBand_requests (s : State) (b : Nat) (f : Band → Band) : (s.modBand b f).requests = s.requests := rfl
@[simp] theorem State.modBand_calls (s : State) (b : Nat) (f : Band → Band) : (s.modBand b f).calls = s.calls := rfl
@[simp] theorem State.modBand_predict (s : State) (b : Nat) (f : Band → Band) : (s.modBand b f).predict = s.predict := rfl
@[simp] theorem State.modBand_graphs (s : State) (b : Nat) (f : Band → Band) : (s.modBand b f).graphs = s.graphs := rfl
@[simp] theorem State.modBand_packets (s : State) (b : Nat) (f : Band → Band) : (s.modBand b f).packets = s.packets := rfl
@[simp] theorem State.modBand_late (s : State) (b : Nat) (f : Band → Band) : (s.modBand b f).late = s.late := rfl
@[simp] theorem State.modBand_groups (s : State) (b : Nat) (f : Band → Band) : (s.modBand b f).groups = s.groups := rfl
@[simp] theorem State.modBand_holders (s : State) (b : Nat) (f : Band → Band) : (s.modBand b f).holders = s.holders := rfl
@[simp] theorem State.modBand_dies (s : State) (b : Nat) (f : Band → Band) : (s.modBand b f).dies = s.dies := rfl
@[simp] theorem State.modBand_posts (s : State) (b : Nat) (f : Band → Band) : (s.modBand b f).posts = s.posts := rfl
@[simp] theorem State.modBand_out (s : State) (b : Nat) (f : Band → Band) : (s.modBand b f).out = s.out := rfl
@[simp] theorem State.modBand_drains (s : State) (b : Nat) (f : Band → Band) : (s.modBand b f).drains = s.drains := rfl
@[simp] theorem State.modBand_cuts (s : State) (b : Nat) (f : Band → Band) : (s.modBand b f).cuts = s.cuts := rfl
@[simp] theorem State.modBand_errs (s : State) (b : Nat) (f : Band → Band) : (s.modBand b f).errs = s.errs := rfl
@[simp] theorem State.modBand_errSeq (s : State) (b : Nat) (f : Band → Band) : (s.modBand b f).errSeq = s.errSeq := rfl
@[simp] theorem State.modBand_errPend (s : State) (b : Nat) (f : Band → Band) : (s.modBand b f).errPend = s.errPend := rfl
@[simp] theorem State.modBand_poison (s : State) (b : Nat) (f : Band → Band) : (s.modBand b f).poison = s.poison := rfl
@[simp] theorem State.modBand_power (s : State) (b : Nat) (f : Band → Band) : (s.modBand b f).power = s.power := rfl
@[simp] theorem State.modBand_issues (s : State) (b : Nat) (f : Band → Band) : (s.modBand b f).issues = s.issues := rfl
@[simp] theorem State.modBand_domSeq (s : State) (b : Nat) (f : Band → Band) : (s.modBand b f).domSeq = s.domSeq := rfl
@[simp] theorem State.modBand_storeSeq (s : State) (b : Nat) (f : Band → Band) : (s.modBand b f).storeSeq = s.storeSeq := rfl
@[simp] theorem State.modBand_retired (s : State) (b : Nat) (f : Band → Band) : (s.modBand b f).retired = s.retired := rfl
@[simp] theorem State.modBand_older (s : State) (b : Nat) (f : Band → Band) : (s.modBand b f).older = s.older := rfl

/-! ### modCtx -/

@[simp] theorem State.modCtx_now (s : State) (c : Nat) (f : Ctx → Ctx) : (s.modCtx c f).now = s.now := rfl
@[simp] theorem State.modCtx_cycBase (s : State) (c : Nat) (f : Ctx → Ctx) : (s.modCtx c f).cycBase = s.cycBase := rfl
@[simp] theorem State.modCtx_cycles (s : State) (c : Nat) (f : Ctx → Ctx) : (s.modCtx c f).cycles = s.cycles := rfl
@[simp] theorem State.modCtx_mem (s : State) (c : Nat) (f : Ctx → Ctx) : (s.modCtx c f).mem = s.mem := rfl
@[simp] theorem State.modCtx_icinvs (s : State) (c : Nat) (f : Ctx → Ctx) : (s.modCtx c f).icinvs = s.icinvs := rfl
@[simp] theorem State.modCtx_tlb (s : State) (c : Nat) (f : Ctx → Ctx) : (s.modCtx c f).tlb = s.tlb := rfl
@[simp] theorem State.modCtx_free (s : State) (c : Nat) (f : Ctx → Ctx) : (s.modCtx c f).free = s.free := rfl
@[simp] theorem State.modCtx_cur (s : State) (c : Nat) (f : Ctx → Ctx) : (s.modCtx c f).cur = s.cur := rfl
@[simp] theorem State.modCtx_agenda (s : State) (c : Nat) (f : Ctx → Ctx) : (s.modCtx c f).agenda = s.agenda := rfl
@[simp] theorem State.modCtx_nextUid (s : State) (c : Nat) (f : Ctx → Ctx) : (s.modCtx c f).nextUid = s.nextUid := rfl
@[simp] theorem State.modCtx_wicks (s : State) (c : Nat) (f : Ctx → Ctx) : (s.modCtx c f).wicks = s.wicks := rfl
@[simp] theorem State.modCtx_snaps (s : State) (c : Nat) (f : Ctx → Ctx) : (s.modCtx c f).snaps = s.snaps := rfl
@[simp] theorem State.modCtx_cfg (s : State) (c : Nat) (f : Ctx → Ctx) : (s.modCtx c f).cfg = s.cfg := rfl
@[simp] theorem State.modCtx_bands (s : State) (c : Nat) (f : Ctx → Ctx) : (s.modCtx c f).bands = s.bands := rfl
@[simp] theorem State.modCtx_env (s : State) (c : Nat) (f : Ctx → Ctx) : (s.modCtx c f).env = s.env := rfl
@[simp] theorem State.modCtx_conts (s : State) (c : Nat) (f : Ctx → Ctx) : (s.modCtx c f).conts = s.conts := rfl
@[simp] theorem State.modCtx_finals (s : State) (c : Nat) (f : Ctx → Ctx) : (s.modCtx c f).finals = s.finals := rfl
@[simp] theorem State.modCtx_copies (s : State) (c : Nat) (f : Ctx → Ctx) : (s.modCtx c f).copies = s.copies := rfl
@[simp] theorem State.modCtx_chans (s : State) (c : Nat) (f : Ctx → Ctx) : (s.modCtx c f).chans = s.chans := rfl
@[simp] theorem State.modCtx_quants (s : State) (c : Nat) (f : Ctx → Ctx) : (s.modCtx c f).quants = s.quants := rfl
@[simp] theorem State.modCtx_quantSeq (s : State) (c : Nat) (f : Ctx → Ctx) : (s.modCtx c f).quantSeq = s.quantSeq := rfl
@[simp] theorem State.modCtx_quantFaults (s : State) (c : Nat) (f : Ctx → Ctx) : (s.modCtx c f).quantFaults = s.quantFaults := rfl
@[simp] theorem State.modCtx_matrices (s : State) (c : Nat) (f : Ctx → Ctx) : (s.modCtx c f).matrices = s.matrices := rfl
@[simp] theorem State.modCtx_flushes (s : State) (c : Nat) (f : Ctx → Ctx) : (s.modCtx c f).flushes = s.flushes := rfl
@[simp] theorem State.modCtx_flushSeq (s : State) (c : Nat) (f : Ctx → Ctx) : (s.modCtx c f).flushSeq = s.flushSeq := rfl
@[simp] theorem State.modCtx_texels (s : State) (c : Nat) (f : Ctx → Ctx) : (s.modCtx c f).texels = s.texels := rfl
@[simp] theorem State.modCtx_programs (s : State) (c : Nat) (f : Ctx → Ctx) : (s.modCtx c f).programs = s.programs := rfl
@[simp] theorem State.modCtx_rays (s : State) (c : Nat) (f : Ctx → Ctx) : (s.modCtx c f).rays = s.rays := rfl
@[simp] theorem State.modCtx_verdicts (s : State) (c : Nat) (f : Ctx → Ctx) : (s.modCtx c f).verdicts = s.verdicts := rfl
@[simp] theorem State.modCtx_raySeq (s : State) (c : Nat) (f : Ctx → Ctx) : (s.modCtx c f).raySeq = s.raySeq := rfl
@[simp] theorem State.modCtx_requests (s : State) (c : Nat) (f : Ctx → Ctx) : (s.modCtx c f).requests = s.requests := rfl
@[simp] theorem State.modCtx_calls (s : State) (c : Nat) (f : Ctx → Ctx) : (s.modCtx c f).calls = s.calls := rfl
@[simp] theorem State.modCtx_predict (s : State) (c : Nat) (f : Ctx → Ctx) : (s.modCtx c f).predict = s.predict := rfl
@[simp] theorem State.modCtx_graphs (s : State) (c : Nat) (f : Ctx → Ctx) : (s.modCtx c f).graphs = s.graphs := rfl
@[simp] theorem State.modCtx_packets (s : State) (c : Nat) (f : Ctx → Ctx) : (s.modCtx c f).packets = s.packets := rfl
@[simp] theorem State.modCtx_late (s : State) (c : Nat) (f : Ctx → Ctx) : (s.modCtx c f).late = s.late := rfl
@[simp] theorem State.modCtx_groups (s : State) (c : Nat) (f : Ctx → Ctx) : (s.modCtx c f).groups = s.groups := rfl
@[simp] theorem State.modCtx_holders (s : State) (c : Nat) (f : Ctx → Ctx) : (s.modCtx c f).holders = s.holders := rfl
@[simp] theorem State.modCtx_dies (s : State) (c : Nat) (f : Ctx → Ctx) : (s.modCtx c f).dies = s.dies := rfl
@[simp] theorem State.modCtx_posts (s : State) (c : Nat) (f : Ctx → Ctx) : (s.modCtx c f).posts = s.posts := rfl
@[simp] theorem State.modCtx_out (s : State) (c : Nat) (f : Ctx → Ctx) : (s.modCtx c f).out = s.out := rfl
@[simp] theorem State.modCtx_drains (s : State) (c : Nat) (f : Ctx → Ctx) : (s.modCtx c f).drains = s.drains := rfl
@[simp] theorem State.modCtx_cuts (s : State) (c : Nat) (f : Ctx → Ctx) : (s.modCtx c f).cuts = s.cuts := rfl
@[simp] theorem State.modCtx_errs (s : State) (c : Nat) (f : Ctx → Ctx) : (s.modCtx c f).errs = s.errs := rfl
@[simp] theorem State.modCtx_errSeq (s : State) (c : Nat) (f : Ctx → Ctx) : (s.modCtx c f).errSeq = s.errSeq := rfl
@[simp] theorem State.modCtx_errPend (s : State) (c : Nat) (f : Ctx → Ctx) : (s.modCtx c f).errPend = s.errPend := rfl
@[simp] theorem State.modCtx_poison (s : State) (c : Nat) (f : Ctx → Ctx) : (s.modCtx c f).poison = s.poison := rfl
@[simp] theorem State.modCtx_power (s : State) (c : Nat) (f : Ctx → Ctx) : (s.modCtx c f).power = s.power := rfl
@[simp] theorem State.modCtx_issues (s : State) (c : Nat) (f : Ctx → Ctx) : (s.modCtx c f).issues = s.issues := rfl
@[simp] theorem State.modCtx_domSeq (s : State) (c : Nat) (f : Ctx → Ctx) : (s.modCtx c f).domSeq = s.domSeq := rfl
@[simp] theorem State.modCtx_storeSeq (s : State) (c : Nat) (f : Ctx → Ctx) : (s.modCtx c f).storeSeq = s.storeSeq := rfl
@[simp] theorem State.modCtx_retired (s : State) (c : Nat) (f : Ctx → Ctx) : (s.modCtx c f).retired = s.retired := rfl
@[simp] theorem State.modCtx_older (s : State) (c : Nat) (f : Ctx → Ctx) : (s.modCtx c f).older = s.older := rfl

/-! ### modPacket -/

@[simp] theorem State.modPacket_now (s : State) (i : Nat) (f : Packet → Packet) : (s.modPacket i f).now = s.now := rfl
@[simp] theorem State.modPacket_cycBase (s : State) (i : Nat) (f : Packet → Packet) : (s.modPacket i f).cycBase = s.cycBase := rfl
@[simp] theorem State.modPacket_cycles (s : State) (i : Nat) (f : Packet → Packet) : (s.modPacket i f).cycles = s.cycles := rfl
@[simp] theorem State.modPacket_mem (s : State) (i : Nat) (f : Packet → Packet) : (s.modPacket i f).mem = s.mem := rfl
@[simp] theorem State.modPacket_icinvs (s : State) (i : Nat) (f : Packet → Packet) : (s.modPacket i f).icinvs = s.icinvs := rfl
@[simp] theorem State.modPacket_tlb (s : State) (i : Nat) (f : Packet → Packet) : (s.modPacket i f).tlb = s.tlb := rfl
@[simp] theorem State.modPacket_free (s : State) (i : Nat) (f : Packet → Packet) : (s.modPacket i f).free = s.free := rfl
@[simp] theorem State.modPacket_cur (s : State) (i : Nat) (f : Packet → Packet) : (s.modPacket i f).cur = s.cur := rfl
@[simp] theorem State.modPacket_agenda (s : State) (i : Nat) (f : Packet → Packet) : (s.modPacket i f).agenda = s.agenda := rfl
@[simp] theorem State.modPacket_nextUid (s : State) (i : Nat) (f : Packet → Packet) : (s.modPacket i f).nextUid = s.nextUid := rfl
@[simp] theorem State.modPacket_wicks (s : State) (i : Nat) (f : Packet → Packet) : (s.modPacket i f).wicks = s.wicks := rfl
@[simp] theorem State.modPacket_snaps (s : State) (i : Nat) (f : Packet → Packet) : (s.modPacket i f).snaps = s.snaps := rfl
@[simp] theorem State.modPacket_ctxs (s : State) (i : Nat) (f : Packet → Packet) : (s.modPacket i f).ctxs = s.ctxs := rfl
@[simp] theorem State.modPacket_cfg (s : State) (i : Nat) (f : Packet → Packet) : (s.modPacket i f).cfg = s.cfg := rfl
@[simp] theorem State.modPacket_bands (s : State) (i : Nat) (f : Packet → Packet) : (s.modPacket i f).bands = s.bands := rfl
@[simp] theorem State.modPacket_env (s : State) (i : Nat) (f : Packet → Packet) : (s.modPacket i f).env = s.env := rfl
@[simp] theorem State.modPacket_conts (s : State) (i : Nat) (f : Packet → Packet) : (s.modPacket i f).conts = s.conts := rfl
@[simp] theorem State.modPacket_finals (s : State) (i : Nat) (f : Packet → Packet) : (s.modPacket i f).finals = s.finals := rfl
@[simp] theorem State.modPacket_copies (s : State) (i : Nat) (f : Packet → Packet) : (s.modPacket i f).copies = s.copies := rfl
@[simp] theorem State.modPacket_chans (s : State) (i : Nat) (f : Packet → Packet) : (s.modPacket i f).chans = s.chans := rfl
@[simp] theorem State.modPacket_quants (s : State) (i : Nat) (f : Packet → Packet) : (s.modPacket i f).quants = s.quants := rfl
@[simp] theorem State.modPacket_quantSeq (s : State) (i : Nat) (f : Packet → Packet) : (s.modPacket i f).quantSeq = s.quantSeq := rfl
@[simp] theorem State.modPacket_quantFaults (s : State) (i : Nat) (f : Packet → Packet) : (s.modPacket i f).quantFaults = s.quantFaults := rfl
@[simp] theorem State.modPacket_matrices (s : State) (i : Nat) (f : Packet → Packet) : (s.modPacket i f).matrices = s.matrices := rfl
@[simp] theorem State.modPacket_flushes (s : State) (i : Nat) (f : Packet → Packet) : (s.modPacket i f).flushes = s.flushes := rfl
@[simp] theorem State.modPacket_flushSeq (s : State) (i : Nat) (f : Packet → Packet) : (s.modPacket i f).flushSeq = s.flushSeq := rfl
@[simp] theorem State.modPacket_texels (s : State) (i : Nat) (f : Packet → Packet) : (s.modPacket i f).texels = s.texels := rfl
@[simp] theorem State.modPacket_programs (s : State) (i : Nat) (f : Packet → Packet) : (s.modPacket i f).programs = s.programs := rfl
@[simp] theorem State.modPacket_rays (s : State) (i : Nat) (f : Packet → Packet) : (s.modPacket i f).rays = s.rays := rfl
@[simp] theorem State.modPacket_verdicts (s : State) (i : Nat) (f : Packet → Packet) : (s.modPacket i f).verdicts = s.verdicts := rfl
@[simp] theorem State.modPacket_raySeq (s : State) (i : Nat) (f : Packet → Packet) : (s.modPacket i f).raySeq = s.raySeq := rfl
@[simp] theorem State.modPacket_requests (s : State) (i : Nat) (f : Packet → Packet) : (s.modPacket i f).requests = s.requests := rfl
@[simp] theorem State.modPacket_calls (s : State) (i : Nat) (f : Packet → Packet) : (s.modPacket i f).calls = s.calls := rfl
@[simp] theorem State.modPacket_predict (s : State) (i : Nat) (f : Packet → Packet) : (s.modPacket i f).predict = s.predict := rfl
@[simp] theorem State.modPacket_graphs (s : State) (i : Nat) (f : Packet → Packet) : (s.modPacket i f).graphs = s.graphs := rfl
@[simp] theorem State.modPacket_groups (s : State) (i : Nat) (f : Packet → Packet) : (s.modPacket i f).groups = s.groups := rfl
@[simp] theorem State.modPacket_late (s : State) (i : Nat) (f : Packet → Packet) : (s.modPacket i f).late = s.late := rfl
@[simp] theorem State.modPacket_holders (s : State) (i : Nat) (f : Packet → Packet) : (s.modPacket i f).holders = s.holders := rfl
@[simp] theorem State.modPacket_dies (s : State) (i : Nat) (f : Packet → Packet) : (s.modPacket i f).dies = s.dies := rfl
@[simp] theorem State.modPacket_posts (s : State) (i : Nat) (f : Packet → Packet) : (s.modPacket i f).posts = s.posts := rfl
@[simp] theorem State.modPacket_out (s : State) (i : Nat) (f : Packet → Packet) : (s.modPacket i f).out = s.out := rfl
@[simp] theorem State.modPacket_drains (s : State) (i : Nat) (f : Packet → Packet) : (s.modPacket i f).drains = s.drains := rfl
@[simp] theorem State.modPacket_cuts (s : State) (i : Nat) (f : Packet → Packet) : (s.modPacket i f).cuts = s.cuts := rfl
@[simp] theorem State.modPacket_errs (s : State) (i : Nat) (f : Packet → Packet) : (s.modPacket i f).errs = s.errs := rfl
@[simp] theorem State.modPacket_errSeq (s : State) (i : Nat) (f : Packet → Packet) : (s.modPacket i f).errSeq = s.errSeq := rfl
@[simp] theorem State.modPacket_errPend (s : State) (i : Nat) (f : Packet → Packet) : (s.modPacket i f).errPend = s.errPend := rfl
@[simp] theorem State.modPacket_poison (s : State) (i : Nat) (f : Packet → Packet) : (s.modPacket i f).poison = s.poison := rfl
@[simp] theorem State.modPacket_power (s : State) (i : Nat) (f : Packet → Packet) : (s.modPacket i f).power = s.power := rfl
@[simp] theorem State.modPacket_issues (s : State) (i : Nat) (f : Packet → Packet) : (s.modPacket i f).issues = s.issues := rfl
@[simp] theorem State.modPacket_domSeq (s : State) (i : Nat) (f : Packet → Packet) : (s.modPacket i f).domSeq = s.domSeq := rfl
@[simp] theorem State.modPacket_storeSeq (s : State) (i : Nat) (f : Packet → Packet) : (s.modPacket i f).storeSeq = s.storeSeq := rfl
@[simp] theorem State.modPacket_retired (s : State) (i : Nat) (f : Packet → Packet) : (s.modPacket i f).retired = s.retired := rfl
@[simp] theorem State.modPacket_older (s : State) (i : Nat) (f : Packet → Packet) : (s.modPacket i f).older = s.older := rfl

/-! ### modGroup -/

@[simp] theorem State.modGroup_now (s : State) (i : Nat) (f : Group → Group) : (s.modGroup i f).now = s.now := rfl
@[simp] theorem State.modGroup_cycBase (s : State) (i : Nat) (f : Group → Group) : (s.modGroup i f).cycBase = s.cycBase := rfl
@[simp] theorem State.modGroup_cycles (s : State) (i : Nat) (f : Group → Group) : (s.modGroup i f).cycles = s.cycles := rfl
@[simp] theorem State.modGroup_mem (s : State) (i : Nat) (f : Group → Group) : (s.modGroup i f).mem = s.mem := rfl
@[simp] theorem State.modGroup_icinvs (s : State) (i : Nat) (f : Group → Group) : (s.modGroup i f).icinvs = s.icinvs := rfl
@[simp] theorem State.modGroup_tlb (s : State) (i : Nat) (f : Group → Group) : (s.modGroup i f).tlb = s.tlb := rfl
@[simp] theorem State.modGroup_free (s : State) (i : Nat) (f : Group → Group) : (s.modGroup i f).free = s.free := rfl
@[simp] theorem State.modGroup_cur (s : State) (i : Nat) (f : Group → Group) : (s.modGroup i f).cur = s.cur := rfl
@[simp] theorem State.modGroup_agenda (s : State) (i : Nat) (f : Group → Group) : (s.modGroup i f).agenda = s.agenda := rfl
@[simp] theorem State.modGroup_nextUid (s : State) (i : Nat) (f : Group → Group) : (s.modGroup i f).nextUid = s.nextUid := rfl
@[simp] theorem State.modGroup_wicks (s : State) (i : Nat) (f : Group → Group) : (s.modGroup i f).wicks = s.wicks := rfl
@[simp] theorem State.modGroup_snaps (s : State) (i : Nat) (f : Group → Group) : (s.modGroup i f).snaps = s.snaps := rfl
@[simp] theorem State.modGroup_ctxs (s : State) (i : Nat) (f : Group → Group) : (s.modGroup i f).ctxs = s.ctxs := rfl
@[simp] theorem State.modGroup_cfg (s : State) (i : Nat) (f : Group → Group) : (s.modGroup i f).cfg = s.cfg := rfl
@[simp] theorem State.modGroup_bands (s : State) (i : Nat) (f : Group → Group) : (s.modGroup i f).bands = s.bands := rfl
@[simp] theorem State.modGroup_env (s : State) (i : Nat) (f : Group → Group) : (s.modGroup i f).env = s.env := rfl
@[simp] theorem State.modGroup_conts (s : State) (i : Nat) (f : Group → Group) : (s.modGroup i f).conts = s.conts := rfl
@[simp] theorem State.modGroup_finals (s : State) (i : Nat) (f : Group → Group) : (s.modGroup i f).finals = s.finals := rfl
@[simp] theorem State.modGroup_copies (s : State) (i : Nat) (f : Group → Group) : (s.modGroup i f).copies = s.copies := rfl
@[simp] theorem State.modGroup_chans (s : State) (i : Nat) (f : Group → Group) : (s.modGroup i f).chans = s.chans := rfl
@[simp] theorem State.modGroup_quants (s : State) (i : Nat) (f : Group → Group) : (s.modGroup i f).quants = s.quants := rfl
@[simp] theorem State.modGroup_quantSeq (s : State) (i : Nat) (f : Group → Group) : (s.modGroup i f).quantSeq = s.quantSeq := rfl
@[simp] theorem State.modGroup_quantFaults (s : State) (i : Nat) (f : Group → Group) : (s.modGroup i f).quantFaults = s.quantFaults := rfl
@[simp] theorem State.modGroup_matrices (s : State) (i : Nat) (f : Group → Group) : (s.modGroup i f).matrices = s.matrices := rfl
@[simp] theorem State.modGroup_flushes (s : State) (i : Nat) (f : Group → Group) : (s.modGroup i f).flushes = s.flushes := rfl
@[simp] theorem State.modGroup_flushSeq (s : State) (i : Nat) (f : Group → Group) : (s.modGroup i f).flushSeq = s.flushSeq := rfl
@[simp] theorem State.modGroup_texels (s : State) (i : Nat) (f : Group → Group) : (s.modGroup i f).texels = s.texels := rfl
@[simp] theorem State.modGroup_programs (s : State) (i : Nat) (f : Group → Group) : (s.modGroup i f).programs = s.programs := rfl
@[simp] theorem State.modGroup_rays (s : State) (i : Nat) (f : Group → Group) : (s.modGroup i f).rays = s.rays := rfl
@[simp] theorem State.modGroup_verdicts (s : State) (i : Nat) (f : Group → Group) : (s.modGroup i f).verdicts = s.verdicts := rfl
@[simp] theorem State.modGroup_raySeq (s : State) (i : Nat) (f : Group → Group) : (s.modGroup i f).raySeq = s.raySeq := rfl
@[simp] theorem State.modGroup_requests (s : State) (i : Nat) (f : Group → Group) : (s.modGroup i f).requests = s.requests := rfl
@[simp] theorem State.modGroup_calls (s : State) (i : Nat) (f : Group → Group) : (s.modGroup i f).calls = s.calls := rfl
@[simp] theorem State.modGroup_predict (s : State) (i : Nat) (f : Group → Group) : (s.modGroup i f).predict = s.predict := rfl
@[simp] theorem State.modGroup_graphs (s : State) (i : Nat) (f : Group → Group) : (s.modGroup i f).graphs = s.graphs := rfl
@[simp] theorem State.modGroup_packets (s : State) (i : Nat) (f : Group → Group) : (s.modGroup i f).packets = s.packets := rfl
@[simp] theorem State.modGroup_late (s : State) (i : Nat) (f : Group → Group) : (s.modGroup i f).late = s.late := rfl
@[simp] theorem State.modGroup_holders (s : State) (i : Nat) (f : Group → Group) : (s.modGroup i f).holders = s.holders := rfl
@[simp] theorem State.modGroup_dies (s : State) (i : Nat) (f : Group → Group) : (s.modGroup i f).dies = s.dies := rfl
@[simp] theorem State.modGroup_posts (s : State) (i : Nat) (f : Group → Group) : (s.modGroup i f).posts = s.posts := rfl
@[simp] theorem State.modGroup_out (s : State) (i : Nat) (f : Group → Group) : (s.modGroup i f).out = s.out := rfl
@[simp] theorem State.modGroup_drains (s : State) (i : Nat) (f : Group → Group) : (s.modGroup i f).drains = s.drains := rfl
@[simp] theorem State.modGroup_cuts (s : State) (i : Nat) (f : Group → Group) : (s.modGroup i f).cuts = s.cuts := rfl
@[simp] theorem State.modGroup_errs (s : State) (i : Nat) (f : Group → Group) : (s.modGroup i f).errs = s.errs := rfl
@[simp] theorem State.modGroup_errSeq (s : State) (i : Nat) (f : Group → Group) : (s.modGroup i f).errSeq = s.errSeq := rfl
@[simp] theorem State.modGroup_errPend (s : State) (i : Nat) (f : Group → Group) : (s.modGroup i f).errPend = s.errPend := rfl
@[simp] theorem State.modGroup_poison (s : State) (i : Nat) (f : Group → Group) : (s.modGroup i f).poison = s.poison := rfl
@[simp] theorem State.modGroup_power (s : State) (i : Nat) (f : Group → Group) : (s.modGroup i f).power = s.power := rfl
@[simp] theorem State.modGroup_issues (s : State) (i : Nat) (f : Group → Group) : (s.modGroup i f).issues = s.issues := rfl
@[simp] theorem State.modGroup_domSeq (s : State) (i : Nat) (f : Group → Group) : (s.modGroup i f).domSeq = s.domSeq := rfl
@[simp] theorem State.modGroup_storeSeq (s : State) (i : Nat) (f : Group → Group) : (s.modGroup i f).storeSeq = s.storeSeq := rfl
@[simp] theorem State.modGroup_retired (s : State) (i : Nat) (f : Group → Group) : (s.modGroup i f).retired = s.retired := rfl
@[simp] theorem State.modGroup_older (s : State) (i : Nat) (f : Group → Group) : (s.modGroup i f).older = s.older := rfl

/-! ### putRay -/

@[simp] theorem State.putRay_now (s : State) (r : Ray) : (s.putRay r).now = s.now := rfl
@[simp] theorem State.putRay_cycBase (s : State) (r : Ray) : (s.putRay r).cycBase = s.cycBase := rfl
@[simp] theorem State.putRay_cycles (s : State) (r : Ray) : (s.putRay r).cycles = s.cycles := rfl
@[simp] theorem State.putRay_mem (s : State) (r : Ray) : (s.putRay r).mem = s.mem := rfl
@[simp] theorem State.putRay_icinvs (s : State) (r : Ray) : (s.putRay r).icinvs = s.icinvs := rfl
@[simp] theorem State.putRay_tlb (s : State) (r : Ray) : (s.putRay r).tlb = s.tlb := rfl
@[simp] theorem State.putRay_free (s : State) (r : Ray) : (s.putRay r).free = s.free := rfl
@[simp] theorem State.putRay_cur (s : State) (r : Ray) : (s.putRay r).cur = s.cur := rfl
@[simp] theorem State.putRay_agenda (s : State) (r : Ray) : (s.putRay r).agenda = s.agenda := rfl
@[simp] theorem State.putRay_nextUid (s : State) (r : Ray) : (s.putRay r).nextUid = s.nextUid := rfl
@[simp] theorem State.putRay_wicks (s : State) (r : Ray) : (s.putRay r).wicks = s.wicks := rfl
@[simp] theorem State.putRay_snaps (s : State) (r : Ray) : (s.putRay r).snaps = s.snaps := rfl
@[simp] theorem State.putRay_ctxs (s : State) (r : Ray) : (s.putRay r).ctxs = s.ctxs := rfl
@[simp] theorem State.putRay_cfg (s : State) (r : Ray) : (s.putRay r).cfg = s.cfg := rfl
@[simp] theorem State.putRay_bands (s : State) (r : Ray) : (s.putRay r).bands = s.bands := rfl
@[simp] theorem State.putRay_env (s : State) (r : Ray) : (s.putRay r).env = s.env := rfl
@[simp] theorem State.putRay_conts (s : State) (r : Ray) : (s.putRay r).conts = s.conts := rfl
@[simp] theorem State.putRay_finals (s : State) (r : Ray) : (s.putRay r).finals = s.finals := rfl
@[simp] theorem State.putRay_copies (s : State) (r : Ray) : (s.putRay r).copies = s.copies := rfl
@[simp] theorem State.putRay_chans (s : State) (r : Ray) : (s.putRay r).chans = s.chans := rfl
@[simp] theorem State.putRay_quants (s : State) (r : Ray) : (s.putRay r).quants = s.quants := rfl
@[simp] theorem State.putRay_quantSeq (s : State) (r : Ray) : (s.putRay r).quantSeq = s.quantSeq := rfl
@[simp] theorem State.putRay_quantFaults (s : State) (r : Ray) : (s.putRay r).quantFaults = s.quantFaults := rfl
@[simp] theorem State.putRay_matrices (s : State) (r : Ray) : (s.putRay r).matrices = s.matrices := rfl
@[simp] theorem State.putRay_flushes (s : State) (r : Ray) : (s.putRay r).flushes = s.flushes := rfl
@[simp] theorem State.putRay_flushSeq (s : State) (r : Ray) : (s.putRay r).flushSeq = s.flushSeq := rfl
@[simp] theorem State.putRay_texels (s : State) (r : Ray) : (s.putRay r).texels = s.texels := rfl
@[simp] theorem State.putRay_programs (s : State) (r : Ray) : (s.putRay r).programs = s.programs := rfl
@[simp] theorem State.putRay_verdicts (s : State) (r : Ray) : (s.putRay r).verdicts = s.verdicts := rfl
@[simp] theorem State.putRay_raySeq (s : State) (r : Ray) : (s.putRay r).raySeq = s.raySeq := rfl
@[simp] theorem State.putRay_requests (s : State) (r : Ray) : (s.putRay r).requests = s.requests := rfl
@[simp] theorem State.putRay_calls (s : State) (r : Ray) : (s.putRay r).calls = s.calls := rfl
@[simp] theorem State.putRay_predict (s : State) (r : Ray) : (s.putRay r).predict = s.predict := rfl
@[simp] theorem State.putRay_graphs (s : State) (r : Ray) : (s.putRay r).graphs = s.graphs := rfl
@[simp] theorem State.putRay_packets (s : State) (r : Ray) : (s.putRay r).packets = s.packets := rfl
@[simp] theorem State.putRay_late (s : State) (r : Ray) : (s.putRay r).late = s.late := rfl
@[simp] theorem State.putRay_groups (s : State) (r : Ray) : (s.putRay r).groups = s.groups := rfl
@[simp] theorem State.putRay_holders (s : State) (r : Ray) : (s.putRay r).holders = s.holders := rfl
@[simp] theorem State.putRay_dies (s : State) (r : Ray) : (s.putRay r).dies = s.dies := rfl
@[simp] theorem State.putRay_posts (s : State) (r : Ray) : (s.putRay r).posts = s.posts := rfl
@[simp] theorem State.putRay_out (s : State) (r : Ray) : (s.putRay r).out = s.out := rfl
@[simp] theorem State.putRay_drains (s : State) (r : Ray) : (s.putRay r).drains = s.drains := rfl
@[simp] theorem State.putRay_cuts (s : State) (r : Ray) : (s.putRay r).cuts = s.cuts := rfl
@[simp] theorem State.putRay_errs (s : State) (r : Ray) : (s.putRay r).errs = s.errs := rfl
@[simp] theorem State.putRay_errSeq (s : State) (r : Ray) : (s.putRay r).errSeq = s.errSeq := rfl
@[simp] theorem State.putRay_errPend (s : State) (r : Ray) : (s.putRay r).errPend = s.errPend := rfl
@[simp] theorem State.putRay_poison (s : State) (r : Ray) : (s.putRay r).poison = s.poison := rfl
@[simp] theorem State.putRay_power (s : State) (r : Ray) : (s.putRay r).power = s.power := rfl
@[simp] theorem State.putRay_issues (s : State) (r : Ray) : (s.putRay r).issues = s.issues := rfl
@[simp] theorem State.putRay_domSeq (s : State) (r : Ray) : (s.putRay r).domSeq = s.domSeq := rfl
@[simp] theorem State.putRay_storeSeq (s : State) (r : Ray) : (s.putRay r).storeSeq = s.storeSeq := rfl
@[simp] theorem State.putRay_retired (s : State) (r : Ray) : (s.putRay r).retired = s.retired := rfl
@[simp] theorem State.putRay_older (s : State) (r : Ray) : (s.putRay r).older = s.older := rfl

/-! ### putCopy -/

@[simp] theorem State.putCopy_now (s : State) (c : Copy) : (s.putCopy c).now = s.now := rfl
@[simp] theorem State.putCopy_cycBase (s : State) (c : Copy) : (s.putCopy c).cycBase = s.cycBase := rfl
@[simp] theorem State.putCopy_cycles (s : State) (c : Copy) : (s.putCopy c).cycles = s.cycles := rfl
@[simp] theorem State.putCopy_mem (s : State) (c : Copy) : (s.putCopy c).mem = s.mem := rfl
@[simp] theorem State.putCopy_icinvs (s : State) (c : Copy) : (s.putCopy c).icinvs = s.icinvs := rfl
@[simp] theorem State.putCopy_tlb (s : State) (c : Copy) : (s.putCopy c).tlb = s.tlb := rfl
@[simp] theorem State.putCopy_free (s : State) (c : Copy) : (s.putCopy c).free = s.free := rfl
@[simp] theorem State.putCopy_cur (s : State) (c : Copy) : (s.putCopy c).cur = s.cur := rfl
@[simp] theorem State.putCopy_agenda (s : State) (c : Copy) : (s.putCopy c).agenda = s.agenda := rfl
@[simp] theorem State.putCopy_nextUid (s : State) (c : Copy) : (s.putCopy c).nextUid = s.nextUid := rfl
@[simp] theorem State.putCopy_wicks (s : State) (c : Copy) : (s.putCopy c).wicks = s.wicks := rfl
@[simp] theorem State.putCopy_snaps (s : State) (c : Copy) : (s.putCopy c).snaps = s.snaps := rfl
@[simp] theorem State.putCopy_ctxs (s : State) (c : Copy) : (s.putCopy c).ctxs = s.ctxs := rfl
@[simp] theorem State.putCopy_cfg (s : State) (c : Copy) : (s.putCopy c).cfg = s.cfg := rfl
@[simp] theorem State.putCopy_bands (s : State) (c : Copy) : (s.putCopy c).bands = s.bands := rfl
@[simp] theorem State.putCopy_env (s : State) (c : Copy) : (s.putCopy c).env = s.env := rfl
@[simp] theorem State.putCopy_conts (s : State) (c : Copy) : (s.putCopy c).conts = s.conts := rfl
@[simp] theorem State.putCopy_finals (s : State) (c : Copy) : (s.putCopy c).finals = s.finals := rfl
@[simp] theorem State.putCopy_chans (s : State) (c : Copy) : (s.putCopy c).chans = s.chans := rfl
@[simp] theorem State.putCopy_quants (s : State) (c : Copy) : (s.putCopy c).quants = s.quants := rfl
@[simp] theorem State.putCopy_quantSeq (s : State) (c : Copy) : (s.putCopy c).quantSeq = s.quantSeq := rfl
@[simp] theorem State.putCopy_quantFaults (s : State) (c : Copy) : (s.putCopy c).quantFaults = s.quantFaults := rfl
@[simp] theorem State.putCopy_matrices (s : State) (c : Copy) : (s.putCopy c).matrices = s.matrices := rfl
@[simp] theorem State.putCopy_flushes (s : State) (c : Copy) : (s.putCopy c).flushes = s.flushes := rfl
@[simp] theorem State.putCopy_flushSeq (s : State) (c : Copy) : (s.putCopy c).flushSeq = s.flushSeq := rfl
@[simp] theorem State.putCopy_texels (s : State) (c : Copy) : (s.putCopy c).texels = s.texels := rfl
@[simp] theorem State.putCopy_programs (s : State) (c : Copy) : (s.putCopy c).programs = s.programs := rfl
@[simp] theorem State.putCopy_rays (s : State) (c : Copy) : (s.putCopy c).rays = s.rays := rfl
@[simp] theorem State.putCopy_verdicts (s : State) (c : Copy) : (s.putCopy c).verdicts = s.verdicts := rfl
@[simp] theorem State.putCopy_raySeq (s : State) (c : Copy) : (s.putCopy c).raySeq = s.raySeq := rfl
@[simp] theorem State.putCopy_requests (s : State) (c : Copy) : (s.putCopy c).requests = s.requests := rfl
@[simp] theorem State.putCopy_calls (s : State) (c : Copy) : (s.putCopy c).calls = s.calls := rfl
@[simp] theorem State.putCopy_predict (s : State) (c : Copy) : (s.putCopy c).predict = s.predict := rfl
@[simp] theorem State.putCopy_graphs (s : State) (c : Copy) : (s.putCopy c).graphs = s.graphs := rfl
@[simp] theorem State.putCopy_packets (s : State) (c : Copy) : (s.putCopy c).packets = s.packets := rfl
@[simp] theorem State.putCopy_late (s : State) (c : Copy) : (s.putCopy c).late = s.late := rfl
@[simp] theorem State.putCopy_groups (s : State) (c : Copy) : (s.putCopy c).groups = s.groups := rfl
@[simp] theorem State.putCopy_holders (s : State) (c : Copy) : (s.putCopy c).holders = s.holders := rfl
@[simp] theorem State.putCopy_dies (s : State) (c : Copy) : (s.putCopy c).dies = s.dies := rfl
@[simp] theorem State.putCopy_posts (s : State) (c : Copy) : (s.putCopy c).posts = s.posts := rfl
@[simp] theorem State.putCopy_out (s : State) (c : Copy) : (s.putCopy c).out = s.out := rfl
@[simp] theorem State.putCopy_drains (s : State) (c : Copy) : (s.putCopy c).drains = s.drains := rfl
@[simp] theorem State.putCopy_cuts (s : State) (c : Copy) : (s.putCopy c).cuts = s.cuts := rfl
@[simp] theorem State.putCopy_errs (s : State) (c : Copy) : (s.putCopy c).errs = s.errs := rfl
@[simp] theorem State.putCopy_errSeq (s : State) (c : Copy) : (s.putCopy c).errSeq = s.errSeq := rfl
@[simp] theorem State.putCopy_errPend (s : State) (c : Copy) : (s.putCopy c).errPend = s.errPend := rfl
@[simp] theorem State.putCopy_poison (s : State) (c : Copy) : (s.putCopy c).poison = s.poison := rfl
@[simp] theorem State.putCopy_power (s : State) (c : Copy) : (s.putCopy c).power = s.power := rfl
@[simp] theorem State.putCopy_issues (s : State) (c : Copy) : (s.putCopy c).issues = s.issues := rfl
@[simp] theorem State.putCopy_domSeq (s : State) (c : Copy) : (s.putCopy c).domSeq = s.domSeq := rfl
@[simp] theorem State.putCopy_storeSeq (s : State) (c : Copy) : (s.putCopy c).storeSeq = s.storeSeq := rfl
@[simp] theorem State.putCopy_retired (s : State) (c : Copy) : (s.putCopy c).retired = s.retired := rfl
@[simp] theorem State.putCopy_older (s : State) (c : Copy) : (s.putCopy c).older = s.older := rfl

/-! ### putChan -/

@[simp] theorem State.putChan_now (s : State) (c : Chan) : (s.putChan c).now = s.now := rfl
@[simp] theorem State.putChan_cycBase (s : State) (c : Chan) : (s.putChan c).cycBase = s.cycBase := rfl
@[simp] theorem State.putChan_cycles (s : State) (c : Chan) : (s.putChan c).cycles = s.cycles := rfl
@[simp] theorem State.putChan_mem (s : State) (c : Chan) : (s.putChan c).mem = s.mem := rfl
@[simp] theorem State.putChan_icinvs (s : State) (c : Chan) : (s.putChan c).icinvs = s.icinvs := rfl
@[simp] theorem State.putChan_tlb (s : State) (c : Chan) : (s.putChan c).tlb = s.tlb := rfl
@[simp] theorem State.putChan_free (s : State) (c : Chan) : (s.putChan c).free = s.free := rfl
@[simp] theorem State.putChan_cur (s : State) (c : Chan) : (s.putChan c).cur = s.cur := rfl
@[simp] theorem State.putChan_agenda (s : State) (c : Chan) : (s.putChan c).agenda = s.agenda := rfl
@[simp] theorem State.putChan_nextUid (s : State) (c : Chan) : (s.putChan c).nextUid = s.nextUid := rfl
@[simp] theorem State.putChan_wicks (s : State) (c : Chan) : (s.putChan c).wicks = s.wicks := rfl
@[simp] theorem State.putChan_snaps (s : State) (c : Chan) : (s.putChan c).snaps = s.snaps := rfl
@[simp] theorem State.putChan_ctxs (s : State) (c : Chan) : (s.putChan c).ctxs = s.ctxs := rfl
@[simp] theorem State.putChan_cfg (s : State) (c : Chan) : (s.putChan c).cfg = s.cfg := rfl
@[simp] theorem State.putChan_bands (s : State) (c : Chan) : (s.putChan c).bands = s.bands := rfl
@[simp] theorem State.putChan_env (s : State) (c : Chan) : (s.putChan c).env = s.env := rfl
@[simp] theorem State.putChan_conts (s : State) (c : Chan) : (s.putChan c).conts = s.conts := rfl
@[simp] theorem State.putChan_finals (s : State) (c : Chan) : (s.putChan c).finals = s.finals := rfl
@[simp] theorem State.putChan_copies (s : State) (c : Chan) : (s.putChan c).copies = s.copies := rfl
@[simp] theorem State.putChan_quants (s : State) (c : Chan) : (s.putChan c).quants = s.quants := rfl
@[simp] theorem State.putChan_quantSeq (s : State) (c : Chan) : (s.putChan c).quantSeq = s.quantSeq := rfl
@[simp] theorem State.putChan_quantFaults (s : State) (c : Chan) : (s.putChan c).quantFaults = s.quantFaults := rfl
@[simp] theorem State.putChan_matrices (s : State) (c : Chan) : (s.putChan c).matrices = s.matrices := rfl
@[simp] theorem State.putChan_flushes (s : State) (c : Chan) : (s.putChan c).flushes = s.flushes := rfl
@[simp] theorem State.putChan_flushSeq (s : State) (c : Chan) : (s.putChan c).flushSeq = s.flushSeq := rfl
@[simp] theorem State.putChan_texels (s : State) (c : Chan) : (s.putChan c).texels = s.texels := rfl
@[simp] theorem State.putChan_programs (s : State) (c : Chan) : (s.putChan c).programs = s.programs := rfl
@[simp] theorem State.putChan_rays (s : State) (c : Chan) : (s.putChan c).rays = s.rays := rfl
@[simp] theorem State.putChan_verdicts (s : State) (c : Chan) : (s.putChan c).verdicts = s.verdicts := rfl
@[simp] theorem State.putChan_raySeq (s : State) (c : Chan) : (s.putChan c).raySeq = s.raySeq := rfl
@[simp] theorem State.putChan_requests (s : State) (c : Chan) : (s.putChan c).requests = s.requests := rfl
@[simp] theorem State.putChan_calls (s : State) (c : Chan) : (s.putChan c).calls = s.calls := rfl
@[simp] theorem State.putChan_predict (s : State) (c : Chan) : (s.putChan c).predict = s.predict := rfl
@[simp] theorem State.putChan_graphs (s : State) (c : Chan) : (s.putChan c).graphs = s.graphs := rfl
@[simp] theorem State.putChan_packets (s : State) (c : Chan) : (s.putChan c).packets = s.packets := rfl
@[simp] theorem State.putChan_late (s : State) (c : Chan) : (s.putChan c).late = s.late := rfl
@[simp] theorem State.putChan_groups (s : State) (c : Chan) : (s.putChan c).groups = s.groups := rfl
@[simp] theorem State.putChan_holders (s : State) (c : Chan) : (s.putChan c).holders = s.holders := rfl
@[simp] theorem State.putChan_dies (s : State) (c : Chan) : (s.putChan c).dies = s.dies := rfl
@[simp] theorem State.putChan_posts (s : State) (c : Chan) : (s.putChan c).posts = s.posts := rfl
@[simp] theorem State.putChan_out (s : State) (c : Chan) : (s.putChan c).out = s.out := rfl
@[simp] theorem State.putChan_drains (s : State) (c : Chan) : (s.putChan c).drains = s.drains := rfl
@[simp] theorem State.putChan_cuts (s : State) (c : Chan) : (s.putChan c).cuts = s.cuts := rfl
@[simp] theorem State.putChan_errs (s : State) (c : Chan) : (s.putChan c).errs = s.errs := rfl
@[simp] theorem State.putChan_errSeq (s : State) (c : Chan) : (s.putChan c).errSeq = s.errSeq := rfl
@[simp] theorem State.putChan_errPend (s : State) (c : Chan) : (s.putChan c).errPend = s.errPend := rfl
@[simp] theorem State.putChan_poison (s : State) (c : Chan) : (s.putChan c).poison = s.poison := rfl
@[simp] theorem State.putChan_power (s : State) (c : Chan) : (s.putChan c).power = s.power := rfl
@[simp] theorem State.putChan_issues (s : State) (c : Chan) : (s.putChan c).issues = s.issues := rfl
@[simp] theorem State.putChan_domSeq (s : State) (c : Chan) : (s.putChan c).domSeq = s.domSeq := rfl
@[simp] theorem State.putChan_storeSeq (s : State) (c : Chan) : (s.putChan c).storeSeq = s.storeSeq := rfl
@[simp] theorem State.putChan_retired (s : State) (c : Chan) : (s.putChan c).retired = s.retired := rfl
@[simp] theorem State.putChan_older (s : State) (c : Chan) : (s.putChan c).older = s.older := rfl

/-! ### putMatrix -/

@[simp] theorem State.putMatrix_now (s : State) (m : Matrix) : (s.putMatrix m).now = s.now := rfl
@[simp] theorem State.putMatrix_cycBase (s : State) (m : Matrix) : (s.putMatrix m).cycBase = s.cycBase := rfl
@[simp] theorem State.putMatrix_cycles (s : State) (m : Matrix) : (s.putMatrix m).cycles = s.cycles := rfl
@[simp] theorem State.putMatrix_mem (s : State) (m : Matrix) : (s.putMatrix m).mem = s.mem := rfl
@[simp] theorem State.putMatrix_icinvs (s : State) (m : Matrix) : (s.putMatrix m).icinvs = s.icinvs := rfl
@[simp] theorem State.putMatrix_tlb (s : State) (m : Matrix) : (s.putMatrix m).tlb = s.tlb := rfl
@[simp] theorem State.putMatrix_free (s : State) (m : Matrix) : (s.putMatrix m).free = s.free := rfl
@[simp] theorem State.putMatrix_cur (s : State) (m : Matrix) : (s.putMatrix m).cur = s.cur := rfl
@[simp] theorem State.putMatrix_agenda (s : State) (m : Matrix) : (s.putMatrix m).agenda = s.agenda := rfl
@[simp] theorem State.putMatrix_nextUid (s : State) (m : Matrix) : (s.putMatrix m).nextUid = s.nextUid := rfl
@[simp] theorem State.putMatrix_wicks (s : State) (m : Matrix) : (s.putMatrix m).wicks = s.wicks := rfl
@[simp] theorem State.putMatrix_snaps (s : State) (m : Matrix) : (s.putMatrix m).snaps = s.snaps := rfl
@[simp] theorem State.putMatrix_ctxs (s : State) (m : Matrix) : (s.putMatrix m).ctxs = s.ctxs := rfl
@[simp] theorem State.putMatrix_cfg (s : State) (m : Matrix) : (s.putMatrix m).cfg = s.cfg := rfl
@[simp] theorem State.putMatrix_bands (s : State) (m : Matrix) : (s.putMatrix m).bands = s.bands := rfl
@[simp] theorem State.putMatrix_env (s : State) (m : Matrix) : (s.putMatrix m).env = s.env := rfl
@[simp] theorem State.putMatrix_conts (s : State) (m : Matrix) : (s.putMatrix m).conts = s.conts := rfl
@[simp] theorem State.putMatrix_finals (s : State) (m : Matrix) : (s.putMatrix m).finals = s.finals := rfl
@[simp] theorem State.putMatrix_copies (s : State) (m : Matrix) : (s.putMatrix m).copies = s.copies := rfl
@[simp] theorem State.putMatrix_chans (s : State) (m : Matrix) : (s.putMatrix m).chans = s.chans := rfl
@[simp] theorem State.putMatrix_quants (s : State) (m : Matrix) : (s.putMatrix m).quants = s.quants := rfl
@[simp] theorem State.putMatrix_quantSeq (s : State) (m : Matrix) : (s.putMatrix m).quantSeq = s.quantSeq := rfl
@[simp] theorem State.putMatrix_quantFaults (s : State) (m : Matrix) : (s.putMatrix m).quantFaults = s.quantFaults := rfl
@[simp] theorem State.putMatrix_flushes (s : State) (m : Matrix) : (s.putMatrix m).flushes = s.flushes := rfl
@[simp] theorem State.putMatrix_flushSeq (s : State) (m : Matrix) : (s.putMatrix m).flushSeq = s.flushSeq := rfl
@[simp] theorem State.putMatrix_texels (s : State) (m : Matrix) : (s.putMatrix m).texels = s.texels := rfl
@[simp] theorem State.putMatrix_programs (s : State) (m : Matrix) : (s.putMatrix m).programs = s.programs := rfl
@[simp] theorem State.putMatrix_rays (s : State) (m : Matrix) : (s.putMatrix m).rays = s.rays := rfl
@[simp] theorem State.putMatrix_verdicts (s : State) (m : Matrix) : (s.putMatrix m).verdicts = s.verdicts := rfl
@[simp] theorem State.putMatrix_raySeq (s : State) (m : Matrix) : (s.putMatrix m).raySeq = s.raySeq := rfl
@[simp] theorem State.putMatrix_requests (s : State) (m : Matrix) : (s.putMatrix m).requests = s.requests := rfl
@[simp] theorem State.putMatrix_calls (s : State) (m : Matrix) : (s.putMatrix m).calls = s.calls := rfl
@[simp] theorem State.putMatrix_predict (s : State) (m : Matrix) : (s.putMatrix m).predict = s.predict := rfl
@[simp] theorem State.putMatrix_graphs (s : State) (m : Matrix) : (s.putMatrix m).graphs = s.graphs := rfl
@[simp] theorem State.putMatrix_packets (s : State) (m : Matrix) : (s.putMatrix m).packets = s.packets := rfl
@[simp] theorem State.putMatrix_late (s : State) (m : Matrix) : (s.putMatrix m).late = s.late := rfl
@[simp] theorem State.putMatrix_groups (s : State) (m : Matrix) : (s.putMatrix m).groups = s.groups := rfl
@[simp] theorem State.putMatrix_holders (s : State) (m : Matrix) : (s.putMatrix m).holders = s.holders := rfl
@[simp] theorem State.putMatrix_dies (s : State) (m : Matrix) : (s.putMatrix m).dies = s.dies := rfl
@[simp] theorem State.putMatrix_posts (s : State) (m : Matrix) : (s.putMatrix m).posts = s.posts := rfl
@[simp] theorem State.putMatrix_out (s : State) (m : Matrix) : (s.putMatrix m).out = s.out := rfl
@[simp] theorem State.putMatrix_drains (s : State) (m : Matrix) : (s.putMatrix m).drains = s.drains := rfl
@[simp] theorem State.putMatrix_cuts (s : State) (m : Matrix) : (s.putMatrix m).cuts = s.cuts := rfl
@[simp] theorem State.putMatrix_errs (s : State) (m : Matrix) : (s.putMatrix m).errs = s.errs := rfl
@[simp] theorem State.putMatrix_errSeq (s : State) (m : Matrix) : (s.putMatrix m).errSeq = s.errSeq := rfl
@[simp] theorem State.putMatrix_errPend (s : State) (m : Matrix) : (s.putMatrix m).errPend = s.errPend := rfl
@[simp] theorem State.putMatrix_poison (s : State) (m : Matrix) : (s.putMatrix m).poison = s.poison := rfl
@[simp] theorem State.putMatrix_power (s : State) (m : Matrix) : (s.putMatrix m).power = s.power := rfl
@[simp] theorem State.putMatrix_issues (s : State) (m : Matrix) : (s.putMatrix m).issues = s.issues := rfl
@[simp] theorem State.putMatrix_domSeq (s : State) (m : Matrix) : (s.putMatrix m).domSeq = s.domSeq := rfl
@[simp] theorem State.putMatrix_storeSeq (s : State) (m : Matrix) : (s.putMatrix m).storeSeq = s.storeSeq := rfl
@[simp] theorem State.putMatrix_retired (s : State) (m : Matrix) : (s.putMatrix m).retired = s.retired := rfl
@[simp] theorem State.putMatrix_older (s : State) (m : Matrix) : (s.putMatrix m).older = s.older := rfl

/-! ### putGraph -/

@[simp] theorem State.putGraph_now (s : State) (g : Graph) : (s.putGraph g).now = s.now := rfl
@[simp] theorem State.putGraph_cycBase (s : State) (g : Graph) : (s.putGraph g).cycBase = s.cycBase := rfl
@[simp] theorem State.putGraph_cycles (s : State) (g : Graph) : (s.putGraph g).cycles = s.cycles := rfl
@[simp] theorem State.putGraph_mem (s : State) (g : Graph) : (s.putGraph g).mem = s.mem := rfl
@[simp] theorem State.putGraph_icinvs (s : State) (g : Graph) : (s.putGraph g).icinvs = s.icinvs := rfl
@[simp] theorem State.putGraph_tlb (s : State) (g : Graph) : (s.putGraph g).tlb = s.tlb := rfl
@[simp] theorem State.putGraph_free (s : State) (g : Graph) : (s.putGraph g).free = s.free := rfl
@[simp] theorem State.putGraph_cur (s : State) (g : Graph) : (s.putGraph g).cur = s.cur := rfl
@[simp] theorem State.putGraph_agenda (s : State) (g : Graph) : (s.putGraph g).agenda = s.agenda := rfl
@[simp] theorem State.putGraph_nextUid (s : State) (g : Graph) : (s.putGraph g).nextUid = s.nextUid := rfl
@[simp] theorem State.putGraph_wicks (s : State) (g : Graph) : (s.putGraph g).wicks = s.wicks := rfl
@[simp] theorem State.putGraph_snaps (s : State) (g : Graph) : (s.putGraph g).snaps = s.snaps := rfl
@[simp] theorem State.putGraph_ctxs (s : State) (g : Graph) : (s.putGraph g).ctxs = s.ctxs := rfl
@[simp] theorem State.putGraph_cfg (s : State) (g : Graph) : (s.putGraph g).cfg = s.cfg := rfl
@[simp] theorem State.putGraph_bands (s : State) (g : Graph) : (s.putGraph g).bands = s.bands := rfl
@[simp] theorem State.putGraph_env (s : State) (g : Graph) : (s.putGraph g).env = s.env := rfl
@[simp] theorem State.putGraph_conts (s : State) (g : Graph) : (s.putGraph g).conts = s.conts := rfl
@[simp] theorem State.putGraph_finals (s : State) (g : Graph) : (s.putGraph g).finals = s.finals := rfl
@[simp] theorem State.putGraph_copies (s : State) (g : Graph) : (s.putGraph g).copies = s.copies := rfl
@[simp] theorem State.putGraph_chans (s : State) (g : Graph) : (s.putGraph g).chans = s.chans := rfl
@[simp] theorem State.putGraph_quants (s : State) (g : Graph) : (s.putGraph g).quants = s.quants := rfl
@[simp] theorem State.putGraph_quantSeq (s : State) (g : Graph) : (s.putGraph g).quantSeq = s.quantSeq := rfl
@[simp] theorem State.putGraph_quantFaults (s : State) (g : Graph) : (s.putGraph g).quantFaults = s.quantFaults := rfl
@[simp] theorem State.putGraph_matrices (s : State) (g : Graph) : (s.putGraph g).matrices = s.matrices := rfl
@[simp] theorem State.putGraph_flushes (s : State) (g : Graph) : (s.putGraph g).flushes = s.flushes := rfl
@[simp] theorem State.putGraph_flushSeq (s : State) (g : Graph) : (s.putGraph g).flushSeq = s.flushSeq := rfl
@[simp] theorem State.putGraph_texels (s : State) (g : Graph) : (s.putGraph g).texels = s.texels := rfl
@[simp] theorem State.putGraph_programs (s : State) (g : Graph) : (s.putGraph g).programs = s.programs := rfl
@[simp] theorem State.putGraph_rays (s : State) (g : Graph) : (s.putGraph g).rays = s.rays := rfl
@[simp] theorem State.putGraph_verdicts (s : State) (g : Graph) : (s.putGraph g).verdicts = s.verdicts := rfl
@[simp] theorem State.putGraph_raySeq (s : State) (g : Graph) : (s.putGraph g).raySeq = s.raySeq := rfl
@[simp] theorem State.putGraph_requests (s : State) (g : Graph) : (s.putGraph g).requests = s.requests := rfl
@[simp] theorem State.putGraph_calls (s : State) (g : Graph) : (s.putGraph g).calls = s.calls := rfl
@[simp] theorem State.putGraph_predict (s : State) (g : Graph) : (s.putGraph g).predict = s.predict := rfl
@[simp] theorem State.putGraph_packets (s : State) (g : Graph) : (s.putGraph g).packets = s.packets := rfl
@[simp] theorem State.putGraph_late (s : State) (g : Graph) : (s.putGraph g).late = s.late := rfl
@[simp] theorem State.putGraph_groups (s : State) (g : Graph) : (s.putGraph g).groups = s.groups := rfl
@[simp] theorem State.putGraph_holders (s : State) (g : Graph) : (s.putGraph g).holders = s.holders := rfl
@[simp] theorem State.putGraph_dies (s : State) (g : Graph) : (s.putGraph g).dies = s.dies := rfl
@[simp] theorem State.putGraph_posts (s : State) (g : Graph) : (s.putGraph g).posts = s.posts := rfl
@[simp] theorem State.putGraph_out (s : State) (g : Graph) : (s.putGraph g).out = s.out := rfl
@[simp] theorem State.putGraph_drains (s : State) (g : Graph) : (s.putGraph g).drains = s.drains := rfl
@[simp] theorem State.putGraph_cuts (s : State) (g : Graph) : (s.putGraph g).cuts = s.cuts := rfl
@[simp] theorem State.putGraph_errs (s : State) (g : Graph) : (s.putGraph g).errs = s.errs := rfl
@[simp] theorem State.putGraph_errSeq (s : State) (g : Graph) : (s.putGraph g).errSeq = s.errSeq := rfl
@[simp] theorem State.putGraph_errPend (s : State) (g : Graph) : (s.putGraph g).errPend = s.errPend := rfl
@[simp] theorem State.putGraph_poison (s : State) (g : Graph) : (s.putGraph g).poison = s.poison := rfl
@[simp] theorem State.putGraph_power (s : State) (g : Graph) : (s.putGraph g).power = s.power := rfl
@[simp] theorem State.putGraph_issues (s : State) (g : Graph) : (s.putGraph g).issues = s.issues := rfl
@[simp] theorem State.putGraph_domSeq (s : State) (g : Graph) : (s.putGraph g).domSeq = s.domSeq := rfl
@[simp] theorem State.putGraph_storeSeq (s : State) (g : Graph) : (s.putGraph g).storeSeq = s.storeSeq := rfl
@[simp] theorem State.putGraph_retired (s : State) (g : Graph) : (s.putGraph g).retired = s.retired := rfl
@[simp] theorem State.putGraph_older (s : State) (g : Graph) : (s.putGraph g).older = s.older := rfl

/-! ### putQuant -/

@[simp] theorem State.putQuant_now (s : State) (q : Quant) : (s.putQuant q).now = s.now := rfl
@[simp] theorem State.putQuant_cycBase (s : State) (q : Quant) : (s.putQuant q).cycBase = s.cycBase := rfl
@[simp] theorem State.putQuant_cycles (s : State) (q : Quant) : (s.putQuant q).cycles = s.cycles := rfl
@[simp] theorem State.putQuant_mem (s : State) (q : Quant) : (s.putQuant q).mem = s.mem := rfl
@[simp] theorem State.putQuant_icinvs (s : State) (q : Quant) : (s.putQuant q).icinvs = s.icinvs := rfl
@[simp] theorem State.putQuant_tlb (s : State) (q : Quant) : (s.putQuant q).tlb = s.tlb := rfl
@[simp] theorem State.putQuant_free (s : State) (q : Quant) : (s.putQuant q).free = s.free := rfl
@[simp] theorem State.putQuant_cur (s : State) (q : Quant) : (s.putQuant q).cur = s.cur := rfl
@[simp] theorem State.putQuant_agenda (s : State) (q : Quant) : (s.putQuant q).agenda = s.agenda := rfl
@[simp] theorem State.putQuant_nextUid (s : State) (q : Quant) : (s.putQuant q).nextUid = s.nextUid := rfl
@[simp] theorem State.putQuant_wicks (s : State) (q : Quant) : (s.putQuant q).wicks = s.wicks := rfl
@[simp] theorem State.putQuant_snaps (s : State) (q : Quant) : (s.putQuant q).snaps = s.snaps := rfl
@[simp] theorem State.putQuant_ctxs (s : State) (q : Quant) : (s.putQuant q).ctxs = s.ctxs := rfl
@[simp] theorem State.putQuant_cfg (s : State) (q : Quant) : (s.putQuant q).cfg = s.cfg := rfl
@[simp] theorem State.putQuant_bands (s : State) (q : Quant) : (s.putQuant q).bands = s.bands := rfl
@[simp] theorem State.putQuant_env (s : State) (q : Quant) : (s.putQuant q).env = s.env := rfl
@[simp] theorem State.putQuant_conts (s : State) (q : Quant) : (s.putQuant q).conts = s.conts := rfl
@[simp] theorem State.putQuant_finals (s : State) (q : Quant) : (s.putQuant q).finals = s.finals := rfl
@[simp] theorem State.putQuant_copies (s : State) (q : Quant) : (s.putQuant q).copies = s.copies := rfl
@[simp] theorem State.putQuant_chans (s : State) (q : Quant) : (s.putQuant q).chans = s.chans := rfl
@[simp] theorem State.putQuant_quantSeq (s : State) (q : Quant) : (s.putQuant q).quantSeq = s.quantSeq := rfl
@[simp] theorem State.putQuant_quantFaults (s : State) (q : Quant) : (s.putQuant q).quantFaults = s.quantFaults := rfl
@[simp] theorem State.putQuant_matrices (s : State) (q : Quant) : (s.putQuant q).matrices = s.matrices := rfl
@[simp] theorem State.putQuant_flushes (s : State) (q : Quant) : (s.putQuant q).flushes = s.flushes := rfl
@[simp] theorem State.putQuant_flushSeq (s : State) (q : Quant) : (s.putQuant q).flushSeq = s.flushSeq := rfl
@[simp] theorem State.putQuant_texels (s : State) (q : Quant) : (s.putQuant q).texels = s.texels := rfl
@[simp] theorem State.putQuant_programs (s : State) (q : Quant) : (s.putQuant q).programs = s.programs := rfl
@[simp] theorem State.putQuant_rays (s : State) (q : Quant) : (s.putQuant q).rays = s.rays := rfl
@[simp] theorem State.putQuant_verdicts (s : State) (q : Quant) : (s.putQuant q).verdicts = s.verdicts := rfl
@[simp] theorem State.putQuant_raySeq (s : State) (q : Quant) : (s.putQuant q).raySeq = s.raySeq := rfl
@[simp] theorem State.putQuant_requests (s : State) (q : Quant) : (s.putQuant q).requests = s.requests := rfl
@[simp] theorem State.putQuant_calls (s : State) (q : Quant) : (s.putQuant q).calls = s.calls := rfl
@[simp] theorem State.putQuant_predict (s : State) (q : Quant) : (s.putQuant q).predict = s.predict := rfl
@[simp] theorem State.putQuant_graphs (s : State) (q : Quant) : (s.putQuant q).graphs = s.graphs := rfl
@[simp] theorem State.putQuant_packets (s : State) (q : Quant) : (s.putQuant q).packets = s.packets := rfl
@[simp] theorem State.putQuant_late (s : State) (q : Quant) : (s.putQuant q).late = s.late := rfl
@[simp] theorem State.putQuant_groups (s : State) (q : Quant) : (s.putQuant q).groups = s.groups := rfl
@[simp] theorem State.putQuant_holders (s : State) (q : Quant) : (s.putQuant q).holders = s.holders := rfl
@[simp] theorem State.putQuant_dies (s : State) (q : Quant) : (s.putQuant q).dies = s.dies := rfl
@[simp] theorem State.putQuant_posts (s : State) (q : Quant) : (s.putQuant q).posts = s.posts := rfl
@[simp] theorem State.putQuant_out (s : State) (q : Quant) : (s.putQuant q).out = s.out := rfl
@[simp] theorem State.putQuant_drains (s : State) (q : Quant) : (s.putQuant q).drains = s.drains := rfl
@[simp] theorem State.putQuant_cuts (s : State) (q : Quant) : (s.putQuant q).cuts = s.cuts := rfl
@[simp] theorem State.putQuant_errs (s : State) (q : Quant) : (s.putQuant q).errs = s.errs := rfl
@[simp] theorem State.putQuant_errSeq (s : State) (q : Quant) : (s.putQuant q).errSeq = s.errSeq := rfl
@[simp] theorem State.putQuant_errPend (s : State) (q : Quant) : (s.putQuant q).errPend = s.errPend := rfl
@[simp] theorem State.putQuant_poison (s : State) (q : Quant) : (s.putQuant q).poison = s.poison := rfl
@[simp] theorem State.putQuant_power (s : State) (q : Quant) : (s.putQuant q).power = s.power := rfl
@[simp] theorem State.putQuant_issues (s : State) (q : Quant) : (s.putQuant q).issues = s.issues := rfl
@[simp] theorem State.putQuant_domSeq (s : State) (q : Quant) : (s.putQuant q).domSeq = s.domSeq := rfl
@[simp] theorem State.putQuant_storeSeq (s : State) (q : Quant) : (s.putQuant q).storeSeq = s.storeSeq := rfl
@[simp] theorem State.putQuant_retired (s : State) (q : Quant) : (s.putQuant q).retired = s.retired := rfl
@[simp] theorem State.putQuant_older (s : State) (q : Quant) : (s.putQuant q).older = s.older := rfl

/-! ### putEnv -/

@[simp] theorem State.putEnv_now (s : State) (x : EnvEntry) : (s.putEnv x).now = s.now := rfl
@[simp] theorem State.putEnv_cycBase (s : State) (x : EnvEntry) : (s.putEnv x).cycBase = s.cycBase := rfl
@[simp] theorem State.putEnv_cycles (s : State) (x : EnvEntry) : (s.putEnv x).cycles = s.cycles := rfl
@[simp] theorem State.putEnv_mem (s : State) (x : EnvEntry) : (s.putEnv x).mem = s.mem := rfl
@[simp] theorem State.putEnv_icinvs (s : State) (x : EnvEntry) : (s.putEnv x).icinvs = s.icinvs := rfl
@[simp] theorem State.putEnv_tlb (s : State) (x : EnvEntry) : (s.putEnv x).tlb = s.tlb := rfl
@[simp] theorem State.putEnv_free (s : State) (x : EnvEntry) : (s.putEnv x).free = s.free := rfl
@[simp] theorem State.putEnv_cur (s : State) (x : EnvEntry) : (s.putEnv x).cur = s.cur := rfl
@[simp] theorem State.putEnv_agenda (s : State) (x : EnvEntry) : (s.putEnv x).agenda = s.agenda := rfl
@[simp] theorem State.putEnv_nextUid (s : State) (x : EnvEntry) : (s.putEnv x).nextUid = s.nextUid := rfl
@[simp] theorem State.putEnv_wicks (s : State) (x : EnvEntry) : (s.putEnv x).wicks = s.wicks := rfl
@[simp] theorem State.putEnv_snaps (s : State) (x : EnvEntry) : (s.putEnv x).snaps = s.snaps := rfl
@[simp] theorem State.putEnv_ctxs (s : State) (x : EnvEntry) : (s.putEnv x).ctxs = s.ctxs := rfl
@[simp] theorem State.putEnv_cfg (s : State) (x : EnvEntry) : (s.putEnv x).cfg = s.cfg := rfl
@[simp] theorem State.putEnv_bands (s : State) (x : EnvEntry) : (s.putEnv x).bands = s.bands := rfl
@[simp] theorem State.putEnv_conts (s : State) (x : EnvEntry) : (s.putEnv x).conts = s.conts := rfl
@[simp] theorem State.putEnv_finals (s : State) (x : EnvEntry) : (s.putEnv x).finals = s.finals := rfl
@[simp] theorem State.putEnv_copies (s : State) (x : EnvEntry) : (s.putEnv x).copies = s.copies := rfl
@[simp] theorem State.putEnv_chans (s : State) (x : EnvEntry) : (s.putEnv x).chans = s.chans := rfl
@[simp] theorem State.putEnv_quants (s : State) (x : EnvEntry) : (s.putEnv x).quants = s.quants := rfl
@[simp] theorem State.putEnv_quantSeq (s : State) (x : EnvEntry) : (s.putEnv x).quantSeq = s.quantSeq := rfl
@[simp] theorem State.putEnv_quantFaults (s : State) (x : EnvEntry) : (s.putEnv x).quantFaults = s.quantFaults := rfl
@[simp] theorem State.putEnv_matrices (s : State) (x : EnvEntry) : (s.putEnv x).matrices = s.matrices := rfl
@[simp] theorem State.putEnv_flushes (s : State) (x : EnvEntry) : (s.putEnv x).flushes = s.flushes := rfl
@[simp] theorem State.putEnv_flushSeq (s : State) (x : EnvEntry) : (s.putEnv x).flushSeq = s.flushSeq := rfl
@[simp] theorem State.putEnv_texels (s : State) (x : EnvEntry) : (s.putEnv x).texels = s.texels := rfl
@[simp] theorem State.putEnv_programs (s : State) (x : EnvEntry) : (s.putEnv x).programs = s.programs := rfl
@[simp] theorem State.putEnv_rays (s : State) (x : EnvEntry) : (s.putEnv x).rays = s.rays := rfl
@[simp] theorem State.putEnv_verdicts (s : State) (x : EnvEntry) : (s.putEnv x).verdicts = s.verdicts := rfl
@[simp] theorem State.putEnv_raySeq (s : State) (x : EnvEntry) : (s.putEnv x).raySeq = s.raySeq := rfl
@[simp] theorem State.putEnv_requests (s : State) (x : EnvEntry) : (s.putEnv x).requests = s.requests := rfl
@[simp] theorem State.putEnv_calls (s : State) (x : EnvEntry) : (s.putEnv x).calls = s.calls := rfl
@[simp] theorem State.putEnv_predict (s : State) (x : EnvEntry) : (s.putEnv x).predict = s.predict := rfl
@[simp] theorem State.putEnv_graphs (s : State) (x : EnvEntry) : (s.putEnv x).graphs = s.graphs := rfl
@[simp] theorem State.putEnv_packets (s : State) (x : EnvEntry) : (s.putEnv x).packets = s.packets := rfl
@[simp] theorem State.putEnv_late (s : State) (x : EnvEntry) : (s.putEnv x).late = s.late := rfl
@[simp] theorem State.putEnv_groups (s : State) (x : EnvEntry) : (s.putEnv x).groups = s.groups := rfl
@[simp] theorem State.putEnv_holders (s : State) (x : EnvEntry) : (s.putEnv x).holders = s.holders := rfl
@[simp] theorem State.putEnv_dies (s : State) (x : EnvEntry) : (s.putEnv x).dies = s.dies := rfl
@[simp] theorem State.putEnv_posts (s : State) (x : EnvEntry) : (s.putEnv x).posts = s.posts := rfl
@[simp] theorem State.putEnv_out (s : State) (x : EnvEntry) : (s.putEnv x).out = s.out := rfl
@[simp] theorem State.putEnv_drains (s : State) (x : EnvEntry) : (s.putEnv x).drains = s.drains := rfl
@[simp] theorem State.putEnv_cuts (s : State) (x : EnvEntry) : (s.putEnv x).cuts = s.cuts := rfl
@[simp] theorem State.putEnv_errs (s : State) (x : EnvEntry) : (s.putEnv x).errs = s.errs := rfl
@[simp] theorem State.putEnv_errSeq (s : State) (x : EnvEntry) : (s.putEnv x).errSeq = s.errSeq := rfl
@[simp] theorem State.putEnv_errPend (s : State) (x : EnvEntry) : (s.putEnv x).errPend = s.errPend := rfl
@[simp] theorem State.putEnv_poison (s : State) (x : EnvEntry) : (s.putEnv x).poison = s.poison := rfl
@[simp] theorem State.putEnv_power (s : State) (x : EnvEntry) : (s.putEnv x).power = s.power := rfl
@[simp] theorem State.putEnv_issues (s : State) (x : EnvEntry) : (s.putEnv x).issues = s.issues := rfl
@[simp] theorem State.putEnv_domSeq (s : State) (x : EnvEntry) : (s.putEnv x).domSeq = s.domSeq := rfl
@[simp] theorem State.putEnv_storeSeq (s : State) (x : EnvEntry) : (s.putEnv x).storeSeq = s.storeSeq := rfl
@[simp] theorem State.putEnv_retired (s : State) (x : EnvEntry) : (s.putEnv x).retired = s.retired := rfl
@[simp] theorem State.putEnv_older (s : State) (x : EnvEntry) : (s.putEnv x).older = s.older := rfl

/-! ### storeCells -/

@[simp] theorem State.storeCells_now (s : State) (cs : List Host.Cell) : (s.storeCells cs).now = s.now := rfl
@[simp] theorem State.storeCells_cycBase (s : State) (cs : List Host.Cell) : (s.storeCells cs).cycBase = s.cycBase := rfl
@[simp] theorem State.storeCells_cycles (s : State) (cs : List Host.Cell) : (s.storeCells cs).cycles = s.cycles := rfl
@[simp] theorem State.storeCells_icinvs (s : State) (cs : List Host.Cell) : (s.storeCells cs).icinvs = s.icinvs := rfl
@[simp] theorem State.storeCells_tlb (s : State) (cs : List Host.Cell) : (s.storeCells cs).tlb = s.tlb := rfl
@[simp] theorem State.storeCells_free (s : State) (cs : List Host.Cell) : (s.storeCells cs).free = s.free := rfl
@[simp] theorem State.storeCells_cur (s : State) (cs : List Host.Cell) : (s.storeCells cs).cur = s.cur := rfl
@[simp] theorem State.storeCells_agenda (s : State) (cs : List Host.Cell) : (s.storeCells cs).agenda = s.agenda := rfl
@[simp] theorem State.storeCells_nextUid (s : State) (cs : List Host.Cell) : (s.storeCells cs).nextUid = s.nextUid := rfl
@[simp] theorem State.storeCells_wicks (s : State) (cs : List Host.Cell) : (s.storeCells cs).wicks = s.wicks := rfl
@[simp] theorem State.storeCells_snaps (s : State) (cs : List Host.Cell) : (s.storeCells cs).snaps = s.snaps := rfl
@[simp] theorem State.storeCells_ctxs (s : State) (cs : List Host.Cell) : (s.storeCells cs).ctxs = s.ctxs := rfl
@[simp] theorem State.storeCells_cfg (s : State) (cs : List Host.Cell) : (s.storeCells cs).cfg = s.cfg := rfl
@[simp] theorem State.storeCells_bands (s : State) (cs : List Host.Cell) : (s.storeCells cs).bands = s.bands := rfl
@[simp] theorem State.storeCells_env (s : State) (cs : List Host.Cell) : (s.storeCells cs).env = s.env := rfl
@[simp] theorem State.storeCells_conts (s : State) (cs : List Host.Cell) : (s.storeCells cs).conts = s.conts := rfl
@[simp] theorem State.storeCells_finals (s : State) (cs : List Host.Cell) : (s.storeCells cs).finals = s.finals := rfl
@[simp] theorem State.storeCells_copies (s : State) (cs : List Host.Cell) : (s.storeCells cs).copies = s.copies := rfl
@[simp] theorem State.storeCells_chans (s : State) (cs : List Host.Cell) : (s.storeCells cs).chans = s.chans := rfl
@[simp] theorem State.storeCells_quants (s : State) (cs : List Host.Cell) : (s.storeCells cs).quants = s.quants := rfl
@[simp] theorem State.storeCells_quantSeq (s : State) (cs : List Host.Cell) : (s.storeCells cs).quantSeq = s.quantSeq := rfl
@[simp] theorem State.storeCells_quantFaults (s : State) (cs : List Host.Cell) : (s.storeCells cs).quantFaults = s.quantFaults := rfl
@[simp] theorem State.storeCells_matrices (s : State) (cs : List Host.Cell) : (s.storeCells cs).matrices = s.matrices := rfl
@[simp] theorem State.storeCells_flushes (s : State) (cs : List Host.Cell) : (s.storeCells cs).flushes = s.flushes := rfl
@[simp] theorem State.storeCells_flushSeq (s : State) (cs : List Host.Cell) : (s.storeCells cs).flushSeq = s.flushSeq := rfl
@[simp] theorem State.storeCells_texels (s : State) (cs : List Host.Cell) : (s.storeCells cs).texels = s.texels := rfl
@[simp] theorem State.storeCells_programs (s : State) (cs : List Host.Cell) : (s.storeCells cs).programs = s.programs := rfl
@[simp] theorem State.storeCells_rays (s : State) (cs : List Host.Cell) : (s.storeCells cs).rays = s.rays := rfl
@[simp] theorem State.storeCells_verdicts (s : State) (cs : List Host.Cell) : (s.storeCells cs).verdicts = s.verdicts := rfl
@[simp] theorem State.storeCells_raySeq (s : State) (cs : List Host.Cell) : (s.storeCells cs).raySeq = s.raySeq := rfl
@[simp] theorem State.storeCells_requests (s : State) (cs : List Host.Cell) : (s.storeCells cs).requests = s.requests := rfl
@[simp] theorem State.storeCells_calls (s : State) (cs : List Host.Cell) : (s.storeCells cs).calls = s.calls := rfl
@[simp] theorem State.storeCells_predict (s : State) (cs : List Host.Cell) : (s.storeCells cs).predict = s.predict := rfl
@[simp] theorem State.storeCells_graphs (s : State) (cs : List Host.Cell) : (s.storeCells cs).graphs = s.graphs := rfl
@[simp] theorem State.storeCells_packets (s : State) (cs : List Host.Cell) : (s.storeCells cs).packets = s.packets := rfl
@[simp] theorem State.storeCells_late (s : State) (cs : List Host.Cell) : (s.storeCells cs).late = s.late := rfl
@[simp] theorem State.storeCells_groups (s : State) (cs : List Host.Cell) : (s.storeCells cs).groups = s.groups := rfl
@[simp] theorem State.storeCells_holders (s : State) (cs : List Host.Cell) : (s.storeCells cs).holders = s.holders := rfl
@[simp] theorem State.storeCells_dies (s : State) (cs : List Host.Cell) : (s.storeCells cs).dies = s.dies := rfl
@[simp] theorem State.storeCells_posts (s : State) (cs : List Host.Cell) : (s.storeCells cs).posts = s.posts := rfl
@[simp] theorem State.storeCells_out (s : State) (cs : List Host.Cell) : (s.storeCells cs).out = s.out := rfl
@[simp] theorem State.storeCells_drains (s : State) (cs : List Host.Cell) : (s.storeCells cs).drains = s.drains := rfl
@[simp] theorem State.storeCells_cuts (s : State) (cs : List Host.Cell) : (s.storeCells cs).cuts = s.cuts := rfl
@[simp] theorem State.storeCells_errs (s : State) (cs : List Host.Cell) : (s.storeCells cs).errs = s.errs := rfl
@[simp] theorem State.storeCells_errSeq (s : State) (cs : List Host.Cell) : (s.storeCells cs).errSeq = s.errSeq := rfl
@[simp] theorem State.storeCells_errPend (s : State) (cs : List Host.Cell) : (s.storeCells cs).errPend = s.errPend := rfl
@[simp] theorem State.storeCells_poison (s : State) (cs : List Host.Cell) : (s.storeCells cs).poison = s.poison := rfl
@[simp] theorem State.storeCells_power (s : State) (cs : List Host.Cell) : (s.storeCells cs).power = s.power := rfl
@[simp] theorem State.storeCells_issues (s : State) (cs : List Host.Cell) : (s.storeCells cs).issues = s.issues := rfl
@[simp] theorem State.storeCells_domSeq (s : State) (cs : List Host.Cell) : (s.storeCells cs).domSeq = s.domSeq := rfl
@[simp] theorem State.storeCells_storeSeq (s : State) (cs : List Host.Cell) : (s.storeCells cs).storeSeq = s.storeSeq := rfl
@[simp] theorem State.storeCells_retired (s : State) (cs : List Host.Cell) : (s.storeCells cs).retired = s.retired := rfl
@[simp] theorem State.storeCells_older (s : State) (cs : List Host.Cell) : (s.storeCells cs).older = s.noted cs := rfl

/-! ### tick -/

@[simp] theorem State.tick_cycBase (s : State) (l : List Turn) : (s.tick l).cycBase = s.cycBase := rfl
@[simp] theorem State.tick_mem (s : State) (l : List Turn) : (s.tick l).mem = s.mem := rfl
@[simp] theorem State.tick_icinvs (s : State) (l : List Turn) : (s.tick l).icinvs = s.icinvs := rfl
@[simp] theorem State.tick_tlb (s : State) (l : List Turn) : (s.tick l).tlb = s.tlb := rfl
@[simp] theorem State.tick_free (s : State) (l : List Turn) : (s.tick l).free = s.free + 1 := rfl
@[simp] theorem State.tick_cur (s : State) (l : List Turn) : (s.tick l).cur = s.cur := rfl
@[simp] theorem State.tick_nextUid (s : State) (l : List Turn) : (s.tick l).nextUid = s.nextUid := rfl
@[simp] theorem State.tick_wicks (s : State) (l : List Turn) : (s.tick l).wicks = s.wicks := rfl
@[simp] theorem State.tick_snaps (s : State) (l : List Turn) : (s.tick l).snaps = s.snaps := rfl
@[simp] theorem State.tick_ctxs (s : State) (l : List Turn) : (s.tick l).ctxs = s.ctxs := rfl
@[simp] theorem State.tick_cfg (s : State) (l : List Turn) : (s.tick l).cfg = s.cfg := rfl
@[simp] theorem State.tick_bands (s : State) (l : List Turn) : (s.tick l).bands = s.bands := rfl
@[simp] theorem State.tick_env (s : State) (l : List Turn) : (s.tick l).env = s.env := rfl
@[simp] theorem State.tick_conts (s : State) (l : List Turn) : (s.tick l).conts = s.conts := rfl
@[simp] theorem State.tick_finals (s : State) (l : List Turn) : (s.tick l).finals = s.finals := rfl
@[simp] theorem State.tick_copies (s : State) (l : List Turn) : (s.tick l).copies = s.copies := rfl
@[simp] theorem State.tick_chans (s : State) (l : List Turn) : (s.tick l).chans = s.chans := rfl
@[simp] theorem State.tick_quants (s : State) (l : List Turn) : (s.tick l).quants = s.quants := rfl
@[simp] theorem State.tick_quantSeq (s : State) (l : List Turn) : (s.tick l).quantSeq = s.quantSeq := rfl
@[simp] theorem State.tick_quantFaults (s : State) (l : List Turn) : (s.tick l).quantFaults = s.quantFaults := rfl
@[simp] theorem State.tick_matrices (s : State) (l : List Turn) : (s.tick l).matrices = s.matrices := rfl
@[simp] theorem State.tick_flushes (s : State) (l : List Turn) : (s.tick l).flushes = s.flushes := rfl
@[simp] theorem State.tick_flushSeq (s : State) (l : List Turn) : (s.tick l).flushSeq = s.flushSeq := rfl
@[simp] theorem State.tick_texels (s : State) (l : List Turn) : (s.tick l).texels = s.texels := rfl
@[simp] theorem State.tick_programs (s : State) (l : List Turn) : (s.tick l).programs = s.programs := rfl
@[simp] theorem State.tick_rays (s : State) (l : List Turn) : (s.tick l).rays = s.rays := rfl
@[simp] theorem State.tick_verdicts (s : State) (l : List Turn) : (s.tick l).verdicts = s.verdicts := rfl
@[simp] theorem State.tick_raySeq (s : State) (l : List Turn) : (s.tick l).raySeq = s.raySeq := rfl
@[simp] theorem State.tick_requests (s : State) (l : List Turn) : (s.tick l).requests = s.requests := rfl
@[simp] theorem State.tick_calls (s : State) (l : List Turn) : (s.tick l).calls = s.calls := rfl
@[simp] theorem State.tick_predict (s : State) (l : List Turn) : (s.tick l).predict = s.predict := rfl
@[simp] theorem State.tick_graphs (s : State) (l : List Turn) : (s.tick l).graphs = s.graphs := rfl
@[simp] theorem State.tick_packets (s : State) (l : List Turn) : (s.tick l).packets = s.packets := rfl
@[simp] theorem State.tick_late (s : State) (l : List Turn) : (s.tick l).late = s.late := rfl
@[simp] theorem State.tick_groups (s : State) (l : List Turn) : (s.tick l).groups = s.groups := rfl
@[simp] theorem State.tick_holders (s : State) (l : List Turn) : (s.tick l).holders = s.holders := rfl
@[simp] theorem State.tick_dies (s : State) (l : List Turn) : (s.tick l).dies = s.dies := rfl
@[simp] theorem State.tick_posts (s : State) (l : List Turn) : (s.tick l).posts = s.posts := rfl
@[simp] theorem State.tick_out (s : State) (l : List Turn) : (s.tick l).out = s.out := rfl
@[simp] theorem State.tick_drains (s : State) (l : List Turn) : (s.tick l).drains = s.drains := rfl
@[simp] theorem State.tick_cuts (s : State) (l : List Turn) : (s.tick l).cuts = s.cuts := rfl
@[simp] theorem State.tick_errs (s : State) (l : List Turn) : (s.tick l).errs = s.errs := rfl
@[simp] theorem State.tick_errSeq (s : State) (l : List Turn) : (s.tick l).errSeq = s.errSeq := rfl
@[simp] theorem State.tick_errPend (s : State) (l : List Turn) : (s.tick l).errPend = s.errPend := rfl
@[simp] theorem State.tick_poison (s : State) (l : List Turn) : (s.tick l).poison = s.poison := rfl
@[simp] theorem State.tick_power (s : State) (l : List Turn) : (s.tick l).power = s.power := rfl
@[simp] theorem State.tick_issues (s : State) (l : List Turn) : (s.tick l).issues = s.issues := rfl
@[simp] theorem State.tick_domSeq (s : State) (l : List Turn) : (s.tick l).domSeq = s.domSeq := rfl
@[simp] theorem State.tick_storeSeq (s : State) (l : List Turn) : (s.tick l).storeSeq = s.storeSeq := rfl
@[simp] theorem State.tick_retired (s : State) (l : List Turn) : (s.tick l).retired = s.retired := rfl

/-! ### bystand -/

@[simp] theorem State.bystand_now (s : State) (a : Wick → Bool) : (s.bystand a).now = s.now := rfl
@[simp] theorem State.bystand_cycBase (s : State) (a : Wick → Bool) : (s.bystand a).cycBase = s.cycBase := rfl
@[simp] theorem State.bystand_cycles (s : State) (a : Wick → Bool) : (s.bystand a).cycles = s.cycles := rfl
@[simp] theorem State.bystand_mem (s : State) (a : Wick → Bool) : (s.bystand a).mem = s.mem := rfl
@[simp] theorem State.bystand_icinvs (s : State) (a : Wick → Bool) : (s.bystand a).icinvs = s.icinvs := rfl
@[simp] theorem State.bystand_tlb (s : State) (a : Wick → Bool) : (s.bystand a).tlb = s.tlb := rfl
@[simp] theorem State.bystand_free (s : State) (a : Wick → Bool) : (s.bystand a).free = s.free := rfl
@[simp] theorem State.bystand_cur (s : State) (a : Wick → Bool) : (s.bystand a).cur = s.cur := rfl
@[simp] theorem State.bystand_agenda (s : State) (a : Wick → Bool) : (s.bystand a).agenda = s.agenda := rfl
@[simp] theorem State.bystand_nextUid (s : State) (a : Wick → Bool) : (s.bystand a).nextUid = s.nextUid := rfl
@[simp] theorem State.bystand_snaps (s : State) (a : Wick → Bool) : (s.bystand a).snaps = s.snaps := rfl
@[simp] theorem State.bystand_ctxs (s : State) (a : Wick → Bool) : (s.bystand a).ctxs = s.ctxs := rfl
@[simp] theorem State.bystand_cfg (s : State) (a : Wick → Bool) : (s.bystand a).cfg = s.cfg := rfl
@[simp] theorem State.bystand_bands (s : State) (a : Wick → Bool) : (s.bystand a).bands = s.bands := rfl
@[simp] theorem State.bystand_env (s : State) (a : Wick → Bool) : (s.bystand a).env = s.env := rfl
@[simp] theorem State.bystand_conts (s : State) (a : Wick → Bool) : (s.bystand a).conts = s.conts := rfl
@[simp] theorem State.bystand_finals (s : State) (a : Wick → Bool) : (s.bystand a).finals = s.finals := rfl
@[simp] theorem State.bystand_copies (s : State) (a : Wick → Bool) : (s.bystand a).copies = s.copies := rfl
@[simp] theorem State.bystand_chans (s : State) (a : Wick → Bool) : (s.bystand a).chans = s.chans := rfl
@[simp] theorem State.bystand_quants (s : State) (a : Wick → Bool) : (s.bystand a).quants = s.quants := rfl
@[simp] theorem State.bystand_quantSeq (s : State) (a : Wick → Bool) : (s.bystand a).quantSeq = s.quantSeq := rfl
@[simp] theorem State.bystand_quantFaults (s : State) (a : Wick → Bool) : (s.bystand a).quantFaults = s.quantFaults := rfl
@[simp] theorem State.bystand_matrices (s : State) (a : Wick → Bool) : (s.bystand a).matrices = s.matrices := rfl
@[simp] theorem State.bystand_flushes (s : State) (a : Wick → Bool) : (s.bystand a).flushes = s.flushes := rfl
@[simp] theorem State.bystand_flushSeq (s : State) (a : Wick → Bool) : (s.bystand a).flushSeq = s.flushSeq := rfl
@[simp] theorem State.bystand_texels (s : State) (a : Wick → Bool) : (s.bystand a).texels = s.texels := rfl
@[simp] theorem State.bystand_programs (s : State) (a : Wick → Bool) : (s.bystand a).programs = s.programs := rfl
@[simp] theorem State.bystand_rays (s : State) (a : Wick → Bool) : (s.bystand a).rays = s.rays := rfl
@[simp] theorem State.bystand_verdicts (s : State) (a : Wick → Bool) : (s.bystand a).verdicts = s.verdicts := rfl
@[simp] theorem State.bystand_raySeq (s : State) (a : Wick → Bool) : (s.bystand a).raySeq = s.raySeq := rfl
@[simp] theorem State.bystand_requests (s : State) (a : Wick → Bool) : (s.bystand a).requests = s.requests := rfl
@[simp] theorem State.bystand_calls (s : State) (a : Wick → Bool) : (s.bystand a).calls = s.calls := rfl
@[simp] theorem State.bystand_predict (s : State) (a : Wick → Bool) : (s.bystand a).predict = s.predict := rfl
@[simp] theorem State.bystand_graphs (s : State) (a : Wick → Bool) : (s.bystand a).graphs = s.graphs := rfl
@[simp] theorem State.bystand_packets (s : State) (a : Wick → Bool) : (s.bystand a).packets = s.packets := rfl
@[simp] theorem State.bystand_late (s : State) (a : Wick → Bool) : (s.bystand a).late = s.late := rfl
@[simp] theorem State.bystand_groups (s : State) (a : Wick → Bool) : (s.bystand a).groups = s.groups := rfl
@[simp] theorem State.bystand_holders (s : State) (a : Wick → Bool) : (s.bystand a).holders = s.holders := rfl
@[simp] theorem State.bystand_dies (s : State) (a : Wick → Bool) : (s.bystand a).dies = s.dies := rfl
@[simp] theorem State.bystand_posts (s : State) (a : Wick → Bool) : (s.bystand a).posts = s.posts := rfl
@[simp] theorem State.bystand_out (s : State) (a : Wick → Bool) : (s.bystand a).out = s.out := rfl
@[simp] theorem State.bystand_drains (s : State) (a : Wick → Bool) : (s.bystand a).drains = s.drains := rfl
@[simp] theorem State.bystand_cuts (s : State) (a : Wick → Bool) : (s.bystand a).cuts = s.cuts := rfl
@[simp] theorem State.bystand_errs (s : State) (a : Wick → Bool) : (s.bystand a).errs = s.errs := rfl
@[simp] theorem State.bystand_errSeq (s : State) (a : Wick → Bool) : (s.bystand a).errSeq = s.errSeq := rfl
@[simp] theorem State.bystand_errPend (s : State) (a : Wick → Bool) : (s.bystand a).errPend = s.errPend := rfl
@[simp] theorem State.bystand_poison (s : State) (a : Wick → Bool) : (s.bystand a).poison = s.poison := rfl
@[simp] theorem State.bystand_power (s : State) (a : Wick → Bool) : (s.bystand a).power = s.power := rfl
@[simp] theorem State.bystand_issues (s : State) (a : Wick → Bool) : (s.bystand a).issues = s.issues := rfl
@[simp] theorem State.bystand_domSeq (s : State) (a : Wick → Bool) : (s.bystand a).domSeq = s.domSeq := rfl
@[simp] theorem State.bystand_storeSeq (s : State) (a : Wick → Bool) : (s.bystand a).storeSeq = s.storeSeq := rfl
@[simp] theorem State.bystand_retired (s : State) (a : Wick → Bool) : (s.bystand a).retired = s.retired := rfl
@[simp] theorem State.bystand_older (s : State) (a : Wick → Bool) : (s.bystand a).older = s.older := rfl

end Sys2Proof.Machine
end

