-- ==== Sys2Proof/Laws/Wick.lean ====
section
/-! SUPPORT. Wicks in the state, and their registers: what a write does to a read. -/

namespace Sys2Proof.Machine

open Sys2Proof

/-! ### Wicks in the state -/

theorem find_modFirst_self (u : Nat) (f : Wick → Wick) (hf : ∀ w, w.info.uid = u → (f w).info.uid = u) :
    ∀ (l : List Wick), (modFirst (fun x => x.info.uid == u) f l).find? (fun x => x.info.uid == u)
      = (l.find? (fun x => x.info.uid == u)).map f
  | [] => rfl
  | x :: xs => by
    by_cases h : x.info.uid = u
    · simp [modFirst, h, hf x h]
    · simp [modFirst, h, find_modFirst_self u f hf xs]

theorem find_modFirst_other (u v : Nat) (f : Wick → Wick) (hf : ∀ w, w.info.uid = u → (f w).info.uid = u) (hv : v ≠ u) :
    ∀ (l : List Wick), (modFirst (fun x => x.info.uid == u) f l).find? (fun x => x.info.uid == v)
      = l.find? (fun x => x.info.uid == v)
  | [] => rfl
  | x :: xs => by
    by_cases h : x.info.uid = u
    · have h1 : ¬ (f x).info.uid = v := by rw [hf x h]; exact fun e => hv e.symm
      have h2 : ¬ u = v := fun e => hv e.symm
      simp [modFirst, h, h1, h2]
    · by_cases h3 : x.info.uid = v
      · simp [modFirst, h3, hv]
      · simp [modFirst, h, h3, find_modFirst_other u v f hf hv xs]

/-- The wick found after its change. -/
theorem State.findWick_modWick (s : State) (u : Nat) (f : Wick → Wick) (hf : ∀ w, w.info.uid = u → (f w).info.uid = u) :
    (s.modWick u f).findWick u = (s.findWick u).map f := find_modFirst_self u f hf s.wicks

theorem State.findWick_modWick_other (s : State) {u v : Nat} (f : Wick → Wick) (hf : ∀ w, w.info.uid = u → (f w).info.uid = u) (hv : v ≠ u) :
    (s.modWick u f).findWick v = s.findWick v := find_modFirst_other u v f hf hv s.wicks

/-- A wick put back is found. -/
theorem State.findWick_putWick (s : State) (w : Wick) {x : Wick} (h : s.findWick w.info.uid = some x) :
    (s.putWick w).findWick w.info.uid = some w := by
  have := find_modFirst_self w.info.uid (fun _ => w) (fun _ _ => rfl) s.wicks
  simpa [State.findWick, State.putWick, show s.wicks.find? (fun y => y.info.uid == w.info.uid) = some x from h] using this

/-- Other wicks are as they were. -/
theorem State.findWick_putWick_other (s : State) (w : Wick) {v : Nat} (hv : v ≠ w.info.uid) :
    (s.putWick w).findWick v = s.findWick v := find_modFirst_other w.info.uid v (fun _ => w) (fun _ _ => rfl) hv s.wicks

theorem State.uid_of_findWick (s : State) {u : Nat} {w : Wick} (h : s.findWick u = some w) : w.info.uid = u := by
  have := List.find?_some h
  simpa using this

theorem modFirst_modFirst (u : Nat) (g : Wick → Wick) (w' : Wick) (hw : w'.info.uid = u) :
    ∀ (l : List Wick), modFirst (fun x => x.info.uid == u) g (modFirst (fun x => x.info.uid == u) (fun _ => w') l)
      = modFirst (fun x => x.info.uid == u) (fun _ => g w') l
  | [] => rfl
  | x :: xs => by
    by_cases h : x.info.uid = u
    · simp [modFirst, h, hw]
    · simp [modFirst, h, modFirst_modFirst u g w' hw xs]

/-- A change of a wick that has just been put. -/
theorem State.modWick_putWick (s : State) (w' : Wick) (g : Wick → Wick) (hg : (g w').info.uid = w'.info.uid) :
    (s.putWick w').modWick w'.info.uid g = s.putWick (g w') := by
  simp only [State.modWick, State.putWick, hg]
  rw [modFirst_modFirst w'.info.uid g w' rfl s.wicks]

/-! ### What register writes leave alone -/

@[simp] theorem Wick.modFrag_info (w : Wick) (f : Nat) (g : Frag → Frag) : (w.modFrag f g).info = w.info := rfl
@[simp] theorem Wick.modFrag_regs (w : Wick) (f : Nat) (g : Frag → Frag) : (w.modFrag f g).regs = w.regs := rfl
@[simp] theorem Wick.modFrag_trap (w : Wick) (f : Nat) (g : Frag → Frag) : (w.modFrag f g).trap = w.trap := rfl
@[simp] theorem Wick.modFrag_books (w : Wick) (f : Nat) (g : Frag → Frag) : (w.modFrag f g).books = w.books := rfl
@[simp] theorem Wick.modFrag_live (w : Wick) (f : Nat) (g : Frag → Frag) : (w.modFrag f g).live = w.live := rfl
@[simp] theorem Wick.modFrag_serial (w : Wick) (f : Nat) (g : Frag → Frag) : (w.modFrag f g).serial = w.serial := rfl

theorem Wick.frag_modFrag (w : Wick) {f : Nat} (g : Frag → Frag) (hf : f < 8) : (w.modFrag f g).frag f = g (w.frag f) := by
  simp [Wick.modFrag, Wick.frag, hf]

theorem Wick.frag_modFrag_other (w : Wick) {f h : Nat} (g : Frag → Frag) (hne : h ≠ f) : (w.modFrag f g).frag h = w.frag h := by
  simp [Wick.modFrag, Wick.frag, Ne.symm hne]

@[simp] theorem Wick.wrS_info (w : Wick) (f n : Nat) (x : Word) : (w.wrS f n x).info = w.info := by
  unfold Wick.wrS; (repeat' split) <;> rfl
@[simp] theorem Wick.wrS_books (w : Wick) (f n : Nat) (x : Word) : (w.wrS f n x).books = w.books := by
  unfold Wick.wrS; (repeat' split) <;> rfl
@[simp] theorem Wick.wrS_live (w : Wick) (f n : Nat) (x : Word) : (w.wrS f n x).live = w.live := by
  unfold Wick.wrS; (repeat' split) <;> rfl
@[simp] theorem Wick.wrS_sl (w : Wick) (f n : Nat) (x : Word) : (w.wrS f n x).trap.sl = w.trap.sl := by
  unfold Wick.wrS; (repeat' split) <;> rfl

@[simp] theorem Wick.wrS_v (w : Wick) (f n : Nat) (x : Word) : (w.wrS f n x).regs.v = w.regs.v := by
  unfold Wick.wrS; (repeat' split) <;> rfl
@[simp] theorem Wick.wrS_trapV (w : Wick) (f n : Nat) (x : Word) : (w.wrS f n x).trap.v = w.trap.v := by
  unfold Wick.wrS; (repeat' split) <;> rfl

@[simp] theorem Wick.wrQ_info (w : Wick) (f n : Nat) (x : Bool) : (w.wrQ f n x).info = w.info := by
  unfold Wick.wrQ; split <;> rfl
@[simp] theorem Wick.wrQ_regs (w : Wick) (f n : Nat) (x : Bool) : (w.wrQ f n x).regs = w.regs := by
  unfold Wick.wrQ; split <;> rfl
@[simp] theorem Wick.wrQ_trap (w : Wick) (f n : Nat) (x : Bool) : (w.wrQ f n x).trap = w.trap := by
  unfold Wick.wrQ; split <;> rfl
@[simp] theorem Wick.wrQ_books (w : Wick) (f n : Nat) (x : Bool) : (w.wrQ f n x).books = w.books := by
  unfold Wick.wrQ; split <;> rfl
@[simp] theorem Wick.wrQ_live (w : Wick) (f n : Nat) (x : Bool) : (w.wrQ f n x).live = w.live := by
  unfold Wick.wrQ; split <;> rfl

@[simp] theorem Wick.wrP_info (w : Wick) (n : Nat) (a x : Mask) : (w.wrP n a x).info = w.info := by
  unfold Wick.wrP; split <;> rfl
@[simp] theorem Wick.wrP_frags (w : Wick) (n : Nat) (a x : Mask) : (w.wrP n a x).frags = w.frags := by
  unfold Wick.wrP; split <;> rfl
@[simp] theorem Wick.wrP_trap (w : Wick) (n : Nat) (a x : Mask) : (w.wrP n a x).trap = w.trap := by
  unfold Wick.wrP; split <;> rfl
@[simp] theorem Wick.wrP_books (w : Wick) (n : Nat) (a x : Mask) : (w.wrP n a x).books = w.books := by
  unfold Wick.wrP; split <;> rfl
@[simp] theorem Wick.wrP_live (w : Wick) (n : Nat) (a x : Mask) : (w.wrP n a x).live = w.live := by
  unfold Wick.wrP; split <;> rfl

@[simp] theorem Wick.wrK_info (w : Wick) (n : Nat) (x : Word) : (w.wrK n x).info = w.info := rfl
@[simp] theorem Wick.wrK_frags (w : Wick) (n : Nat) (x : Word) : (w.wrK n x).frags = w.frags := rfl
@[simp] theorem Wick.wrK_trap (w : Wick) (n : Nat) (x : Word) : (w.wrK n x).trap = w.trap := rfl
@[simp] theorem Wick.wrK_books (w : Wick) (n : Nat) (x : Word) : (w.wrK n x).books = w.books := rfl

@[simp] theorem Wick.putV_info (w : Wick) (n : Nat) (r : VReg) : (w.putV n r).info = w.info := by
  unfold Wick.putV; (repeat' split) <;> rfl
@[simp] theorem Wick.putV_frags (w : Wick) (n : Nat) (r : VReg) : (w.putV n r).frags = w.frags := by
  unfold Wick.putV; (repeat' split) <;> rfl
@[simp] theorem Wick.putV_books (w : Wick) (n : Nat) (r : VReg) : (w.putV n r).books = w.books := by
  unfold Wick.putV; (repeat' split) <;> rfl
@[simp] theorem Wick.putV_live (w : Wick) (n : Nat) (r : VReg) : (w.putV n r).live = w.live := by
  unfold Wick.putV; (repeat' split) <;> rfl
@[simp] theorem Wick.wrV_info (w : Wick) (l a : Mask) (n : Nat) (r : VReg) : (w.wrV l a n r).info = w.info := Wick.putV_info ..
@[simp] theorem Wick.wrV_books (w : Wick) (l a : Mask) (n : Nat) (r : VReg) : (w.wrV l a n r).books = w.books := Wick.putV_books ..
@[simp] theorem Wick.wrV_live (w : Wick) (l a : Mask) (n : Nat) (r : VReg) : (w.wrV l a n r).live = w.live := Wick.putV_live ..
@[simp] theorem Wick.wrV_frags (w : Wick) (l a : Mask) (n : Nat) (r : VReg) : (w.wrV l a n r).frags = w.frags := Wick.putV_frags ..

@[simp] theorem Wick.raise_info (w : Wick) (fl : BitVec 5) : (w.raise fl).info = w.info := rfl
@[simp] theorem Wick.raise_books (w : Wick) (fl : BitVec 5) : (w.raise fl).books = w.books := rfl
@[simp] theorem Wick.raise_frags (w : Wick) (fl : BitVec 5) : (w.raise fl).frags = w.frags := rfl
@[simp] theorem Wick.raise_trap (w : Wick) (fl : BitVec 5) : (w.raise fl).trap = w.trap := rfl

theorem Wick.foldl_info {α : Type} (g : Wick → α → Wick) (hg : ∀ w x, (g w x).info = w.info) :
    ∀ (l : List α) (w : Wick), (l.foldl g w).info = w.info
  | [], _ => rfl
  | x :: xs, w => by rw [List.foldl_cons, Wick.foldl_info g hg xs, hg]

@[simp] theorem Wick.drew_info (w : Wick) (rm : Rm) (i n : Nat) : (w.drew rm i n).info = w.info := by
  unfold Wick.drew; split <;> rfl
@[simp] theorem Wick.drewLanes_info (w : Wick) (rm : Rm) (a : Mask) (n : Nat) : (w.drewLanes rm a n).info = w.info := by
  unfold Wick.drewLanes
  split
  · exact Wick.foldl_info _ (fun w i => Wick.drew_info w rm i n) _ w
  · rfl

/-- A pop of queues, or a trap appended to QP0, changes the queues and the access slice's trap alone (02 R60, 19 R391). -/
theorem Wick.feedTrap_eq (w : Wick) :
    w.feedTrap = { w with access := w.feedTrap.access, books := { w.books with qp := w.feedTrap.books.qp } } := by
  unfold Wick.feedTrap
  dsimp only
  (repeat' split) <;> rfl
theorem Wick.popPorts_eq (w : Wick) (i : Instr) :
    w.popPorts i = { w with access := (w.popPorts i).access, books := { w.books with qp := (w.popPorts i).books.qp } } := by
  unfold Wick.popPorts
  split
  · rfl
  · rw [Wick.feedTrap_eq]
@[simp] theorem Wick.feedTrap_info (w : Wick) : w.feedTrap.info = w.info := by rw [Wick.feedTrap_eq]
@[simp] theorem Wick.popPorts_info (w : Wick) (i : Instr) : (w.popPorts i).info = w.info := by rw [Wick.popPorts_eq]
@[simp] theorem Wick.popPorts_live (w : Wick) (i : Instr) : (w.popPorts i).live = w.live := by rw [Wick.popPorts_eq]
@[simp] theorem Wick.popPorts_regs (w : Wick) (i : Instr) : (w.popPorts i).regs = w.regs := by rw [Wick.popPorts_eq]
@[simp] theorem Wick.popPorts_frags (w : Wick) (i : Instr) : (w.popPorts i).frags = w.frags := by rw [Wick.popPorts_eq]
@[simp] theorem Wick.popPorts_serial (w : Wick) (i : Instr) : (w.popPorts i).serial = w.serial := by rw [Wick.popPorts_eq]
@[simp] theorem Wick.popPorts_trap (w : Wick) (i : Instr) : (w.popPorts i).trap = w.trap := by rw [Wick.popPorts_eq]
@[simp] theorem Wick.popPorts_inAccess (w : Wick) (i : Instr) : (w.popPorts i).inAccess = w.inAccess := by rw [Wick.popPorts_eq]
@[simp] theorem Wick.popPorts_frag (w : Wick) (i : Instr) (f : Nat) : (w.popPorts i).frag f = w.frag f := by simp [Wick.frag]

@[simp] theorem Wick.setPc_info (w : Wick) (cx : Cx) (pc : Word) : (w.setPc cx pc).info = w.info := by
  unfold Wick.setPc; split <;> rfl
@[simp] theorem Wick.moved_info (w : Wick) (i : Instr) (cx : Cx) (now : Nat) (pc : Word) : (w.moved i cx now pc).info = w.info := by
  unfold Wick.moved; split <;> simp

/-! ### A read after a write -/

/-- The scalar just written (02 R47). -/
theorem Wick.rdS_wrS (w : Wick) {f n : Nat} (x : Word) (hf : f < 8) (hn : n < 64) : (w.wrS f n x).rdS f n = x := by
  by_cases h1 : n < 44
  · simp [Wick.wrS, Wick.rdS, h1]
  · by_cases h2 : n < 60
    · have : n - 44 < 16 := by omega
      simp [Wick.wrS, Wick.rdS, h1, h2, Wick.frag_modFrag, hf, this]
    · have : n - 60 < 4 := by omega
      simp [Wick.wrS, Wick.rdS, h1, h2, this]

/-- Every other scalar is as it was, in every fragment (02 R47). -/
theorem Wick.rdS_wrS_other (w : Wick) (f g : Nat) {n m : Nat} (x : Word) (h : m ≠ n) : (w.wrS f n x).rdS g m = w.rdS g m := by
  by_cases h1 : n < 44
  · by_cases h2 : m < 44
    · simp [Wick.wrS, Wick.rdS, h1, h2, Ne.symm h]
    · simp [Wick.wrS, Wick.rdS, h1, h2, Wick.frag]
  · by_cases h3 : n < 60
    · simp only [Wick.wrS, h1, h3, if_true, if_false]
      by_cases hg : g = f
      · subst hg
        by_cases h4 : m < 44
        · simp [Wick.rdS, h4]
        · by_cases h5 : m < 60
          · have h6 : ¬ n - 44 = m - 44 := by omega
            simp only [Wick.rdS, h4, h5, if_true, if_false]
            by_cases h8 : g < 8
            · rw [Wick.frag_modFrag _ _ h8]
              simp [h6]
            · simp [Wick.modFrag, Wick.frag, h8]
          · simp [Wick.rdS, h4, h5]
      · simp [Wick.rdS, Wick.frag_modFrag_other _ _ hg]
    · simp only [Wick.wrS, h1, h3, if_false]
      by_cases h4 : m < 44
      · simp [Wick.rdS, h4]
      · by_cases h5 : m < 60
        · simp [Wick.rdS, h4, h5, Wick.frag]
        · have h6 : ¬ n - 60 = m - 60 := by omega
          simp [Wick.rdS, h4, h5, h6]

@[simp] theorem Wick.rdQ_wrS (w : Wick) (f g n m : Nat) (x : Word) : (w.wrS f n x).rdQ g m = w.rdQ g m := by
  unfold Wick.wrS
  split
  · rfl
  · split
    · by_cases hg : g = f
      · subst hg
        by_cases h8 : g < 8
        · simp [Wick.rdQ, Wick.frag_modFrag _ _ h8]
        · simp [Wick.rdQ, Wick.modFrag, Wick.frag, h8]
      · simp [Wick.rdQ, Wick.frag_modFrag_other _ _ hg]
    · rfl
@[simp] theorem Wick.rdP_wrS (w : Wick) (f n m : Nat) (x : Word) : (w.wrS f n x).rdP m = w.rdP m := by
  unfold Wick.wrS; (repeat' split) <;> rfl
@[simp] theorem Wick.rdV_wrS (w : Wick) (f n m : Nat) (x : Word) : (w.wrS f n x).rdV m = w.rdV m := by
  unfold Wick.rdV; rw [Wick.wrS_books, Wick.wrS_v, Wick.wrS_trapV]
@[simp] theorem Wick.rdK_wrS (w : Wick) (f n m : Nat) (x : Word) : (w.wrS f n x).rdK m = w.rdK m := by
  unfold Wick.wrS; (repeat' split) <;> rfl

/-- q15 reads true whatever is written (02 R47, R49). -/
@[simp] theorem Wick.rdQ_15 (w : Wick) (f : Nat) : w.rdQ f 15 = true := rfl
/-- p15 reads all ones whatever is written (02 R47, R49). -/
@[simp] theorem Wick.rdP_15 (w : Wick) : w.rdP 15 = fullMask := rfl

theorem Wick.rdP_wrP (w : Wick) {n : Nat} (a x : Mask) (hn : n < 15) : (w.wrP n a x).rdP n = (w.rdP n &&& ~~~ a) ||| (x &&& a) := by
  simp [Wick.wrP, Wick.rdP, hn]

theorem Wick.rdP_wrP_other (w : Wick) {n m : Nat} (a x : Mask) (h : m ≠ n) : (w.wrP n a x).rdP m = w.rdP m := by
  by_cases hn : n < 15
  · by_cases hm : m < 15
    · simp [Wick.wrP, Wick.rdP, hn, hm, Ne.symm h]
    · simp [Wick.rdP, hm]
  · simp [Wick.wrP, hn]

/-- The register just put, of those that can be written (02 R47). -/
theorem Wick.rdV_putV (w : Wick) {n : Nat} (r : VReg) (h : n < 248 ∨ (252 ≤ n ∧ n < 256)) : (w.putV n r).rdV n = r := by
  by_cases h1 : n < 248
  · simp [Wick.putV, Wick.rdV, h1]
  · have h2 : ¬ n < 252 := by omega
    have h3 : n - 252 < 4 := by omega
    simp [Wick.putV, Wick.rdV, h1, h2, h3]

theorem Wick.rdV_putV_other (w : Wick) {n m : Nat} (r : VReg) (h : m ≠ n) : (w.putV n r).rdV m = w.rdV m := by
  by_cases h1 : n < 248
  · by_cases h2 : m < 248
    · simp [Wick.putV, Wick.rdV, h1, h2, Ne.symm h]
    · simp [Wick.putV, Wick.rdV, h1, h2]
  · by_cases h3 : n < 252
    · simp [Wick.putV, h1, h3]
    · by_cases h2 : m < 248
      · simp [Wick.putV, Wick.rdV, h1, h2, h3]
      · by_cases h4 : m < 252
        · simp [Wick.putV, Wick.rdV, h1, h2, h3, h4]
        · have h5 : ¬ n - 252 = m - 252 := by omega
          simp [Wick.putV, Wick.rdV, h1, h2, h3, h4, h5]

@[simp] theorem VReg.lane_ofLanes (f : Nat → Lane) {i : Nat} (h : i < 32) : (VReg.ofLanes f).lane i = f i := by
  simp [VReg.ofLanes, VReg.lane, h]

/-- What a lane reads after a write: the result in an active lane, what it was in the others (02 R54). A whole write of a compact
result may change the lanes that are not live. -/
theorem VReg.lane_merge (live act : Mask) (old r : VReg) {i : Nat} (h : i < 32) (ha : act.getLsbD i = true) :
    (VReg.merge live act old r).lane i = r.lane i := by
  unfold VReg.merge
  have h0 : act ≠ 0 := by rintro rfl; simp at ha
  simp only [h0, if_false]
  split
  · rfl
  · simp [h, ha]

theorem VReg.lane_merge_off (live act : Mask) (old r : VReg) {i : Nat} (h : i < 32) (ha : act.getLsbD i = false)
    (hl : live.getLsbD i = true) : (VReg.merge live act old r).lane i = old.lane i := by
  unfold VReg.merge
  split
  · rfl
  · split
    · rename_i h1
      simp only [Bool.and_eq_true, decide_eq_true_eq] at h1
      rw [h1.1] at ha
      simp [ha] at hl
    · have h2 : act[i] = false := by rw [← BitVec.getLsbD_eq_getElem h]; exact ha
      simp [h, h2]

end Sys2Proof.Machine
end

