-- ==== Sys2Proof/Laws/Issue.lean ====
section
/-! SUPPORT. What a ready instruction does: it goes to its own meaning, and the outcome of that meaning takes effect. -/

namespace Sys2Proof.Machine

open Sys2Proof

@[simp] theorem Wick.cx_uid (w : Wick) (f : Nat) (i : Instr) : (w.cx f i).uid = w.info.uid := rfl
@[simp] theorem Wick.cx_live (w : Wick) (f : Nat) (i : Instr) : (w.cx f i).live = w.live := rfl
@[simp] theorem Wick.cx_sl (w : Wick) (f : Nat) (i : Instr) : (w.cx f i).sl = w.trap.sl := rfl
@[simp] theorem Wick.cx_f (w : Wick) (f : Nat) (i : Instr) : (w.cx f i).f = w.actor f := rfl

theorem Wick.popPorts_nil (w : Wick) (i : Instr) (h : i.ports = []) : w.popPorts i = w := by simp [Wick.popPorts, h]

/-- A ready instruction passes issue. -/
theorem issueOf_ready {i : Instr} {s : State} {w : Wick} {f : Nat} (h : Ready i s w f) : issueOf i w f = .go (w.cx f i) := by
  have ha : (w.inAccess && !i.inAccessSlice) = false := by
    cases hs : w.inAccess
    · rfl
    · simp [h.slice hs]
  have hp : (i.prv && !w.trap.sl) = false := by
    cases hp : i.prv
    · rfl
    · simp [h.privileged hp]
  have hb : (w.trap.sl && i.notInSl) = false := by
    cases hs : w.trap.sl
    · rfl
    · simp [h.barred hs]
  have hv : w.waitsReply (w.cx f i).f i = false := h.service
  have hl : w.waitsOnLog (w.cx f i).f i = false := h.log
  unfold issueOf
  simp only [ha, hp, h.legal, hb, h.guard, hv, h.result, Bool.not_true, Bool.false_eq_true, if_false]
  have hr := h.regs
  split
  · rename_i heq
    split at heq <;> simp_all
  · rw [if_neg (by rw [hl]; simp)]

/-- The step of a ready instruction: its outcome takes effect. -/
theorem wickStep_ready {i : Instr} {s : State} {w : Wick} {f : Nat} (h : Ready i s w f) (body : State → Wick → Cx → Eff) :
    wickStep i s body = .next (sweepExit (settle s w (w.cx f i) i (body s w (w.cx f i))) w (w.cx f i)) := by
  simp only [wickStep, h.cur, h.found, issueOf_ready h, h.ports]

/-- A wick that is not leaving is not swept. -/
theorem sweepExit_stays {s : State} {w w' : Wick} {cx : Cx} (hf : s.findWick w.info.uid = some w') (hs : w'.info.stage ≠ .exited) :
    sweepExit s w cx = s := by
  simp [sweepExit, hf, hs]

theorem advance_went (s : State) (cx : Cx) (i : Instr) (pc : Word) : advance s cx i pc = s.went i cx pc := by
  unfold advance State.went Wick.moved
  congr 1

/-- The step of a ready instruction that only changes its wick. -/
theorem wickStep_done {i : Instr} {s : State} {w w' : Wick} {f : Nat} (h : Ready i s w f) (body : State → Wick → Cx → Eff)
    (hb : body s w (w.cx f i) = .next (s.putWick w')) (hi : w'.info = w.info) :
    wickStep i s body = .next (s.done i w' (w.cx f i)) := by
  have hu : (w.cx f i).uid = w'.info.uid := by rw [hi]; rfl
  have h1 : settle s w (w.cx f i) i (body s w (w.cx f i)) = s.done i w' (w.cx f i) := by
    rw [hb]
    simp only [settle]
    rw [advance_went, State.went, hu, State.modWick_putWick _ _ _ (by rw [Wick.moved_info])]
    rfl
  rw [wickStep_ready h, h1]
  congr 1
  have hm : (w'.moved i (w.cx f i) s.now (pcNext (w.cx f i).pc)).info = w.info := by rw [Wick.moved_info, hi]
  refine sweepExit_stays (w' := w'.moved i (w.cx f i) s.now (pcNext (w.cx f i).pc)) ?_ ?_
  · have := State.findWick_putWick s (w'.moved i (w.cx f i) s.now (pcNext (w.cx f i).pc)) (x := w) (by rw [hm]; exact h.found)
    rw [hm] at this
    exact this
  · rw [hm, h.live]; simp

/-- The step of a ready form that works on its wick's registers. -/
theorem regStep_done {i : Instr} {s : State} {w : Wick} {f : Nat} (h : Ready i s w f) (body : Wick → Cx → Wick)
    (hi : (body w (w.cx f i)).info = w.info) : regStep i s body = .next (s.done i (body w (w.cx f i)) (w.cx f i)) :=
  wickStep_done h _ rfl hi

/-- The step of a ready instruction that traps. -/
theorem wickStep_trap {i : Instr} {s : State} {w : Wick} {f : Nat} (h : Ready i s w f) (body : State → Wick → Cx → Eff) {t : TrapInfo}
    (hb : body s w (w.cx f i) = .trap t) :
    wickStep i s body = .next (sweepExit (raiseTrap s w (w.cx f i) t) w (w.cx f i)) := by
  rw [wickStep_ready h, hb]; rfl

/-- The sweep after a state whose wick has not left, with the PC moved. -/
theorem sweepExit_went {s' : State} {w w' : Wick} {cx : Cx} {i : Instr} {pc : Word} (hu : cx.uid = w.info.uid)
    (hf : s'.findWick w.info.uid = some w') (hs : w'.info.stage ≠ .exited) : sweepExit (s'.went i cx pc) w cx = s'.went i cx pc := by
  refine sweepExit_stays (w' := w'.moved i cx s'.now pc) ?_ (by rw [Wick.moved_info]; exact hs)
  unfold State.went
  rw [hu, State.findWick_modWick _ _ _ (fun x hx => by rw [Wick.moved_info]; exact hx), hf]
  rfl

/-- A ready instruction whose body is done with s' and goes on at the successor. -/
theorem wickStep_next {i : Instr} {s s' : State} {w w' : Wick} {f : Nat} (h : Ready i s w f) (body : State → Wick → Cx → Eff)
    (hb : body s w (w.cx f i) = .next s') (hf : s'.findWick w.info.uid = some w') (hs : w'.info.stage ≠ .exited) :
    wickStep i s body = .next (s'.stepped i (w.cx f i)) := by
  rw [wickStep_ready h, hb]
  simp only [settle]
  rw [advance_went]
  exact congrArg _ (sweepExit_went rfl hf hs)

/-- Holding a line changes nothing of where the wick stands. -/
@[simp] theorem Wick.holdLine_info (w : Wick) (f : Nat) (pc : Word) (l : Nat) : (w.holdLine f pc l).info = w.info := by
  unfold Wick.holdLine; split <;> rfl

/-- The line held for a target leaves its wick in the state, where it stood. -/
theorem holdTarget_find (s : State) (f : Nat) (pc : Word) {u : Nat} {x : Wick} (hx : s.findWick u = some x) :
    ∃ y, (s.holdTarget u f pc).findWick u = some y ∧ y.info = x.info := by
  have hu : x.info.uid = u := by
    have := List.find?_some hx
    simpa using this
  unfold State.holdTarget
  simp only [hx]
  split
  · rename_i l _ _
    have g := State.findWick_putWick s (x.holdLine f pc l) (x := x) (by rw [Wick.holdLine_info, hu]; exact hx)
    rw [Wick.holdLine_info, hu] at g
    exact ⟨_, g, Wick.holdLine_info ..⟩
  · exact ⟨x, hx, rfl⟩

/-- A ready instruction whose body is done with s' and goes on at pc: the line of the target is held. -/
theorem wickStep_jump {i : Instr} {s s' : State} {w w' : Wick} {f : Nat} {pc : Word} (h : Ready i s w f) (body : State → Wick → Cx → Eff)
    (hb : body s w (w.cx f i) = .jump s' pc) (hf : s'.findWick w.info.uid = some w') (hs : w'.info.stage ≠ .exited) :
    wickStep i s body = .next (s'.jumped i (w.cx f i) pc) := by
  rw [wickStep_ready h, hb]
  simp only [settle]
  rw [advance_went]
  obtain ⟨y, hy, he⟩ := holdTarget_find s' (w.cx f i).f pc hf
  exact congrArg _ (sweepExit_went (w' := y) rfl hy (by rw [he]; exact hs))

/-- A ready instruction whose body has set the PCs itself. -/
theorem wickStep_stay {i : Instr} {s s' : State} {w w' : Wick} {f : Nat} (h : Ready i s w f) (body : State → Wick → Cx → Eff)
    (hb : body s w (w.cx f i) = .stay s') (hf : s'.findWick w.info.uid = some w') (hs : w'.info.stage ≠ .exited) :
    wickStep i s body = .next s' := by
  rw [wickStep_ready h, hb]
  exact congrArg _ (sweepExit_stays hf hs)

/-! ### What the step of a register form leaves -/

theorem Wick.moved_regs (w : Wick) (i : Instr) (cx : Cx) (now : Nat) (pc : Word) : (w.moved i cx now pc).regs = w.regs := by
  unfold Wick.moved Wick.setPc; (repeat' split) <;> exact Wick.popPorts_regs ..
theorem Wick.moved_books (w : Wick) (i : Instr) (cx : Cx) (now : Nat) (pc : Word) :
    (w.moved i cx now pc).books = (w.popPorts i).books := by
  unfold Wick.moved Wick.setPc; (repeat' split) <;> rfl
theorem Wick.moved_live (w : Wick) (i : Instr) (cx : Cx) (now : Nat) (pc : Word) : (w.moved i cx now pc).live = w.live := by
  unfold Wick.moved Wick.setPc; (repeat' split) <;> exact Wick.popPorts_live ..
theorem Wick.moved_trap (w : Wick) (i : Instr) (cx : Cx) (now : Nat) (pc : Word) :
    (w.moved i cx now pc).trap = { w.trap with pc := if cx.sl then pc else w.trap.pc } := by
  unfold Wick.moved Wick.setPc; split <;> simp_all
theorem Wick.modFrag_rdS (w : Wick) (f : Nat) (g : Frag → Frag) (hg : ∀ x, (g x).own = x.own) (h n : Nat) :
    (w.modFrag f g).rdS h n = w.rdS h n := by
  have : ((w.modFrag f g).frag h).own = (w.frag h).own := by
    by_cases hh : h = f
    · subst hh
      by_cases h8 : h < 8
      · rw [Wick.frag_modFrag _ _ h8, hg]
      · simp [Wick.modFrag, Wick.frag, h8]
    · rw [Wick.frag_modFrag_other _ _ hh]
  simp [Wick.rdS, this]
theorem Wick.modFrag_rdQ (w : Wick) (f : Nat) (g : Frag → Frag) (hg : ∀ x, (g x).qv = x.qv) (h n : Nat) :
    (w.modFrag f g).rdQ h n = w.rdQ h n := by
  have : ((w.modFrag f g).frag h).qv = (w.frag h).qv := by
    by_cases hh : h = f
    · subst hh
      by_cases h8 : h < 8
      · rw [Wick.frag_modFrag _ _ h8, hg]
      · simp [Wick.modFrag, Wick.frag, h8]
    · rw [Wick.frag_modFrag_other _ _ hh]
  simp [Wick.rdQ, this]
@[simp] theorem Wick.popPorts_rdS (w : Wick) (i : Instr) (f n : Nat) : (w.popPorts i).rdS f n = w.rdS f n := by simp [Wick.rdS]
@[simp] theorem Wick.popPorts_rdQ (w : Wick) (i : Instr) (f n : Nat) : (w.popPorts i).rdQ f n = w.rdQ f n := by simp [Wick.rdQ]
@[simp] theorem Wick.moved_rdS (w : Wick) (i : Instr) (cx : Cx) (now : Nat) (pc : Word) (f n : Nat) :
    (w.moved i cx now pc).rdS f n = w.rdS f n := by
  unfold Wick.moved Wick.setPc
  (repeat' split)
  · exact Wick.popPorts_rdS ..
  · rw [Wick.modFrag_rdS ((w.popPorts i).modFrag cx.f (fun g => { g with pc := pc })) cx.f (fun g => { g with lru := now }) (fun _ => rfl),
      Wick.modFrag_rdS (w.popPorts i) cx.f (fun g => { g with pc := pc }) (fun _ => rfl)]
    exact Wick.popPorts_rdS ..
@[simp] theorem Wick.moved_rdQ (w : Wick) (i : Instr) (cx : Cx) (now : Nat) (pc : Word) (f n : Nat) :
    (w.moved i cx now pc).rdQ f n = w.rdQ f n := by
  unfold Wick.moved Wick.setPc
  (repeat' split)
  · exact Wick.popPorts_rdQ ..
  · rw [Wick.modFrag_rdQ ((w.popPorts i).modFrag cx.f (fun g => { g with pc := pc })) cx.f (fun g => { g with lru := now }) (fun _ => rfl),
      Wick.modFrag_rdQ (w.popPorts i) cx.f (fun g => { g with pc := pc }) (fun _ => rfl)]
    exact Wick.popPorts_rdQ ..
@[simp] theorem Wick.moved_rdP (w : Wick) (i : Instr) (cx : Cx) (now : Nat) (pc : Word) (n : Nat) :
    (w.moved i cx now pc).rdP n = w.rdP n := by
  unfold Wick.rdP; rw [Wick.moved_regs]
@[simp] theorem Wick.moved_rdK (w : Wick) (i : Instr) (cx : Cx) (now : Nat) (pc : Word) (n : Nat) :
    (w.moved i cx now pc).rdK n = w.rdK n := by
  unfold Wick.rdK; rw [Wick.moved_regs]
/-- A vector register that is no operand queue is as it was. -/
theorem Wick.moved_rdV (w : Wick) (i : Instr) (cx : Cx) (now : Nat) (pc : Word) {n : Nat} (h : n < 248 ∨ 252 ≤ n) :
    (w.moved i cx now pc).rdV n = w.rdV n := by
  unfold Wick.rdV
  rw [Wick.moved_regs, Wick.moved_trap]
  split
  · rfl
  · split
    · omega
    · rfl

/-- Where a state has only its wick changed. -/
theorem State.onlyWick_done {s : State} {w w' : Wick} {cx : Cx} (hf : s.findWick w.info.uid = some w) (hi : w'.info = w.info) {i : Instr} :
    OnlyWick s (s.done i w' cx) w (w'.moved i cx s.now (pcNext cx.pc)) := by
  have hm : (w'.moved i cx s.now (pcNext cx.pc)).info = w.info := by rw [Wick.moved_info, hi]
  refine ⟨fun _ => rfl, ?_, fun u hu => ?_, rfl⟩
  · have := State.findWick_putWick s (w'.moved i cx s.now (pcNext cx.pc)) (x := w) (by rw [hm]; exact hf)
    rw [hm] at this
    exact this
  · exact State.findWick_putWick_other s _ (by rw [hm]; exact hu)

/-! ### Poison -/

/-- Where no sector is poisoned a move is what it is (20 R402). -/
@[simp] theorem State.guarded_nil {s : State} (hp : s.poison = []) (by_ : Asker) (take : State → Nat → State)
    (move : State → Host.Outcome State Fault Refusal) : s.guarded by_ take move = move s := by
  simp [State.guarded, hp]

/-- A move either is what it is, or has no effect but that its maker stops, for the sequence number of an error record (20 R402). -/
theorem State.guarded_cases (s : State) (by_ : Asker) (take : State → Nat → State) (move : State → Host.Outcome State Fault Refusal) :
    s.guarded by_ take move = move s ∨ (∃ k n, (k, n) ∈ s.poison ∧ n ≠ 0 ∧ s.guarded by_ take move = .next (take s n))
      ∨ (∃ k, (k, 0) ∈ s.poison
        ∧ s.guarded by_ take move = .next (take (outsideError s by_ k).1 (outsideError s by_ k).2)) := by
  unfold State.guarded
  split
  · exact .inl rfl
  · rename_i k n hk
    have hm := List.mem_of_find?_eq_some hk
    by_cases hn : n = 0
    · subst hn; exact .inr (.inr ⟨k, hm, by simp⟩)
    · exact .inr (.inl ⟨k, n, hm, hn, by simp [hn]⟩)

/-- Where no sector is poisoned none refuses a move. -/
@[simp] theorem State.refusedBy_nil {s : State} (hp : s.poison = []) (move : State → Host.Outcome State Fault Refusal) :
    s.refusedBy move = [] := by
  simp [State.refusedBy, hp]

/-- A move that no sector refuses is what it is (20 R396, R399). -/
theorem State.besides_none {s : State} {move : State → Host.Outcome State Fault Refusal} (h : s.refusedBy move = []) (by_ : Asker) :
    s.besides by_ move = move s := by
  simp [State.besides, h]

@[simp] theorem State.besides_nil {s : State} (hp : s.poison = []) (by_ : Asker) (move : State → Host.Outcome State Fault Refusal) :
    s.besides by_ move = move s := State.besides_none (State.refusedBy_nil hp move) by_

end Sys2Proof.Machine
end

