-- ==== Sys2Proof/Laws/Memory.lean ====
section
/-! SUPPORT. The laws of memory: reading after a write, and that every operation keeps the canonical form. -/

namespace Sys2Proof.Machine

theorem Memory.wfFrom_mono : ∀ (m : Memory) {lo hi : Nat}, lo ≤ hi → Memory.wfFrom hi m = true → Memory.wfFrom lo m = true
  | [], _, _, _, _ => rfl
  | (a, b) :: m, lo, hi, h, hw => by
    simp only [Memory.wfFrom, Bool.and_eq_true, decide_eq_true_eq, bne_iff_ne] at hw ⊢
    exact ⟨⟨by omega, hw.1.2⟩, hw.2⟩

/-- Below the first entry everything reads as unlisted. -/
theorem Memory.get_below : ∀ (m : Memory) {lo k : Nat}, Memory.wfFrom lo m = true → k < lo → m.get k = emptyByte
  | [], _, _, _, _ => rfl
  | (a, b) :: m, lo, k, hw, hk => by
    simp only [Memory.wfFrom, Bool.and_eq_true, decide_eq_true_eq, bne_iff_ne] at hw
    have h1 : a ≠ k := by omega
    have h2 : k < a := by omega
    simp [Memory.get, h1, h2]

theorem Memory.wfFrom_set : ∀ (m : Memory) {lo k : Nat} (v : Byte), lo ≤ k → Memory.wfFrom lo m = true →
    Memory.wfFrom lo (m.set k v) = true
  | [], lo, k, v, hk, _ => by
    by_cases hv : v = emptyByte <;> simp [Memory.set, Memory.wfFrom, hv, hk]
  | (a, b) :: m, lo, k, v, hk, hw => by
    simp only [Memory.wfFrom, Bool.and_eq_true, decide_eq_true_eq, bne_iff_ne] at hw
    obtain ⟨⟨h1, h2⟩, h3⟩ := hw
    simp only [Memory.set]
    by_cases hak : a = k
    · subst hak
      by_cases hv : v = emptyByte
      · simpa [hv] using Memory.wfFrom_mono m (by omega) h3
      · simp [hv, Memory.wfFrom, h3, h1]
    · by_cases hlt : k < a
      · by_cases hv : v = emptyByte
        · simp [hak, hlt, hv, Memory.wfFrom, h1, h2, h3]
        · have h4 : k + 1 ≤ a := hlt
          simp [hak, hlt, hv, Memory.wfFrom, hk, h2, h3, h4]
      · have h4 : a + 1 ≤ k := by omega
        simp [hak, hlt, Memory.wfFrom, h1, h2, Memory.wfFrom_set m v h4 h3]

@[simp] theorem Memory.wf_nil : Memory.wf [] = true := rfl

/-- Writing one byte keeps the canonical form. -/
theorem Memory.wf_set {m : Memory} (k : Nat) (v : Byte) (h : m.wf = true) : (m.set k v).wf = true :=
  Memory.wfFrom_set m v (Nat.zero_le k) h

theorem Memory.wf_put : ∀ (bs : List Byte) {m : Memory} (k : Nat), m.wf = true → (m.put k bs).wf = true
  | [], _, _, h => h
  | b :: bs, _, k, h => Memory.wf_put bs (k + 1) (Memory.wf_set k b h)

theorem Memory.wf_write {m : Memory} (k n v : Nat) (h : m.wf = true) : (m.write k n v).wf = true := Memory.wf_put _ k h

theorem Memory.wf_clear {m : Memory} (k n : Nat) (h : m.wf = true) : (m.clear k n).wf = true := Memory.wf_put _ k h

theorem Memory.wfFrom_filter (p : Host.Cell → Bool) : ∀ (m : Memory) {lo : Nat}, Memory.wfFrom lo m = true →
    Memory.wfFrom lo (m.filter p) = true
  | [], _, _ => rfl
  | (a, b) :: m, lo, hw => by
    simp only [Memory.wfFrom, Bool.and_eq_true, decide_eq_true_eq, bne_iff_ne] at hw
    obtain ⟨⟨h1, h2⟩, h3⟩ := hw
    have ih := Memory.wfFrom_filter p m h3
    by_cases hp : p (a, b) = true
    · simp [List.filter, hp, Memory.wfFrom, h1, h2, ih]
    · simpa [List.filter, hp] using Memory.wfFrom_mono _ (by omega) ih

theorem Memory.wf_filter {m : Memory} (p : Host.Cell → Bool) (h : m.wf = true) : Memory.wf (m.filter p) = true :=
  Memory.wfFrom_filter p m h

theorem Memory.wf_wipe {m : Memory} (k n : Nat) (h : m.wf = true) : (m.wipe k n).wf = true := Memory.wf_filter _ h

/-- Cells written one after another keep the canonical form. -/
theorem Memory.wf_cells : ∀ (cs : List Host.Cell) {m : Memory}, m.wf = true →
    Memory.wf (cs.foldl (fun m (c : Host.Cell) => m.set c.1 c.2) m) = true
  | [], _, h => h
  | (k, b) :: cs, _, h => Memory.wf_cells cs (Memory.wf_set k b h)

/-! ### Reading after a write -/

/-- Old values put back keep the form. -/
theorem Memory.wf_putBack (n : Nat) : ∀ (l : List Host.Cell) (j : Nat) {m : Memory}, m.wf = true → (m.putBack n j l).wf = true
  | [], _, _, h => h
  | (k, b) :: l, j, m, h => by
    unfold Memory.putBack
    refine Memory.wf_putBack n l (j + 1) ?_
    split
    · exact Memory.wf_set k b h
    · exact h

theorem Memory.get_set_self_from : ∀ (m : Memory) {lo k : Nat} (v : Byte), Memory.wfFrom lo m = true → (m.set k v).get k = v
  | [], _, k, v, _ => by
    by_cases hv : v = emptyByte <;> simp [Memory.set, Memory.get, hv]
  | (a, b) :: m, lo, k, v, hw => by
    simp only [Memory.wfFrom, Bool.and_eq_true, decide_eq_true_eq, bne_iff_ne] at hw
    obtain ⟨⟨h1, h2⟩, h3⟩ := hw
    simp only [Memory.set]
    by_cases hak : a = k
    · subst hak
      by_cases hv : v = emptyByte
      · simpa [hv] using Memory.get_below m h3 (by omega)
      · simp [hv, Memory.get]
    · by_cases hlt : k < a
      · by_cases hv : v = emptyByte <;> simp [hak, hlt, hv, Memory.get]
      · simp [hak, hlt, Memory.get, Memory.get_set_self_from m v h3]

/-- The byte just written is what is read. -/
theorem Memory.get_set_self {m : Memory} (k : Nat) (v : Byte) (h : m.wf = true) : (m.set k v).get k = v :=
  Memory.get_set_self_from m v h

theorem Memory.get_set_other_from : ∀ (m : Memory) {lo k j : Nat} (v : Byte), Memory.wfFrom lo m = true → j ≠ k →
    (m.set k v).get j = m.get j
  | [], _, k, j, v, _, hj => by
    by_cases hv : v = emptyByte <;> simp [Memory.set, Memory.get, hv, Ne.symm hj]
  | (a, b) :: m, lo, k, j, v, hw, hj => by
    simp only [Memory.wfFrom, Bool.and_eq_true, decide_eq_true_eq, bne_iff_ne] at hw
    obtain ⟨⟨h1, h2⟩, h3⟩ := hw
    simp only [Memory.set]
    by_cases hak : a = k
    · subst hak
      by_cases hv : v = emptyByte
      · by_cases hja : j < a
        · simpa [hv, Memory.get, Ne.symm hj, hja] using Memory.get_below m h3 (by omega)
        · simp [hv, Memory.get, Ne.symm hj, hja]
      · simp [hv, Memory.get, Ne.symm hj]
    · by_cases hlt : k < a
      · by_cases hv : v = emptyByte
        · simp [hak, hlt, hv]
        · by_cases hjk : j < k
          · have hja : j < a := by omega
            have hne : a ≠ j := by omega
            simp [hak, hlt, hv, Memory.get, Ne.symm hj, hjk, hja, hne]
          · simp [hak, hlt, hv, Memory.get, Ne.symm hj, hjk]
      · simp [hak, hlt, Memory.get, Memory.get_set_other_from m v h3 hj]

/-- Every other byte is as it was. -/
theorem Memory.get_set_other {m : Memory} {k j : Nat} (v : Byte) (h : m.wf = true) (hj : j ≠ k) : (m.set k v).get j = m.get j :=
  Memory.get_set_other_from m v h hj

/-- A byte outside the range written is as it was. -/
theorem Memory.get_put_outside : ∀ (bs : List Byte) {m : Memory} {k j : Nat}, m.wf = true → (j < k ∨ k + bs.length ≤ j) →
    (m.put k bs).get j = m.get j
  | [], _, _, _, _, _ => rfl
  | b :: bs, m, k, j, h, hj => by
    rw [List.length_cons] at hj
    have h1 : j ≠ k := by omega
    have h2 : j < k + 1 ∨ k + 1 + bs.length ≤ j := by omega
    rw [Memory.put, Memory.get_put_outside bs (Memory.wf_set k b h) h2, Memory.get_set_other b h h1]

/-- The bytes written are read back, lowest first. -/
theorem Memory.get_put_inside : ∀ (bs : List Byte) {m : Memory} {k : Nat} (i : Nat), m.wf = true → i < bs.length →
    (m.put k bs).get (k + i) = bs[i]?.getD 0
  | [], _, _, i, _, hi => by simp at hi
  | b :: bs, m, k, i, h, hi => by
    cases i with
    | zero =>
      rw [Memory.put, Memory.get_put_outside bs (Memory.wf_set k b h) (by omega)]
      simpa using Memory.get_set_self k b h
    | succ i =>
      have := Memory.get_put_inside bs (k := k + 1) i (Memory.wf_set k b h) (by simpa using hi)
      rw [Memory.put, show k + (i + 1) = k + 1 + i by omega, this]
      simp

theorem Memory.bytes_put : ∀ (bs : List Byte) {m : Memory} {k : Nat}, m.wf = true → (m.put k bs).bytes k bs.length = bs
  | [], _, _, _ => rfl
  | b :: bs, m, k, h => by
    have h1 : (m.set k b).wf = true := Memory.wf_set k b h
    rw [Memory.put, List.length_cons, Memory.bytes, Memory.bytes_put bs h1, Memory.get_put_outside bs h1 (by omega), Memory.get_set_self k b h]

end Sys2Proof.Machine
end

