-- ==== Sys2Proof/Laws/PerInstr.lean ====
section
/-! SUPPORT. One lemma for every constructor of Instr: how it is encoded, and that the opcode map leads back to it. -/

namespace Sys2Proof.Laws.Encoding

open Sys2Proof.Machine

/-- An instruction of format f with the fields o: it has that format and no other, its word is packed by that format's layout, its opcode
is assigned and no microinstruction's, and the opcode map, given its header and fields, leads back to it when it is legal. -/
def InC (i : Instr) (c : BitVec 8) (h : Hdr) (o : OpC) : Prop :=
  i.opC = some o ∧ encode i = some (packC c h o) ∧ c.toNat < 0x10 ∧ (i.legal = true → formC c.toNat h o = some i)

def InV (i : Instr) (c : BitVec 8) (h : Hdr) (o : OpV) : Prop :=
  i.opV = some o ∧ encode i = some (packV c h o) ∧ 0x10 ≤ c.toNat ∧ c.toNat < 0x90 ∧ (c.toNat < 0x25 ∨ 0x30 ≤ c.toNat)
    ∧ (i.legal = true → formV c.toNat h o = some i)

def InM (i : Instr) (c : BitVec 8) (h : Hdr) (o : OpM) : Prop :=
  i.opM = some o ∧ encode i = some (packM c h o) ∧ 0x90 ≤ c.toNat ∧ c.toNat < 0xB0 ∧ (i.legal = true → formM c.toNat h o = some i)

def InX (i : Instr) (c : BitVec 8) (h : Hdr) (o : OpX) : Prop :=
  i.opX = some o ∧ encode i = some (packX c h o) ∧ 0xB0 ≤ c.toNat ∧ (i.legal = true → formX c.toNat h o = some i)

def InY (i : Instr) (c : BitVec 8) (h : Hdr) (o : OpY) : Prop :=
  i.opY = some o ∧ encode i = some (packY c h o) ∧ 0x25 ≤ c.toNat ∧ c.toNat < 0x30 ∧ (i.legal = true → formY c.toNat h o = some i)

/-- What the encoding of an instruction is: 96 bits of one of the five formats (05 R126 to R134), 32 bits of the Lantern (14 R312), or
none for a step that no word encodes. -/
def Statement (i : Instr) : Prop :=
  match i.opc with
  | some c => i.mop = none ∧ opcAssigned c.toNat = true ∧ ∃ h, i.hdr = some h ∧
      ((∃ o, InC i c h o) ∨ (∃ o, InV i c h o) ∨ (∃ o, InM i c h o) ∨ (∃ o, InX i c h o) ∨ (∃ o, InY i c h o))
  | none => i.hdr = none ∧ encode i = none ∧ encodeMicro i = i.mop.map (fun m => BitVec.ofNat 5 m ++ microLow i)
      ∧ (∀ m, i.mop = some m → m < 17)

theorem legalM_sub {h : Hdr} {o : OpM} {m : MSpec} (e : legalM h o m = true) : m.sub = true := by
  simp only [legalM, Bool.and_eq_true] at e; simp_all

theorem legalX_sub {h : Hdr} {o : OpX} {x : XSpec} (e : legalX h o x = true) : x.sub = true := by
  simp only [legalX, Bool.and_eq_true] at e; simp_all

theorem legalY_sub {h : Hdr} {o : OpY} {y : YSpec} (e : legalY h o y = true) : y.sub = true := by
  simp only [legalY, Bool.and_eq_true] at e; simp_all

theorem other {x a b : BitVec 4} (e : x = a) (n : a ≠ b) : x ≠ b := by subst e; exact n

theorem and_left {a b : Bool} (e : (a && b) = true) : a = true := by simp_all

theorem pick_two {x : BitVec 4} {y z : Option Instr} (e : x = 3) (_ : (3 : BitVec 4).toNat = 3) :
    (if x.toNat < 3 then y else if x = 3 then z else none) = z := by subst e; rfl

theorem c_form (i : Instr) (c : BitVec 8) (h : Hdr) (o : OpC) (e : i.opc = some c) (eh : i.hdr = some h) (m : i.mop = none)
    (eo : i.opC = some o) (en : encode i = some (packC c h o)) (a : opcAssigned c.toNat = true) (r : c.toNat < 0x10)
    (b : i.legal = true → formC c.toNat h o = some i) : Statement i := by
  unfold Statement; rw [e]; exact ⟨m, a, h, eh, .inl ⟨o, eo, en, r, b⟩⟩

theorem v_form (i : Instr) (c : BitVec 8) (h : Hdr) (o : OpV) (e : i.opc = some c) (eh : i.hdr = some h) (m : i.mop = none)
    (eo : i.opV = some o) (en : encode i = some (packV c h o)) (a : opcAssigned c.toNat = true) (r : 0x10 ≤ c.toNat) (r2 : c.toNat < 0x90)
    (r3 : c.toNat < 0x25 ∨ 0x30 ≤ c.toNat) (b : i.legal = true → formV c.toNat h o = some i) : Statement i := by
  unfold Statement; rw [e]; exact ⟨m, a, h, eh, .inr (.inl ⟨o, eo, en, r, r2, r3, b⟩)⟩

theorem m_form (i : Instr) (c : BitVec 8) (h : Hdr) (o : OpM) (e : i.opc = some c) (eh : i.hdr = some h) (m : i.mop = none)
    (eo : i.opM = some o) (en : encode i = some (packM c h o)) (a : opcAssigned c.toNat = true) (r : 0x90 ≤ c.toNat) (r2 : c.toNat < 0xB0)
    (b : i.legal = true → formM c.toNat h o = some i) : Statement i := by
  unfold Statement; rw [e]; exact ⟨m, a, h, eh, .inr (.inr (.inl ⟨o, eo, en, r, r2, b⟩))⟩

theorem x_form (i : Instr) (c : BitVec 8) (h : Hdr) (o : OpX) (e : i.opc = some c) (eh : i.hdr = some h) (m : i.mop = none)
    (eo : i.opX = some o) (en : encode i = some (packX c h o)) (a : opcAssigned c.toNat = true) (r : 0xB0 ≤ c.toNat)
    (b : i.legal = true → formX c.toNat h o = some i) : Statement i := by
  unfold Statement; rw [e]; exact ⟨m, a, h, eh, .inr (.inr (.inr (.inl ⟨o, eo, en, r, b⟩)))⟩

theorem y_form (i : Instr) (c : BitVec 8) (h : Hdr) (o : OpY) (e : i.opc = some c) (eh : i.hdr = some h) (m : i.mop = none)
    (eo : i.opY = some o) (en : encode i = some (packY c h o)) (a : opcAssigned c.toNat = true) (r : 0x25 ≤ c.toNat) (r2 : c.toNat < 0x30)
    (b : i.legal = true → formY c.toNat h o = some i) : Statement i := by
  unfold Statement; rw [e]; exact ⟨m, a, h, eh, .inr (.inr (.inr (.inr ⟨o, eo, en, r, r2, b⟩)))⟩

theorem micro_form (i : Instr) (n : Nat) (e : i.opc = none) (eh : i.hdr = none) (en : encode i = none) (m : i.mop = some n) (r : n < 17) :
    Statement i := by
  unfold Statement; rw [e]
  exact ⟨eh, en, rfl, fun k hk => by rw [m] at hk; cases hk; exact r⟩

theorem no_form (i : Instr) (e : i.opc = none) (eh : i.hdr = none) (en : encode i = none) (m : i.mop = none) : Statement i := by
  unfold Statement; rw [e]
  exact ⟨eh, en, rfl, fun k hk => by rw [m] at hk; cases hk⟩


theorem nop (h : Hdr) (o : OpC) : Statement (.nop h o) :=
  c_form _ _ h o rfl rfl rfl rfl rfl (by decide) (by decide) (fun _ => rfl)

theorem bra (h : Hdr) (o : OpC) : Statement (.bra h o) :=
  c_form _ _ h o rfl rfl rfl rfl rfl (by decide) (by decide) (fun _ => rfl)

theorem brq (h : Hdr) (o : OpC) : Statement (.brq h o) :=
  c_form _ _ h o rfl rfl rfl rfl rfl (by decide) (by decide) (fun _ => rfl)

theorem brp (h : Hdr) (o : OpC) : Statement (.brp h o) :=
  c_form _ _ h o rfl rfl rfl rfl rfl (by decide) (by decide) (fun _ => rfl)

theorem brs (h : Hdr) (o : OpC) : Statement (.brs h o) :=
  c_form _ _ h o rfl rfl rfl rfl rfl (by decide) (by decide) (fun _ => rfl)

theorem call (h : Hdr) (o : OpC) : Statement (.call h o) :=
  c_form _ _ h o rfl rfl rfl rfl rfl (by decide) (by decide) (fun _ => rfl)

theorem calli (h : Hdr) (o : OpC) : Statement (.calli h o) :=
  c_form _ _ h o rfl rfl rfl rfl rfl (by decide) (by decide) (fun _ => rfl)

theorem ret (h : Hdr) (o : OpC) : Statement (.ret h o) :=
  c_form _ _ h o rfl rfl rfl rfl rfl (by decide) (by decide) (fun _ => rfl)

theorem loop (h : Hdr) (o : OpC) : Statement (.loop h o) :=
  c_form _ _ h o rfl rfl rfl rfl rfl (by decide) (by decide) (fun _ => rfl)

theorem fork (h : Hdr) (o : OpC) : Statement (.fork h o) :=
  c_form _ _ h o rfl rfl rfl rfl rfl (by decide) (by decide) (fun _ => rfl)

theorem join (h : Hdr) (o : OpC) : Statement (.join h o) :=
  c_form _ _ h o rfl rfl rfl rfl rfl (by decide) (by decide) (fun _ => rfl)

theorem exit (h : Hdr) (o : OpC) : Statement (.exit h o) :=
  c_form _ _ h o rfl rfl rfl rfl rfl (by decide) (by decide) (fun _ => rfl)

theorem sleep (h : Hdr) (o : OpC) : Statement (.sleep h o) :=
  c_form _ _ h o rfl rfl rfl rfl rfl (by decide) (by decide) (fun _ => rfl)

theorem yield (h : Hdr) (o : OpC) : Statement (.yield h o) :=
  c_form _ _ h o rfl rfl rfl rfl rfl (by decide) (by decide) (fun _ => rfl)

theorem bkpt (h : Hdr) (o : OpC) : Statement (.bkpt h o) :=
  c_form _ _ h o rfl rfl rfl rfl rfl (by decide) (by decide) (fun _ => rfl)

theorem trapu (h : Hdr) (o : OpC) : Statement (.trapu h o) :=
  c_form _ _ h o rfl rfl rfl rfl rfl (by decide) (by decide) (fun _ => rfl)

theorem sadd (h : Hdr) (o : OpV) : Statement (.sadd h o) :=
  v_form _ _ h o rfl rfl rfl rfl rfl (by decide) (by decide) (by decide) (by decide) (fun _ => rfl)

theorem ssub (h : Hdr) (o : OpV) : Statement (.ssub h o) :=
  v_form _ _ h o rfl rfl rfl rfl rfl (by decide) (by decide) (by decide) (by decide) (fun _ => rfl)

theorem smul (h : Hdr) (o : OpV) : Statement (.smul h o) :=
  v_form _ _ h o rfl rfl rfl rfl rfl (by decide) (by decide) (by decide) (by decide) (fun _ => rfl)

theorem sdiv (h : Hdr) (o : OpV) : Statement (.sdiv h o) :=
  v_form _ _ h o rfl rfl rfl rfl rfl (by decide) (by decide) (by decide) (by decide) (fun _ => rfl)

theorem sand (h : Hdr) (o : OpV) : Statement (.sand h o) :=
  v_form _ _ h o rfl rfl rfl rfl rfl (by decide) (by decide) (by decide) (by decide) (fun _ => rfl)

theorem sor (h : Hdr) (o : OpV) : Statement (.sor h o) :=
  v_form _ _ h o rfl rfl rfl rfl rfl (by decide) (by decide) (by decide) (by decide) (fun _ => rfl)

theorem sxor (h : Hdr) (o : OpV) : Statement (.sxor h o) :=
  v_form _ _ h o rfl rfl rfl rfl rfl (by decide) (by decide) (by decide) (by decide) (fun _ => rfl)

theorem sshl (h : Hdr) (o : OpV) : Statement (.sshl h o) :=
  v_form _ _ h o rfl rfl rfl rfl rfl (by decide) (by decide) (by decide) (by decide) (fun _ => rfl)

theorem sshr (h : Hdr) (o : OpV) : Statement (.sshr h o) :=
  v_form _ _ h o rfl rfl rfl rfl rfl (by decide) (by decide) (by decide) (by decide) (fun _ => rfl)

theorem smin (h : Hdr) (o : OpV) : Statement (.smin h o) :=
  v_form _ _ h o rfl rfl rfl rfl rfl (by decide) (by decide) (by decide) (by decide) (fun _ => rfl)

theorem smax (h : Hdr) (o : OpV) : Statement (.smax h o) :=
  v_form _ _ h o rfl rfl rfl rfl rfl (by decide) (by decide) (by decide) (by decide) (fun _ => rfl)

theorem scmp (h : Hdr) (o : OpV) : Statement (.scmp h o) :=
  v_form _ _ h o rfl rfl rfl rfl rfl (by decide) (by decide) (by decide) (by decide) (fun _ => rfl)

theorem ssel (h : Hdr) (o : OpV) : Statement (.ssel h o) :=
  v_form _ _ h o rfl rfl rfl rfl rfl (by decide) (by decide) (by decide) (by decide) (fun _ => rfl)

theorem smov (h : Hdr) (o : OpV) : Statement (.smov h o) :=
  v_form _ _ h o rfl rfl rfl rfl rfl (by decide) (by decide) (by decide) (by decide) (fun _ => rfl)

theorem sbit (h : Hdr) (o : OpV) : Statement (.sbit h o) :=
  v_form _ _ h o rfl rfl rfl rfl rfl (by decide) (by decide) (by decide) (by decide) (fun _ => rfl)

theorem sbfx (h : Hdr) (o : OpV) : Statement (.sbfx h o) :=
  v_form _ _ h o rfl rfl rfl rfl rfl (by decide) (by decide) (by decide) (by decide) (fun _ => rfl)

theorem sfop (h : Hdr) (o : OpV) : Statement (.sfop h o) :=
  v_form _ _ h o rfl rfl rfl rfl rfl (by decide) (by decide) (by decide) (by decide) (fun _ => rfl)

theorem sfcmp (h : Hdr) (o : OpV) : Statement (.sfcmp h o) :=
  v_form _ _ h o rfl rfl rfl rfl rfl (by decide) (by decide) (by decide) (by decide) (fun _ => rfl)

theorem scvt (h : Hdr) (o : OpV) : Statement (.scvt h o) :=
  v_form _ _ h o rfl rfl rfl rfl rfl (by decide) (by decide) (by decide) (by decide) (fun _ => rfl)

theorem qop (h : Hdr) (o : OpV) : Statement (.qop h o) :=
  v_form _ _ h o rfl rfl rfl rfl rfl (by decide) (by decide) (by decide) (by decide) (fun _ => rfl)

theorem shi (h : Hdr) (o : OpV) : Statement (.shi h o) :=
  v_form _ _ h o rfl rfl rfl rfl rfl (by decide) (by decide) (by decide) (by decide) (fun _ => rfl)

theorem wickctlRelease (h : Hdr) (o : OpY) : Statement (.wickctlRelease h o) :=
  y_form _ _ h o rfl rfl rfl rfl rfl (by decide) (by decide) (by decide) (fun e => if_pos (eq_of_beq (legalY_sub e)))

theorem wickctlKill (h : Hdr) (o : OpY) : Statement (.wickctlKill h o) :=
  y_form _ _ h o rfl rfl rfl rfl rfl (by decide) (by decide) (by decide) (fun e => (if_neg (other (eq_of_beq (legalY_sub e)) (by decide))).trans (if_pos (eq_of_beq (legalY_sub e))))

theorem wickctlPark (h : Hdr) (o : OpY) : Statement (.wickctlPark h o) :=
  y_form _ _ h o rfl rfl rfl rfl rfl (by decide) (by decide) (by decide) (fun e => (if_neg (other (eq_of_beq (legalY_sub e)) (by decide))).trans ((if_neg (other (eq_of_beq (legalY_sub e)) (by decide))).trans (if_pos (eq_of_beq (legalY_sub e)))))

theorem wickctlUnpark (h : Hdr) (o : OpY) : Statement (.wickctlUnpark h o) :=
  y_form _ _ h o rfl rfl rfl rfl rfl (by decide) (by decide) (by decide) (fun e => (if_neg (other (eq_of_beq (legalY_sub e)) (by decide))).trans ((if_neg (other (eq_of_beq (legalY_sub e)) (by decide))).trans ((if_neg (other (eq_of_beq (legalY_sub e)) (by decide))).trans (if_pos (eq_of_beq (legalY_sub e))))))

theorem replay (h : Hdr) (o : OpY) : Statement (.replay h o) :=
  y_form _ _ h o rfl rfl rfl rfl rfl (by decide) (by decide) (by decide) (fun _ => rfl)

theorem halt (h : Hdr) (o : OpY) : Statement (.halt h o) :=
  y_form _ _ h o rfl rfl rfl rfl rfl (by decide) (by decide) (by decide) (fun _ => rfl)

theorem eret (h : Hdr) (o : OpY) : Statement (.eret h o) :=
  y_form _ _ h o rfl rfl rfl rfl rfl (by decide) (by decide) (by decide) (fun e => if_pos (eq_of_beq (legalY_sub e)))

theorem eretNext (h : Hdr) (o : OpY) : Statement (.eretNext h o) :=
  y_form _ _ h o rfl rfl rfl rfl rfl (by decide) (by decide) (by decide) (fun e => (if_neg (other (eq_of_beq (legalY_sub e)) (by decide))).trans (if_pos (eq_of_beq (legalY_sub e))))

theorem eretReflect (h : Hdr) (o : OpY) : Statement (.eretReflect h o) :=
  y_form _ _ h o rfl rfl rfl rfl rfl (by decide) (by decide) (by decide) (fun e => (if_neg (other (eq_of_beq (and_left (legalY_sub e))) (by decide))).trans ((if_neg (other (eq_of_beq (and_left (legalY_sub e))) (by decide))).trans (if_pos (eq_of_beq (and_left (legalY_sub e))))))

theorem mfpr (h : Hdr) (o : OpY) : Statement (.mfpr h o) :=
  y_form _ _ h o rfl rfl rfl rfl rfl (by decide) (by decide) (by decide) (fun _ => rfl)

theorem mtpr (h : Hdr) (o : OpY) : Statement (.mtpr h o) :=
  y_form _ _ h o rfl rfl rfl rfl rfl (by decide) (by decide) (by decide) (fun _ => rfl)

theorem savev (h : Hdr) (o : OpY) : Statement (.savev h o) :=
  y_form _ _ h o rfl rfl rfl rfl rfl (by decide) (by decide) (by decide) (fun _ => rfl)

theorem loadv (h : Hdr) (o : OpY) : Statement (.loadv h o) :=
  y_form _ _ h o rfl rfl rfl rfl rfl (by decide) (by decide) (by decide) (fun _ => rfl)

theorem savekSave (h : Hdr) (o : OpY) : Statement (.savekSave h o) :=
  y_form _ _ h o rfl rfl rfl rfl rfl (by decide) (by decide) (by decide) (fun e => if_pos (eq_of_beq (legalY_sub e)))

theorem savekLoad (h : Hdr) (o : OpY) : Statement (.savekLoad h o) :=
  y_form _ _ h o rfl rfl rfl rfl rfl (by decide) (by decide) (by decide) (fun e => (if_neg (other (eq_of_beq (legalY_sub e)) (by decide))).trans (if_pos (eq_of_beq (legalY_sub e))))

theorem quiesceWait (h : Hdr) (o : OpY) : Statement (.quiesceWait h o) :=
  y_form _ _ h o rfl rfl rfl rfl rfl (by decide) (by decide) (by decide) (fun e => if_pos (eq_of_beq (legalY_sub e)))

theorem quiesceCancel (h : Hdr) (o : OpY) : Statement (.quiesceCancel h o) :=
  y_form _ _ h o rfl rfl rfl rfl rfl (by decide) (by decide) (by decide) (fun e => (if_neg (other (eq_of_beq (legalY_sub e)) (by decide))).trans (if_pos (eq_of_beq (legalY_sub e))))

theorem tlbinv (h : Hdr) (o : OpY) : Statement (.tlbinv h o) :=
  y_form _ _ h o rfl rfl rfl rfl rfl (by decide) (by decide) (by decide) (fun _ => rfl)

theorem vadd (h : Hdr) (o : OpV) : Statement (.vadd h o) :=
  v_form _ _ h o rfl rfl rfl rfl rfl (by decide) (by decide) (by decide) (by decide) (fun _ => rfl)

theorem vsub (h : Hdr) (o : OpV) : Statement (.vsub h o) :=
  v_form _ _ h o rfl rfl rfl rfl rfl (by decide) (by decide) (by decide) (by decide) (fun _ => rfl)

theorem vmul (h : Hdr) (o : OpV) : Statement (.vmul h o) :=
  v_form _ _ h o rfl rfl rfl rfl rfl (by decide) (by decide) (by decide) (by decide) (fun _ => rfl)

theorem vmad (h : Hdr) (o : OpV) : Statement (.vmad h o) :=
  v_form _ _ h o rfl rfl rfl rfl rfl (by decide) (by decide) (by decide) (by decide) (fun _ => rfl)

theorem vand (h : Hdr) (o : OpV) : Statement (.vand h o) :=
  v_form _ _ h o rfl rfl rfl rfl rfl (by decide) (by decide) (by decide) (by decide) (fun _ => rfl)

theorem vor (h : Hdr) (o : OpV) : Statement (.vor h o) :=
  v_form _ _ h o rfl rfl rfl rfl rfl (by decide) (by decide) (by decide) (by decide) (fun _ => rfl)

theorem vxor (h : Hdr) (o : OpV) : Statement (.vxor h o) :=
  v_form _ _ h o rfl rfl rfl rfl rfl (by decide) (by decide) (by decide) (by decide) (fun _ => rfl)

theorem vshl (h : Hdr) (o : OpV) : Statement (.vshl h o) :=
  v_form _ _ h o rfl rfl rfl rfl rfl (by decide) (by decide) (by decide) (by decide) (fun _ => rfl)

theorem vshr (h : Hdr) (o : OpV) : Statement (.vshr h o) :=
  v_form _ _ h o rfl rfl rfl rfl rfl (by decide) (by decide) (by decide) (by decide) (fun _ => rfl)

theorem vmin (h : Hdr) (o : OpV) : Statement (.vmin h o) :=
  v_form _ _ h o rfl rfl rfl rfl rfl (by decide) (by decide) (by decide) (by decide) (fun _ => rfl)

theorem vmax (h : Hdr) (o : OpV) : Statement (.vmax h o) :=
  v_form _ _ h o rfl rfl rfl rfl rfl (by decide) (by decide) (by decide) (by decide) (fun _ => rfl)

theorem vabsd (h : Hdr) (o : OpV) : Statement (.vabsd h o) :=
  v_form _ _ h o rfl rfl rfl rfl rfl (by decide) (by decide) (by decide) (by decide) (fun _ => rfl)

theorem vcmp (h : Hdr) (o : OpV) : Statement (.vcmp h o) :=
  v_form _ _ h o rfl rfl rfl rfl rfl (by decide) (by decide) (by decide) (by decide) (fun _ => rfl)

theorem vsel (h : Hdr) (o : OpV) : Statement (.vsel h o) :=
  v_form _ _ h o rfl rfl rfl rfl rfl (by decide) (by decide) (by decide) (by decide) (fun _ => rfl)

theorem vmov (h : Hdr) (o : OpV) : Statement (.vmov h o) :=
  v_form _ _ h o rfl rfl rfl rfl rfl (by decide) (by decide) (by decide) (by decide) (fun _ => rfl)

theorem vaddmin (h : Hdr) (o : OpV) : Statement (.vaddmin h o) :=
  v_form _ _ h o rfl rfl rfl rfl rfl (by decide) (by decide) (by decide) (by decide) (fun _ => rfl)

theorem vaddmax (h : Hdr) (o : OpV) : Statement (.vaddmax h o) :=
  v_form _ _ h o rfl rfl rfl rfl rfl (by decide) (by decide) (by decide) (by decide) (fun _ => rfl)

theorem vbit (h : Hdr) (o : OpV) : Statement (.vbit h o) :=
  v_form _ _ h o rfl rfl rfl rfl rfl (by decide) (by decide) (by decide) (by decide) (fun _ => rfl)

theorem vbfx (h : Hdr) (o : OpV) : Statement (.vbfx h o) :=
  v_form _ _ h o rfl rfl rfl rfl rfl (by decide) (by decide) (by decide) (by decide) (fun _ => rfl)

theorem vdot (h : Hdr) (o : OpV) : Statement (.vdot h o) :=
  v_form _ _ h o rfl rfl rfl rfl rfl (by decide) (by decide) (by decide) (by decide) (fun _ => rfl)

theorem vclamp (h : Hdr) (o : OpV) : Statement (.vclamp h o) :=
  v_form _ _ h o rfl rfl rfl rfl rfl (by decide) (by decide) (by decide) (by decide) (fun _ => rfl)

theorem fadd (h : Hdr) (o : OpV) : Statement (.fadd h o) :=
  v_form _ _ h o rfl rfl rfl rfl rfl (by decide) (by decide) (by decide) (by decide) (fun _ => rfl)

theorem fsub (h : Hdr) (o : OpV) : Statement (.fsub h o) :=
  v_form _ _ h o rfl rfl rfl rfl rfl (by decide) (by decide) (by decide) (by decide) (fun _ => rfl)

theorem fmul (h : Hdr) (o : OpV) : Statement (.fmul h o) :=
  v_form _ _ h o rfl rfl rfl rfl rfl (by decide) (by decide) (by decide) (by decide) (fun _ => rfl)

theorem ffma (h : Hdr) (o : OpV) : Statement (.ffma h o) :=
  v_form _ _ h o rfl rfl rfl rfl rfl (by decide) (by decide) (by decide) (by decide) (fun _ => rfl)

theorem fmin (h : Hdr) (o : OpV) : Statement (.fmin h o) :=
  v_form _ _ h o rfl rfl rfl rfl rfl (by decide) (by decide) (by decide) (by decide) (fun _ => rfl)

theorem fmax (h : Hdr) (o : OpV) : Statement (.fmax h o) :=
  v_form _ _ h o rfl rfl rfl rfl rfl (by decide) (by decide) (by decide) (by decide) (fun _ => rfl)

theorem fcmp (h : Hdr) (o : OpV) : Statement (.fcmp h o) :=
  v_form _ _ h o rfl rfl rfl rfl rfl (by decide) (by decide) (by decide) (by decide) (fun _ => rfl)

theorem fclass (h : Hdr) (o : OpV) : Statement (.fclass h o) :=
  v_form _ _ h o rfl rfl rfl rfl rfl (by decide) (by decide) (by decide) (by decide) (fun _ => rfl)

theorem frcp (h : Hdr) (o : OpV) : Statement (.frcp h o) :=
  v_form _ _ h o rfl rfl rfl rfl rfl (by decide) (by decide) (by decide) (by decide) (fun _ => rfl)

theorem frsq (h : Hdr) (o : OpV) : Statement (.frsq h o) :=
  v_form _ _ h o rfl rfl rfl rfl rfl (by decide) (by decide) (by decide) (by decide) (fun _ => rfl)

theorem fsqrt (h : Hdr) (o : OpV) : Statement (.fsqrt h o) :=
  v_form _ _ h o rfl rfl rfl rfl rfl (by decide) (by decide) (by decide) (by decide) (fun _ => rfl)

theorem fexp2 (h : Hdr) (o : OpV) : Statement (.fexp2 h o) :=
  v_form _ _ h o rfl rfl rfl rfl rfl (by decide) (by decide) (by decide) (by decide) (fun _ => rfl)

theorem flog2 (h : Hdr) (o : OpV) : Statement (.flog2 h o) :=
  v_form _ _ h o rfl rfl rfl rfl rfl (by decide) (by decide) (by decide) (by decide) (fun _ => rfl)

theorem fsincos (h : Hdr) (o : OpV) : Statement (.fsincos h o) :=
  v_form _ _ h o rfl rfl rfl rfl rfl (by decide) (by decide) (by decide) (by decide) (fun _ => rfl)

theorem fdiv (h : Hdr) (o : OpV) : Statement (.fdiv h o) :=
  v_form _ _ h o rfl rfl rfl rfl rfl (by decide) (by decide) (by decide) (by decide) (fun _ => rfl)

theorem fdot2 (h : Hdr) (o : OpV) : Statement (.fdot2 h o) :=
  v_form _ _ h o rfl rfl rfl rfl rfl (by decide) (by decide) (by decide) (by decide) (fun _ => rfl)

theorem fcvt (h : Hdr) (o : OpV) : Statement (.fcvt h o) :=
  v_form _ _ h o rfl rfl rfl rfl rfl (by decide) (by decide) (by decide) (by decide) (fun _ => rfl)

theorem icvt (h : Hdr) (o : OpV) : Statement (.icvt h o) :=
  v_form _ _ h o rfl rfl rfl rfl rfl (by decide) (by decide) (by decide) (by decide) (fun _ => rfl)

theorem fpack (h : Hdr) (o : OpV) : Statement (.fpack h o) :=
  v_form _ _ h o rfl rfl rfl rfl rfl (by decide) (by decide) (by decide) (by decide) (fun _ => rfl)

theorem funpack (h : Hdr) (o : OpV) : Statement (.funpack h o) :=
  v_form _ _ h o rfl rfl rfl rfl rfl (by decide) (by decide) (by decide) (by decide) (fun _ => rfl)

theorem fscale (h : Hdr) (o : OpV) : Statement (.fscale h o) :=
  v_form _ _ h o rfl rfl rfl rfl rfl (by decide) (by decide) (by decide) (by decide) (fun _ => rfl)

theorem lshf (h : Hdr) (o : OpV) : Statement (.lshf h o) :=
  v_form _ _ h o rfl rfl rfl rfl rfl (by decide) (by decide) (by decide) (by decide) (fun _ => rfl)

theorem lrot (h : Hdr) (o : OpV) : Statement (.lrot h o) :=
  v_form _ _ h o rfl rfl rfl rfl rfl (by decide) (by decide) (by decide) (by decide) (fun _ => rfl)

theorem lperm (h : Hdr) (o : OpV) : Statement (.lperm h o) :=
  v_form _ _ h o rfl rfl rfl rfl rfl (by decide) (by decide) (by decide) (by decide) (fun _ => rfl)

theorem lbcast (h : Hdr) (o : OpV) : Statement (.lbcast h o) :=
  v_form _ _ h o rfl rfl rfl rfl rfl (by decide) (by decide) (by decide) (by decide) (fun _ => rfl)

theorem lred (h : Hdr) (o : OpV) : Statement (.lred h o) :=
  v_form _ _ h o rfl rfl rfl rfl rfl (by decide) (by decide) (by decide) (by decide) (fun _ => rfl)

theorem lscan (h : Hdr) (o : OpV) : Statement (.lscan h o) :=
  v_form _ _ h o rfl rfl rfl rfl rfl (by decide) (by decide) (by decide) (by decide) (fun _ => rfl)

theorem lbal (h : Hdr) (o : OpV) : Statement (.lbal h o) :=
  v_form _ _ h o rfl rfl rfl rfl rfl (by decide) (by decide) (by decide) (by decide) (fun _ => rfl)

theorem lpack (h : Hdr) (o : OpV) : Statement (.lpack h o) :=
  v_form _ _ h o rfl rfl rfl rfl rfl (by decide) (by decide) (by decide) (by decide) (fun _ => rfl)

theorem lmatch (h : Hdr) (o : OpV) : Statement (.lmatch h o) :=
  v_form _ _ h o rfl rfl rfl rfl rfl (by decide) (by decide) (by decide) (by decide) (fun _ => rfl)

theorem plop (h : Hdr) (o : OpV) : Statement (.plop h o) :=
  v_form _ _ h o rfl rfl rfl rfl rfl (by decide) (by decide) (by decide) (by decide) (fun _ => rfl)

theorem pset (h : Hdr) (o : OpV) : Statement (.pset h o) :=
  v_form _ _ h o rfl rfl rfl rfl rfl (by decide) (by decide) (by decide) (by decide) (fun _ => rfl)

theorem aff (h : Hdr) (o : OpV) : Statement (.aff h o) :=
  v_form _ _ h o rfl rfl rfl rfl rfl (by decide) (by decide) (by decide) (by decide) (fun _ => rfl)

theorem vshape (h : Hdr) (o : OpV) : Statement (.vshape h o) :=
  v_form _ _ h o rfl rfl rfl rfl rfl (by decide) (by decide) (by decide) (by decide) (fun _ => rfl)

theorem vcomp (h : Hdr) (o : OpV) : Statement (.vcomp h o) :=
  v_form _ _ h o rfl rfl rfl rfl rfl (by decide) (by decide) (by decide) (by decide) (fun _ => rfl)

theorem vexp (h : Hdr) (o : OpV) : Statement (.vexp h o) :=
  v_form _ _ h o rfl rfl rfl rfl rfl (by decide) (by decide) (by decide) (by decide) (fun _ => rfl)

theorem mfs (h : Hdr) (o : OpV) : Statement (.mfs h o) :=
  v_form _ _ h o rfl rfl rfl rfl rfl (by decide) (by decide) (by decide) (by decide) (fun _ => rfl)

theorem mts (h : Hdr) (o : OpV) : Statement (.mts h o) :=
  v_form _ _ h o rfl rfl rfl rfl rfl (by decide) (by decide) (by decide) (by decide) (fun _ => rfl)

theorem ld (h : Hdr) (o : OpM) : Statement (.ld h o) :=
  m_form _ _ h o rfl rfl rfl rfl rfl (by decide) (by decide) (by decide) (fun _ => rfl)

theorem st (h : Hdr) (o : OpM) : Statement (.st h o) :=
  m_form _ _ h o rfl rfl rfl rfl rfl (by decide) (by decide) (by decide) (fun _ => rfl)

theorem ldaBcast (h : Hdr) (o : OpM) : Statement (.ldaBcast h o) :=
  m_form _ _ h o rfl rfl rfl rfl rfl (by decide) (by decide) (by decide) (fun e => if_pos (eq_of_beq (legalM_sub e)))

theorem ldaSeq (h : Hdr) (o : OpM) : Statement (.ldaSeq h o) :=
  m_form _ _ h o rfl rfl rfl rfl rfl (by decide) (by decide) (by decide) (fun e => (if_neg (other (eq_of_beq (legalM_sub e)) (by decide))).trans (if_pos (eq_of_beq (legalM_sub e))))

theorem sta (h : Hdr) (o : OpM) : Statement (.sta h o) :=
  m_form _ _ h o rfl rfl rfl rfl rfl (by decide) (by decide) (by decide) (fun _ => rfl)

theorem ldc (h : Hdr) (o : OpM) : Statement (.ldc h o) :=
  m_form _ _ h o rfl rfl rfl rfl rfl (by decide) (by decide) (by decide) (fun _ => rfl)

theorem stc (h : Hdr) (o : OpM) : Statement (.stc h o) :=
  m_form _ _ h o rfl rfl rfl rfl rfl (by decide) (by decide) (by decide) (fun _ => rfl)

theorem lds (h : Hdr) (o : OpM) : Statement (.lds h o) :=
  m_form _ _ h o rfl rfl rfl rfl rfl (by decide) (by decide) (by decide) (fun _ => rfl)

theorem sts (h : Hdr) (o : OpM) : Statement (.sts h o) :=
  m_form _ _ h o rfl rfl rfl rfl rfl (by decide) (by decide) (by decide) (fun _ => rfl)

theorem atom (h : Hdr) (o : OpM) : Statement (.atom h o) :=
  m_form _ _ h o rfl rfl rfl rfl rfl (by decide) (by decide) (by decide) (fun _ => rfl)

theorem satom (h : Hdr) (o : OpM) : Statement (.satom h o) :=
  m_form _ _ h o rfl rfl rfl rfl rfl (by decide) (by decide) (by decide) (fun _ => rfl)

theorem cas (h : Hdr) (o : OpM) : Statement (.cas h o) :=
  m_form _ _ h o rfl rfl rfl rfl rfl (by decide) (by decide) (by decide) (fun _ => rfl)

theorem fence (h : Hdr) (o : OpM) : Statement (.fence h o) :=
  m_form _ _ h o rfl rfl rfl rfl rfl (by decide) (by decide) (by decide) (fun _ => rfl)

theorem icinv (h : Hdr) (o : OpM) : Statement (.icinv h o) :=
  m_form _ _ h o rfl rfl rfl rfl rfl (by decide) (by decide) (by decide) (fun _ => rfl)

theorem cache (h : Hdr) (o : OpM) : Statement (.cache h o) :=
  m_form _ _ h o rfl rfl rfl rfl rfl (by decide) (by decide) (by decide) (fun _ => rfl)

theorem txl (h : Hdr) (o : OpM) : Statement (.txl h o) :=
  m_form _ _ h o rfl rfl rfl rfl rfl (by decide) (by decide) (by decide) (fun _ => rfl)

theorem txi (h : Hdr) (o : OpM) : Statement (.txi h o) :=
  m_form _ _ h o rfl rfl rfl rfl rfl (by decide) (by decide) (by decide) (fun _ => rfl)

theorem waitm (h : Hdr) (o : OpM) : Statement (.waitm h o) :=
  m_form _ _ h o rfl rfl rfl rfl rfl (by decide) (by decide) (by decide) (fun _ => rfl)

theorem ldq (h : Hdr) (o : OpM) : Statement (.ldq h o) :=
  m_form _ _ h o rfl rfl rfl rfl rfl (by decide) (by decide) (by decide) (fun _ => rfl)

theorem cpy (h : Hdr) (o : OpX) : Statement (.cpy h o) :=
  x_form _ _ h o rfl rfl rfl rfl rfl (by decide) (by decide) (fun _ => rfl)

theorem cpyg (h : Hdr) (o : OpX) : Statement (.cpyg h o) :=
  x_form _ _ h o rfl rfl rfl rfl rfl (by decide) (by decide) (fun _ => rfl)

theorem cpys (h : Hdr) (o : OpX) : Statement (.cpys h o) :=
  x_form _ _ h o rfl rfl rfl rfl rfl (by decide) (by decide) (fun _ => rfl)

theorem cpym (h : Hdr) (o : OpX) : Statement (.cpym h o) :=
  x_form _ _ h o rfl rfl rfl rfl rfl (by decide) (by decide) (fun _ => rfl)

theorem waitb (h : Hdr) (o : OpX) : Statement (.waitb h o) :=
  x_form _ _ h o rfl rfl rfl rfl rfl (by decide) (by decide) (fun _ => rfl)

theorem binit (h : Hdr) (o : OpX) : Statement (.binit h o) :=
  x_form _ _ h o rfl rfl rfl rfl rfl (by decide) (by decide) (fun _ => rfl)

theorem barv (h : Hdr) (o : OpX) : Statement (.barv h o) :=
  x_form _ _ h o rfl rfl rfl rfl rfl (by decide) (by decide) (fun _ => rfl)

theorem bwait (h : Hdr) (o : OpX) : Statement (.bwait h o) :=
  x_form _ _ h o rfl rfl rfl rfl rfl (by decide) (by decide) (fun _ => rfl)

theorem btest (h : Hdr) (o : OpX) : Statement (.btest h o) :=
  x_form _ _ h o rfl rfl rfl rfl rfl (by decide) (by decide) (fun _ => rfl)

theorem waitwp (h : Hdr) (o : OpX) : Statement (.waitwp h o) :=
  x_form _ _ h o rfl rfl rfl rfl rfl (by decide) (by decide) (fun _ => rfl)

theorem chrst (h : Hdr) (o : OpX) : Statement (.chrst h o) :=
  x_form _ _ h o rfl rfl rfl rfl rfl (by decide) (by decide) (fun _ => rfl)

theorem qsub (h : Hdr) (o : OpX) : Statement (.qsub h o) :=
  x_form _ _ h o rfl rfl rfl rfl rfl (by decide) (by decide) (fun _ => rfl)

theorem qwait (h : Hdr) (o : OpX) : Statement (.qwait h o) :=
  x_form _ _ h o rfl rfl rfl rfl rfl (by decide) (by decide) (fun _ => rfl)

theorem cpyst (h : Hdr) (o : OpX) : Statement (.cpyst h o) :=
  x_form _ _ h o rfl rfl rfl rfl rfl (by decide) (by decide) (fun _ => rfl)

theorem mma (h : Hdr) (o : OpX) : Statement (.mma h o) :=
  x_form _ _ h o rfl rfl rfl rfl rfl (by decide) (by decide) (fun _ => rfl)

theorem mmas (h : Hdr) (o : OpX) : Statement (.mmas h o) :=
  x_form _ _ h o rfl rfl rfl rfl rfl (by decide) (by decide) (fun _ => rfl)

theorem mmac (h : Hdr) (o : OpX) : Statement (.mmac h o) :=
  x_form _ _ h o rfl rfl rfl rfl rfl (by decide) (by decide) (fun _ => rfl)

theorem mzero (h : Hdr) (o : OpX) : Statement (.mzero h o) :=
  x_form _ _ h o rfl rfl rfl rfl rfl (by decide) (by decide) (fun e => if_pos (eq_of_beq (legalX_sub e)))

theorem mzeroLat (h : Hdr) (o : OpX) : Statement (.mzeroLat h o) :=
  x_form _ _ h o rfl rfl rfl rfl rfl (by decide) (by decide) (fun e => (if_neg (other (eq_of_beq (legalX_sub e)) (by decide))).trans (if_pos (eq_of_beq (legalX_sub e))))

theorem mdrain (h : Hdr) (o : OpX) : Statement (.mdrain h o) :=
  x_form _ _ h o rfl rfl rfl rfl rfl (by decide) (by decide) (fun _ => rfl)

theorem mldw (h : Hdr) (o : OpX) : Statement (.mldw h o) :=
  x_form _ _ h o rfl rfl rfl rfl rfl (by decide) (by decide) (fun _ => rfl)

theorem mwait (h : Hdr) (o : OpX) : Statement (.mwait h o) :=
  x_form _ _ h o rfl rfl rfl rfl rfl (by decide) (by decide) (fun _ => rfl)

theorem mstat (h : Hdr) (o : OpX) : Statement (.mstat h o) :=
  x_form _ _ h o rfl rfl rfl rfl rfl (by decide) (by decide) (fun _ => rfl)

theorem ecrt (h : Hdr) (o : OpX) : Statement (.ecrt h o) :=
  x_form _ _ h o rfl rfl rfl rfl rfl (by decide) (by decide) (fun _ => rfl)

theorem edel (h : Hdr) (o : OpX) : Statement (.edel h o) :=
  x_form _ _ h o rfl rfl rfl rfl rfl (by decide) (by decide) (fun _ => rfl)

theorem eadd (h : Hdr) (o : OpX) : Statement (.eadd h o) :=
  x_form _ _ h o rfl rfl rfl rfl rfl (by decide) (by decide) (fun _ => rfl)

theorem erem (h : Hdr) (o : OpX) : Statement (.erem h o) :=
  x_form _ _ h o rfl rfl rfl rfl rfl (by decide) (by decide) (fun _ => rfl)

theorem hres (h : Hdr) (o : OpX) : Statement (.hres h o) :=
  x_form _ _ h o rfl rfl rfl rfl rfl (by decide) (by decide) (fun _ => rfl)

theorem ecol (h : Hdr) (o : OpX) : Statement (.ecol h o) :=
  x_form _ _ h o rfl rfl rfl rfl rfl (by decide) (by decide) (fun _ => rfl)

theorem eqry (h : Hdr) (o : OpX) : Statement (.eqry h o) :=
  x_form _ _ h o rfl rfl rfl rfl rfl (by decide) (by decide) (fun _ => rfl)

theorem estat (h : Hdr) (o : OpX) : Statement (.estat h o) :=
  x_form _ _ h o rfl rfl rfl rfl rfl (by decide) (by decide) (fun _ => rfl)

theorem ecnt (h : Hdr) (o : OpX) : Statement (.ecnt h o) :=
  x_form _ _ h o rfl rfl rfl rfl rfl (by decide) (by decide) (fun _ => rfl)

theorem capt (h : Hdr) (o : OpX) : Statement (.capt h o) :=
  x_form _ _ h o rfl rfl rfl rfl rfl (by decide) (by decide) (fun _ => rfl)

theorem apply (h : Hdr) (o : OpX) : Statement (.apply h o) :=
  x_form _ _ h o rfl rfl rfl rfl rfl (by decide) (by decide) (fun e => if_pos (eq_of_beq (legalX_sub e)))

theorem applyV (h : Hdr) (o : OpX) : Statement (.applyV h o) :=
  x_form _ _ h o rfl rfl rfl rfl rfl (by decide) (by decide) (fun e => (if_neg (other (eq_of_beq (legalX_sub e)) (by decide))).trans (if_pos (eq_of_beq (legalX_sub e))))

theorem kdup (h : Hdr) (o : OpX) : Statement (.kdup h o) :=
  x_form _ _ h o rfl rfl rfl rfl rfl (by decide) (by decide) (fun _ => rfl)

theorem krel (h : Hdr) (o : OpX) : Statement (.krel h o) :=
  x_form _ _ h o rfl rfl rfl rfl rfl (by decide) (by decide) (fun _ => rfl)

theorem kld (h : Hdr) (o : OpX) : Statement (.kld h o) :=
  x_form _ _ h o rfl rfl rfl rfl rfl (by decide) (by decide) (fun _ => rfl)

theorem kmov (h : Hdr) (o : OpX) : Statement (.kmov h o) :=
  x_form _ _ h o rfl rfl rfl rfl rfl (by decide) (by decide) (fun _ => rfl)

theorem kref (h : Hdr) (o : OpX) : Statement (.kref h o) :=
  x_form _ _ h o rfl rfl rfl rfl rfl (by decide) (by decide) (fun _ => rfl)

theorem uisend (h : Hdr) (o : OpX) : Statement (.uisend h o) :=
  x_form _ _ h o rfl rfl rfl rfl rfl (by decide) (by decide) (fun _ => rfl)

theorem uimask (h : Hdr) (o : OpX) : Statement (.uimask h o) :=
  x_form _ _ h o rfl rfl rfl rfl rfl (by decide) (by decide) (fun e => if_pos (of_decide_eq_true (legalX_sub e)))

theorem uimaskClaim (h : Hdr) (o : OpX) : Statement (.uimaskClaim h o) :=
  x_form _ _ h o rfl rfl rfl rfl rfl (by decide) (by decide) (fun e => pick_two (eq_of_beq (legalX_sub e)) (by decide))

theorem uipendTake (h : Hdr) (o : OpX) : Statement (.uipendTake h o) :=
  x_form _ _ h o rfl rfl rfl rfl rfl (by decide) (by decide) (fun e => if_pos (eq_of_beq (legalX_sub e)))

theorem uipendPeek (h : Hdr) (o : OpX) : Statement (.uipendPeek h o) :=
  x_form _ _ h o rfl rfl rfl rfl rfl (by decide) (by decide) (fun e => (if_neg (other (eq_of_beq (legalX_sub e)) (by decide))).trans (if_pos (eq_of_beq (legalX_sub e))))

theorem uiret (h : Hdr) (o : OpX) : Statement (.uiret h o) :=
  x_form _ _ h o rfl rfl rfl rfl rfl (by decide) (by decide) (fun _ => rfl)

theorem uiwait (h : Hdr) (o : OpX) : Statement (.uiwait h o) :=
  x_form _ _ h o rfl rfl rfl rfl rfl (by decide) (by decide) (fun _ => rfl)

theorem svc (h : Hdr) (o : OpX) : Statement (.svc h o) :=
  x_form _ _ h o rfl rfl rfl rfl rfl (by decide) (by decide) (fun _ => rfl)

theorem svcw (h : Hdr) (o : OpX) : Statement (.svcw h o) :=
  x_form _ _ h o rfl rfl rfl rfl rfl (by decide) (by decide) (fun _ => rfl)

theorem emit (h : Hdr) (o : OpX) : Statement (.emit h o) :=
  x_form _ _ h o rfl rfl rfl rfl rfl (by decide) (by decide) (fun _ => rfl)

theorem nodefin (h : Hdr) (o : OpX) : Statement (.nodefin h o) :=
  x_form _ _ h o rfl rfl rfl rfl rfl (by decide) (by decide) (fun _ => rfl)

theorem bin (h : Hdr) (o : OpX) : Statement (.bin h o) :=
  x_form _ _ h o rfl rfl rfl rfl rfl (by decide) (by decide) (fun _ => rfl)

theorem rast (h : Hdr) (o : OpX) : Statement (.rast h o) :=
  x_form _ _ h o rfl rfl rfl rfl rfl (by decide) (by decide) (fun _ => rfl)

theorem ztest (h : Hdr) (o : OpX) : Statement (.ztest h o) :=
  x_form _ _ h o rfl rfl rfl rfl rfl (by decide) (by decide) (fun _ => rfl)

theorem rtw (h : Hdr) (o : OpX) : Statement (.rtw h o) :=
  x_form _ _ h o rfl rfl rfl rfl rfl (by decide) (by decide) (fun _ => rfl)

theorem tilef (h : Hdr) (o : OpX) : Statement (.tilef h o) :=
  x_form _ _ h o rfl rfl rfl rfl rfl (by decide) (by decide) (fun _ => rfl)

theorem tex (h : Hdr) (o : OpX) : Statement (.tex h o) :=
  x_form _ _ h o rfl rfl rfl rfl rfl (by decide) (by decide) (fun _ => rfl)

theorem trace (h : Hdr) (o : OpX) : Statement (.trace h o) :=
  x_form _ _ h o rfl rfl rfl rfl rfl (by decide) (by decide) (fun _ => rfl)

theorem cont (h : Hdr) (o : OpX) : Statement (.cont h o) :=
  x_form _ _ h o rfl rfl rfl rfl rfl (by decide) (by decide) (fun _ => rfl)

theorem rsusp (h : Hdr) (o : OpX) : Statement (.rsusp h o) :=
  x_form _ _ h o rfl rfl rfl rfl rfl (by decide) (by decide) (fun _ => rfl)

theorem rres (h : Hdr) (o : OpX) : Statement (.rres h o) :=
  x_form _ _ h o rfl rfl rfl rfl rfl (by decide) (by decide) (fun _ => rfl)

theorem lntp (h : Hdr) (o : OpX) : Statement (.lntp h o) :=
  x_form _ _ h o rfl rfl rfl rfl rfl (by decide) (by decide) (fun _ => rfl)

theorem mNode : Statement .mNode :=
  micro_form _ _ rfl rfl rfl rfl (by decide)

theorem mBoxn : Statement .mBoxn :=
  micro_form _ _ rfl rfl rfl rfl (by decide)

theorem mOrder : Statement .mOrder :=
  micro_form _ _ rfl rfl rfl rfl (by decide)

theorem mPushc : Statement .mPushc :=
  micro_form _ _ rfl rfl rfl rfl (by decide)

theorem mPop : Statement .mPop :=
  micro_form _ _ rfl rfl rfl rfl (by decide)

theorem mLeaf : Statement .mLeaf :=
  micro_form _ _ rfl rfl rfl rfl (by decide)

theorem mPrim : Statement .mPrim :=
  micro_form _ _ rfl rfl rfl rfl (by decide)

theorem mHit : Statement .mHit :=
  micro_form _ _ rfl rfl rfl rfl (by decide)

theorem mCallk : Statement .mCallk :=
  micro_form _ _ rfl rfl rfl rfl (by decide)

theorem mAccept : Statement .mAccept :=
  micro_form _ _ rfl rfl rfl rfl (by decide)

theorem mIgnore : Statement .mIgnore :=
  micro_form _ _ rfl rfl rfl rfl (by decide)

theorem mSett (sel : BitVec 2) : Statement (.mSett sel) :=
  micro_form _ _ rfl rfl rfl rfl (by decide)

theorem mJmp (target : BitVec 6) : Statement (.mJmp target) :=
  micro_form _ _ rfl rfl rfl rfl (by decide)

theorem mJif (neg : Bool) (cond : BitVec 4) (target : BitVec 6) : Statement (.mJif neg cond target) :=
  micro_form _ _ rfl rfl rfl rfl (by decide)

theorem mCnt (op : BitVec 2) (value : BitVec 8) : Statement (.mCnt op value) :=
  micro_form _ _ rfl rfl rfl rfl (by decide)

theorem mTerm : Statement .mTerm :=
  micro_form _ _ rfl rfl rfl rfl (by decide)

theorem mDone : Statement .mDone :=
  micro_form _ _ rfl rfl rfl rfl (by decide)

theorem evSleepExpiry (wick frag : Nat) : Statement (.evSleepExpiry wick frag) :=
  no_form _ rfl rfl rfl rfl

theorem evRaySuspension (ray : Nat) : Statement (.evRaySuspension ray) :=
  no_form _ rfl rfl rfl rfl

theorem evVerdictArrival (wick : Nat) : Statement (.evVerdictArrival wick) :=
  no_form _ rfl rfl rfl rfl

theorem evVerdictTimeout (ray : Nat) : Statement (.evVerdictTimeout ray) :=
  no_form _ rfl rfl rfl rfl

theorem evRunaway (ray : Nat) : Statement (.evRunaway ray) :=
  no_form _ rfl rfl rfl rfl

theorem evTexelFetchComplete (rec : Nat) : Statement (.evTexelFetchComplete rec) :=
  no_form _ rfl rfl rfl rfl

theorem evContinuationWickStart (rec : Nat) : Statement (.evContinuationWickStart rec) :=
  no_form _ rfl rfl rfl rfl

theorem evChandelierGatherTimer (rec : Nat) : Statement (.evChandelierGatherTimer rec) :=
  no_form _ rfl rfl rfl rfl

theorem evNodeWickStart (graph node : Nat) : Statement (.evNodeWickStart graph node) :=
  no_form _ rfl rfl rfl rfl

theorem evGatherTimer (graph node : Nat) : Statement (.evGatherTimer graph node) :=
  no_form _ rfl rfl rfl rfl

theorem evTilePhaseStart (pkt : Nat) : Statement (.evTilePhaseStart pkt) :=
  no_form _ rfl rfl rfl rfl

theorem evTileCompletion (pkt tile : Nat) : Statement (.evTileCompletion pkt tile) :=
  no_form _ rfl rfl rfl rfl

theorem evCopyCompletion (chan : Nat) : Statement (.evCopyCompletion chan) :=
  no_form _ rfl rfl rfl rfl

theorem evCopyFaultStop (chan : Nat) : Statement (.evCopyFaultStop chan) :=
  no_form _ rfl rfl rfl rfl

theorem evCopyContinue (work : Nat) : Statement (.evCopyContinue work) :=
  no_form _ rfl rfl rfl rfl

theorem evMatrixInstructionComplete (core : Nat) : Statement (.evMatrixInstructionComplete core) :=
  no_form _ rfl rfl rfl rfl

theorem evMmacRendezvous (band : Nat) : Statement (.evMmacRendezvous band) :=
  no_form _ rfl rfl rfl rfl

theorem evStreamingKBlock (core : Nat) : Statement (.evStreamingKBlock core) :=
  no_form _ rfl rfl rfl rfl

theorem evQuantCommandComplete (cluster : Nat) : Statement (.evQuantCommandComplete cluster) :=
  no_form _ rfl rfl rfl rfl

theorem evQuantFaultStop (cluster : Nat) : Statement (.evQuantFaultStop cluster) :=
  no_form _ rfl rfl rfl rfl

theorem evApplicationPhase (pkt : Nat) : Statement (.evApplicationPhase pkt) :=
  no_form _ rfl rfl rfl rfl

theorem evCompactionMove (pkt : Nat) : Statement (.evCompactionMove pkt) :=
  no_form _ rfl rfl rfl rfl

theorem evQueryBlockDispatch (pkt : Nat) : Statement (.evQueryBlockDispatch pkt) :=
  no_form _ rfl rfl rfl rfl

theorem evFaultRecord (ctx : Nat) : Statement (.evFaultRecord ctx) :=
  no_form _ rfl rfl rfl rfl

theorem evIssueCycle (port : Nat) : Statement (.evIssueCycle port) :=
  no_form _ rfl rfl rfl rfl

theorem evAgeGuard (wick : Nat) : Statement (.evAgeGuard wick) :=
  no_form _ rfl rfl rfl rfl

theorem evPreemptionEntry (wick : Nat) : Statement (.evPreemptionEntry wick) :=
  no_form _ rfl rfl rfl rfl

theorem evPreemptionWatchdog (group : Nat) : Statement (.evPreemptionWatchdog group) :=
  no_form _ rfl rfl rfl rfl

theorem evRestoreEntry (group : Nat) : Statement (.evRestoreEntry group) :=
  no_form _ rfl rfl rfl rfl

theorem evResumeEntry (wick : Nat) : Statement (.evResumeEntry wick) :=
  no_form _ rfl rfl rfl rfl

theorem evUserInterruptDelivery (ctx : Nat) : Statement (.evUserInterruptDelivery ctx) :=
  no_form _ rfl rfl rfl rfl

theorem evDebugStop (wick : Nat) : Statement (.evDebugStop wick) :=
  no_form _ rfl rfl rfl rfl

theorem evTailWrite (die queue size : Nat) (value : Word) : Statement (.evTailWrite die queue size value) :=
  no_form _ rfl rfl rfl rfl

theorem evParseRound (die : Nat) : Statement (.evParseRound die) :=
  no_form _ rfl rfl rfl rfl

theorem evNopPacket (pkt : Nat) : Statement (.evNopPacket pkt) :=
  no_form _ rfl rfl rfl rfl

theorem evLaunch (pkt : Nat) : Statement (.evLaunch pkt) :=
  no_form _ rfl rfl rfl rfl

theorem evWorldsync (pkt : Nat) : Statement (.evWorldsync pkt) :=
  no_form _ rfl rfl rfl rfl

theorem evCopy (pkt : Nat) : Statement (.evCopy pkt) :=
  no_form _ rfl rfl rfl rfl

theorem evSnapshot (pkt : Nat) : Statement (.evSnapshot pkt) :=
  no_form _ rfl rfl rfl rfl

theorem evSignal (pkt : Nat) : Statement (.evSignal pkt) :=
  no_form _ rfl rfl rfl rfl

theorem evUiraise (pkt : Nat) : Statement (.evUiraise pkt) :=
  no_form _ rfl rfl rfl rfl

theorem evWait (pkt : Nat) : Statement (.evWait pkt) :=
  no_form _ rfl rfl rfl rfl

theorem evWaitSatisfied (pkt : Nat) : Statement (.evWaitSatisfied pkt) :=
  no_form _ rfl rfl rfl rfl

theorem evCancel (pkt : Nat) : Statement (.evCancel pkt) :=
  no_form _ rfl rfl rfl rfl

theorem evPreempt (pkt : Nat) : Statement (.evPreempt pkt) :=
  no_form _ rfl rfl rfl rfl

theorem evResume (pkt : Nat) : Statement (.evResume pkt) :=
  no_form _ rfl rfl rfl rfl

theorem evPacketStart (pkt : Nat) : Statement (.evPacketStart pkt) :=
  no_form _ rfl rfl rfl rfl

theorem evPlacement (part : Nat) : Statement (.evPlacement part) :=
  no_form _ rfl rfl rfl rfl

theorem evPacketCompletion (pkt : Nat) : Statement (.evPacketCompletion pkt) :=
  no_form _ rfl rfl rfl rfl

theorem evSnapshotStart (pkt : Nat) : Statement (.evSnapshotStart pkt) :=
  no_form _ rfl rfl rfl rfl

theorem evCutMessage (node : Nat) (cut : BitVec 32) : Statement (.evCutMessage node cut) :=
  no_form _ rfl rfl rfl rfl

theorem evCutTimeout (pkt : Nat) : Statement (.evCutTimeout pkt) :=
  no_form _ rfl rfl rfl rfl

theorem evDrainStageComplete (pkt : Nat) (ok : Bool) : Statement (.evDrainStageComplete pkt ok) :=
  no_form _ rfl rfl rfl rfl

theorem evDoorbellSend (pasid : Option (BitVec 20)) (offset size : Nat) (payload : Word) : Statement (.evDoorbellSend pasid offset size payload) :=
  no_form _ rfl rfl rfl rfl

theorem evPeerSend (node sender target vector : Nat) (payload : Word) : Statement (.evPeerSend node sender target vector payload) :=
  no_form _ rfl rfl rfl rfl

theorem evServiceReply (part : Nat) (token value : Word) : Statement (.evServiceReply part token value) :=
  no_form _ rfl rfl rfl rfl

theorem evHostMemoryAccess (addr size : Nat) (store : Option (Nat × Bool)) : Statement (.evHostMemoryAccess addr size store) :=
  no_form _ rfl rfl rfl rfl

theorem evPeerMemoryRequest (node pa size : Nat) (req : PeerReq) : Statement (.evPeerMemoryRequest node pa size req) :=
  no_form _ rfl rfl rfl rfl

theorem evQueueDescriptorWrite (die queue index : Nat) (value : Word) : Statement (.evQueueDescriptorWrite die queue index value) :=
  no_form _ rfl rfl rfl rfl

theorem evRecover (die : Nat) : Statement (.evRecover die) :=
  no_form _ rfl rfl rfl rfl

theorem evResetRung2 (die : Nat) : Statement (.evResetRung2 die) :=
  no_form _ rfl rfl rfl rfl

theorem evResetRung3 (die part : Nat) : Statement (.evResetRung3 die part) :=
  no_form _ rfl rfl rfl rfl

theorem evResetRung4 (die : Nat) : Statement (.evResetRung4 die) :=
  no_form _ rfl rfl rfl rfl

theorem evFunctionLevelReset (cxl : Bool) (image : Firmware) : Statement (.evFunctionLevelReset cxl image) :=
  no_form _ rfl rfl rfl rfl

theorem evColdReset (image : Firmware) : Statement (.evColdReset image) :=
  no_form _ rfl rfl rfl rfl

theorem evPilotTick (die : Nat) : Statement (.evPilotTick die) :=
  no_form _ rfl rfl rfl rfl

theorem evSpdmRequest (request : Nat) : Statement (.evSpdmRequest request) :=
  no_form _ rfl rfl rfl rfl

theorem evKlctlWrite (port : Nat) (value : BitVec 32) : Statement (.evKlctlWrite port value) :=
  no_form _ rfl rfl rfl rfl

theorem evPartcfgWrite (part : Nat) (value : BitVec 32) : Statement (.evPartcfgWrite part value) :=
  no_form _ rfl rfl rfl rfl

theorem evPlimitWrite (value : BitVec 32) : Statement (.evPlimitWrite value) :=
  no_form _ rfl rfl rfl rfl

theorem evConfigRegisterWrite (reg : ConfigReg) : Statement (.evConfigRegisterWrite reg) :=
  no_form _ rfl rfl rfl rfl

theorem evLinkStateChange (port : Nat) (up : Bool) (peer : BitVec 8) (peerGen : Bool) : Statement (.evLinkStateChange port up peer peerGen) :=
  no_form _ rfl rfl rfl rfl

theorem evLinkHeartbeatTimeout (node : Nat) : Statement (.evLinkHeartbeatTimeout node) :=
  no_form _ rfl rfl rfl rfl

theorem evLossNotice (node : Nat) : Statement (.evLossNotice node) :=
  no_form _ rfl rfl rfl rfl

theorem evCorrectableError (unit : UnitId) (spare : Bool) : Statement (.evCorrectableError unit spare) :=
  no_form _ rfl rfl rfl rfl

theorem evUncorrectableError (unit : UnitId) (key : Nat) : Statement (.evUncorrectableError unit key) :=
  no_form _ rfl rfl rfl rfl

theorem evPoisonConsumption (by_ : Consumer) : Statement (.evPoisonConsumption by_) :=
  no_form _ rfl rfl rfl rfl

theorem evThrottleChange (domain : Domain) (change : Throttle) : Statement (.evThrottleChange domain change) :=
  no_form _ rfl rfl rfl rfl

theorem evCopyElementDelivery (chan : Nat) : Statement (.evCopyElementDelivery chan) :=
  no_form _ rfl rfl rfl rfl

theorem evTexelFetchFaultStop (rec : Nat) : Statement (.evTexelFetchFaultStop rec) :=
  no_form _ rfl rfl rfl rfl

theorem evTilefCompletion (core : Nat) : Statement (.evTilefCompletion core) :=
  no_form _ rfl rfl rfl rfl

theorem evSnapshotCopyComplete (pkt : Nat) : Statement (.evSnapshotCopyComplete pkt) :=
  no_form _ rfl rfl rfl rfl

theorem evRungCompletion (die : Nat) : Statement (.evRungCompletion die) :=
  no_form _ rfl rfl rfl rfl

theorem evWickKillCommand (wick : Nat) : Statement (.evWickKillCommand wick) :=
  no_form _ rfl rfl rfl rfl

theorem evPeerSendAnswer (wick : Nat × Nat) (accepted : Bool) : Statement (.evPeerSendAnswer wick accepted) :=
  no_form _ rfl rfl rfl rfl

end Sys2Proof.Laws.Encoding

open Sys2Proof Sys2Proof.Machine Sys2Proof.Laws.Encoding in
theorem Sys2Proof.Laws.Encoding.seal (h : Hdr) (o : OpX) : Statement (.seal h o) :=
  x_form _ _ h o rfl rfl rfl rfl rfl (by decide) (by decide) (fun _ => rfl)
end

