-- ==== Sys2Proof/Laws/Xlate.lean ====
section
/-! SUPPORT. What translation, the Ocris's own accesses, fetches and fault records may change: memory, cached translations, the count of
free values, what is kept of overwritten bytes, and the contexts' queues. -/

namespace Sys2Proof.Machine

open Sys2Proof

/-- Two states differ at most in memory and what is kept of it, cached translations, free values taken and contexts. -/
def Kept (s t : State) : Prop :=
  t = { s with mem := t.mem, older := t.older, tlb := t.tlb, free := t.free, ctxs := t.ctxs }

theorem Kept.refl (s : State) : Kept s s := rfl

theorem Kept.trans {a b c : State} (h : Kept a b) (g : Kept b c) : Kept a c := by
  unfold Kept at *
  rw [g, h]

theorem Kept.wicks {s t : State} (h : Kept s t) : t.wicks = s.wicks := by rw [h]
theorem Kept.cur {s t : State} (h : Kept s t) : t.cur = s.cur := by rw [h]
theorem Kept.now {s t : State} (h : Kept s t) : t.now = s.now := by rw [h]

/-- Wicks are found as before. -/
theorem Kept.findWick {s t : State} (h : Kept s t) (u : Nat) : t.findWick u = s.findWick u := by
  unfold State.findWick; rw [h.wicks]

theorem kept_fresh (s : State) : Kept s s.fresh.2 := rfl

theorem kept_cacheWalk (s : State) (c va : Nat) (w : Walk) : Kept s (cacheWalk s c va w) := rfl

/-- A change of memory alone. -/
theorem kept_mem (s : State) (m : Memory) : Kept s { s with mem := m } := rfl

theorem kept_markUsed (s : State) (c va : Nat) (w : Walk) (bits : Nat) : Kept s (markUsed s c va w bits) :=
  (kept_mem s _).trans (kept_cacheWalk _ _ _ _)

theorem kept_useWalk (s : State) (c : Nat) (sl : Bool) (k : AccKind) (va : Nat) (w : Walk) : Kept s (useWalk s c sl k va w).2 := by
  unfold useWalk
  split
  · exact Kept.refl s
  · split
    · exact kept_cacheWalk _ _ _ _
    · split
      · exact kept_markUsed _ _ _ _ _
      · split
        · exact Kept.refl s
        · split
          · exact Kept.refl s
          · exact kept_markUsed _ _ _ _ _

theorem kept_xlateWalk (s : State) (c : Nat) (sl : Bool) (k : AccKind) (va : Nat) : Kept s (xlateWalk s c sl k va).2 := by
  unfold xlateWalk
  split
  · rfl
  · exact kept_useWalk _ _ _ _ _ _

theorem kept_xlate (s : State) (c : Nat) (sl : Bool) (k : AccKind) (va : Nat) : Kept s (xlate s c sl k va).2 := by
  unfold xlate
  have h := kept_xlateWalk s c sl k va
  split <;> rename_i h1 <;> rw [h1] at h <;> exact h

theorem kept_xlatePieces (c : Nat) (sl : Bool) (k : AccKind) : ∀ (l : List (Nat × Nat)) (s : State), Kept s (xlatePieces s c sl k l).2
  | [], s => rfl
  | (va, n) :: rest, s => by
    unfold xlatePieces
    have h := kept_xlate s c sl k va
    split <;> rename_i h1 <;> rw [h1] at h
    · exact h
    · rename_i key s'
      have g := kept_xlatePieces c sl k rest s'
      split <;> rename_i h2 <;> rw [h2] at g <;> exact h.trans g

theorem kept_ctxRead (s : State) (c va len : Nat) : Kept s (s.ctxRead c va len).2 := by
  unfold State.ctxRead
  have h := kept_xlatePieces c true ⟨0, 0, 0⟩ (pages va len) s
  split <;> rename_i h1 <;> rw [h1] at h <;> exact h.trans (kept_fresh _)

theorem kept_ctxWrite {s t : State} {c va len v : Nat} (hw : s.ctxWrite c va len v = .ok t) : Kept s t := by
  unfold State.ctxWrite at hw
  have h := kept_xlatePieces c true ⟨1, 0, 0⟩ (pages va len) s
  split at hw <;> rename_i h1 <;> rw [h1] at h
  · exact absurd hw (by simp)
  · injection hw with e
    subst e
    exact h.trans (by rfl)

theorem kept_modCtx (s : State) (c : Nat) (f : Ctx → Ctx) : Kept s (s.modCtx c f) := rfl

theorem kept_flushOne {s t : State} {c : Nat} (hf : flushOne s c = some t) : Kept s t := by
  unfold flushOne at hf
  split at hf
  · exact absurd hf (by simp)
  · split at hf
    · exact absurd hf (by simp)
    · dsimp only at hf
      split at hf
      · exact absurd hf (by simp)
      · rename_i ctl s1 h1
        have k1 : Kept s s1 := by have := kept_ctxRead s c (s.ctxReg c 0x04) 8; rw [h1] at this; exact this
        split at hf
        · exact absurd hf (by simp)
        · split at hf
          · exact absurd hf (by simp)
          · rename_i s2 h2
            split at hf
            · exact absurd hf (by simp)
            · rename_i s3 h3
              injection hf with e
              subst e
              exact ((k1.trans (kept_ctxWrite h2)).trans (kept_ctxWrite h3)).trans (kept_modCtx _ _ _)

theorem kept_flushFaults (c : Nat) : ∀ (n : Nat) (s : State), Kept s (flushFaults s c n)
  | 0, s => rfl
  | n + 1, s => by
    unfold flushFaults
    split
    · rename_i s' h
      exact (kept_flushOne h).trans (kept_flushFaults c n s')
    · rfl

theorem kept_postFaults (s : State) (c : Nat) (rs : List Nat) : Kept s (postFaults s c rs) := by
  unfold postFaults
  exact (kept_modCtx _ _ _).trans (kept_flushFaults _ _ _)

theorem kept_fetchLine (s : State) (core c : Nat) (sl : Bool) (addr : Nat) : Kept s (fetchLine s core c sl addr).2 := by
  unfold fetchLine
  have h := kept_xlate s c sl ⟨3, 0, 0⟩ addr
  split <;> rename_i h1 <;> rw [h1] at h <;> exact h

/-- The check of a target changes no wick. -/
theorem kept_checkTarget (s : State) (core c : Nat) (sl : Bool) (pc : Word) : Kept s (checkTarget s core c sl pc).2 := by
  unfold checkTarget
  split
  · rfl
  · have h := kept_fetchLine s core c sl (pcLine pc)
    split <;> rename_i h1 <;> rw [h1] at h <;> exact h

/-- A halt leaves the wick's registers, with a fault record more. -/
theorem haltWick_find (s : State) (w : Wick) (cause value : Nat) {x : Wick} (hx : s.findWick w.info.uid = some x) :
    (haltWick s w cause value).findWick w.info.uid
      = some { w with info := { w.info with stage := .halted }, books := { w.books with faultSeq := w.books.faultSeq + 1 } } := by
  unfold haltWick
  rw [(kept_postFaults _ _ _).findWick]
  exact State.findWick_putWick s { w with info := { w.info with stage := .halted }, books := { w.books with faultSeq := w.books.faultSeq + 1 } } hx

/-- What a trap leaves of its wick: resident in single-lane mode, or halted. -/
theorem takeTrap_find (s : State) (w : Wick) (f : Nat) (pc : Word) (t : TrapInfo) {x : Wick} (hx : s.findWick w.info.uid = some x)
    (hs : w.info.stage = .resident) :
    ∃ w', (takeTrap s w f pc t).findWick w.info.uid = some w' ∧ (w'.info.stage = .resident ∨ w'.info.stage = .halted) := by
  unfold takeTrap
  split
  · exact ⟨_, haltWick_find s w _ _ hx, .inr rfl⟩
  · dsimp only
    have k := kept_checkTarget s w.info.coreId w.info.ctx true (s.vector w.info.ctx t.cause)
    split <;> rename_i h1 <;> rw [h1] at k
    · have put : ∀ (s1 : State) (w1 : Wick), Kept s s1 → w1.info = w.info → (s1.putWick w1).findWick w.info.uid = some w1 := fun s1 w1 k1 e => by
        have := State.findWick_putWick s1 w1 (x := x) (by rw [e, k1.findWick]; exact hx)
        rw [e] at this; exact this
      obtain ⟨y, hy, he⟩ := holdTarget_find _ f (s.vector w.info.ctx t.cause)
        (put _ (w.enterSl f pc (if t.cause = 0x30 || t.cause = 0x31 || t.cause = 0x32 then pc else pcNext pc) t (s.wsave w.info)
          (s.vector w.info.ctx t.cause)) k rfl)
      exact ⟨y, hy, .inl (by rw [he]; exact hs)⟩
    · exact ⟨_, haltWick_find _ (w.enterSl f pc _ t (s.wsave w.info) (s.vector w.info.ctx t.cause)) _ _ (x := x) (by rw [k.findWick]; exact hx), .inr rfl⟩
    · exact ⟨_, haltWick_find _ (w.enterSl f pc _ t (s.wsave w.info) (s.vector w.info.ctx t.cause)) _ _ (x := x) (by rw [k.findWick]; exact hx), .inr rfl⟩

/-- A trap leaves its wick in the state. -/
theorem raiseTrap_find (s : State) (w : Wick) (cx : Cx) (t : TrapInfo) {x : Wick} (hx : s.findWick w.info.uid = some x)
    (hs : w.info.stage = .resident) :
    ∃ w', (raiseTrap s w cx t).findWick w.info.uid = some w' ∧ (w'.info.stage = .resident ∨ w'.info.stage = .halted) := by
  unfold raiseTrap
  split
  · have e : ∀ a : Option Access, (Wick.feedTrap { w with access := a }).info = w.info := fun a => Wick.feedTrap_info _
    have g := State.findWick_putWick s (Wick.feedTrap { w with access := w.access.map (fun a => { a with live := false, trap := some (t.cause, cx.pc) }) })
      (x := x) (by rw [e]; exact hx)
    rw [e] at g
    exact ⟨_, g, .inl (by rw [e]; exact hs)⟩
  · split
    · exact ⟨_, State.findWick_putWick s (w.holdTrap cx t) hx, .inl hs⟩
    · exact takeTrap_find s w cx.f cx.pc t hx hs

/-- The step of a ready instruction that traps raises the trap. -/
theorem wickStep_takes {i : Instr} {s : State} {w : Wick} {f : Nat} (h : Ready i s w f) (body : State → Wick → Cx → Eff) {t : TrapInfo}
    (hb : body s w (w.cx f i) = .trap t) :
    wickStep i s body = .next (raiseTrap s w (w.cx f i) t) := by
  rw [wickStep_trap h body hb]
  obtain ⟨w', hf, hs⟩ := raiseTrap_find s w (w.cx f i) t h.found h.live
  exact congrArg _ (sweepExit_stays hf (by rcases hs with e | e <;> rw [e] <;> simp))

end Sys2Proof.Machine
end

