-- ==== Sys2Proof/Laws/Vector.lean ====
section
/-! SUPPORT. What writing a vector result does, once for every lane-wise form. -/

namespace Sys2Proof.Machine

open Sys2Proof

/-- A vector register a form can write: a port has none (02 R60). -/
def writable (n : Nat) : Prop := n < 248 ∨ (252 ≤ n ∧ n < 256)

/-- The results written, all of them. -/
def Wick.wrRes (w : Wick) (cx : Cx) (rs : List (Nat × VReg)) : Wick := rs.foldl (fun w (n, r) => w.wrV cx.live cx.act n r) w

/-- The results are written, or a narrow destination meets a shape fault (02 R55). -/
theorem writeVec_cases (s : State) (w : Wick) (cx : Cx) (rs : List (Nat × VReg)) :
    writeVec s w cx rs = .next (s.putWick (w.wrRes cx rs))
      ∨ (writeVec s w cx rs = .trap { cause := 0x07 } ∧ cx.act ≠ 0 ∧ ∃ x ∈ rs, narrow x.1 = true) := by
  cases h : rs.any (fun (n, r) => shapeBad cx.live cx.act n r)
  · exact .inl (by simp [writeVec, h, Wick.wrRes])
  · refine .inr ⟨by simp [writeVec, h], ?_⟩
    obtain ⟨x, hx, hb⟩ := List.any_eq_true.mp h
    simp [shapeBad] at hb
    exact ⟨hb.1.2, x, hx, hb.1.1⟩

theorem vresult_mem {t : Ty} {d : Nat} {uni : Bool} {x : Nat → Nat} {y : Nat × VReg} (hy : y ∈ vresult t d uni x) :
    y.1 = d ∨ (t.is64 = true ∧ y.1 = d + 1) := by
  cases ht : t.is64 <;> simp [vresult, ht] at hy
  · exact .inl (by rw [hy])
  · rcases hy with rfl | rfl
    · exact .inl rfl
    · exact .inr ⟨rfl, rfl⟩

/-- A pair stands in one file (02 R57). -/
theorem writable_succ {d : Nat} (h : writable d) (he : d % 2 = 0) : writable (d + 1) := by unfold writable at *; omega

theorem narrow_succ {d : Nat} (he : d % 2 = 0) : narrow (d + 1) = narrow d := by
  unfold narrow
  rw [decide_eq_decide.mpr (show 128 ≤ d + 1 ↔ 128 ≤ d by omega), decide_eq_decide.mpr (show d + 1 < 248 ↔ d < 248 by omega)]

theorem Wick.putV_vecOnly (w : Wick) {n : Nat} (r : VReg) (h : writable n) : VecOnly w (w.putV n r) := by
  unfold Wick.putV
  split
  · exact ⟨_, w.trap.v, rfl⟩
  · split
    · unfold writable at h; omega
    · exact ⟨w.regs.v, _, rfl⟩

theorem VecOnly.trans {a b c : Wick} (h : VecOnly a b) (g : VecOnly b c) : VecOnly a c := by
  obtain ⟨v, tv, rfl⟩ := h
  obtain ⟨v', tv', rfl⟩ := g
  exact ⟨v', tv', rfl⟩

/-- Writing results changes vector registers alone. -/
theorem Wick.wrRes_vecOnly (cx : Cx) : ∀ (rs : List (Nat × VReg)) (w : Wick), (∀ x ∈ rs, writable x.1) → VecOnly w (w.wrRes cx rs)
  | [], w, _ => ⟨w.regs.v, w.trap.v, rfl⟩
  | (n, r) :: rs, w, h => by
    have g := Wick.wrRes_vecOnly cx rs (w.wrV cx.live cx.act n r) (fun x hx => h x (by simp [hx]))
    exact (Wick.putV_vecOnly w _ (h (n, r) (by simp))).trans g

theorem Wick.rdV_wrV (w : Wick) (live act : Mask) {n : Nat} (r : VReg) (h : writable n) :
    (w.wrV live act n r).rdV n = VReg.merge live act (w.rdV n) r := Wick.rdV_putV w _ h

theorem Wick.rdV_wrV_other (w : Wick) (live act : Mask) {n m : Nat} (r : VReg) (h : m ≠ n) : (w.wrV live act n r).rdV m = w.rdV m :=
  Wick.rdV_putV_other w _ h

/-! ### The lanes of a result -/

/-- Lane l of the low or the high part of a result. -/
def resPart (uni : Bool) (x : Nat → Nat) (sh : Nat) : VReg :=
  if uni then .u (BitVec.ofNat 32 (x 0 >>> sh)) else VReg.ofLanes (fun i => BitVec.ofNat 32 (x i >>> sh))

theorem vresult_eq (t : Ty) (d : Nat) (uni : Bool) (x : Nat → Nat) :
    vresult t d uni x = if t.is64 then [(d, resPart uni x 0), (d + 1, resPart uni x 32)] else [(d, resPart uni x 0)] := rfl

theorem resPart_lane (uni : Bool) (x : Nat → Nat) (sh : Nat) {l : Nat} (hl : l < 32) :
    (resPart uni x sh).lane l = BitVec.ofNat 32 ((if uni then x 0 else x l) >>> sh) := by
  unfold resPart
  cases uni
  · simp [hl]
  · simp [VReg.lane]

theorem Ty.ow_of_is64 {t : Ty} (h : t.is64 = true) : t.ow = 64 := by cases t <;> simp [Ty.is64] at h <;> rfl
theorem Ty.ow_of_not64 {t : Ty} (h : t.is64 = false) : t.ow = 32 := by cases t <;> simp [Ty.is64] at h <;> rfl

theorem nat_halves (x : Nat) : x % 2 ^ 32 + 2 ^ 32 * (x / 2 ^ 32 % 2 ^ 32) = x % 2 ^ 64 := by omega

/-- An active lane of the destination holds the result (02 R54, R57). -/
theorem rdLane_wrRes (w : Wick) (cx : Cx) (t : Ty) {d : Nat} (uni : Bool) (x : Nat → Nat) {l : Nat} (h : writable d) (he : t.is64 = true → d % 2 = 0)
    (hl : l < 32) (ha : cx.act.getLsbD l = true) :
    rdLane (w.wrRes cx (vresult t d uni x)) t d l = (if uni then x 0 else x l) % 2 ^ t.ow := by
  cases ht : t.is64
  · rw [vresult_eq, ht, Ty.ow_of_not64 ht]
    simp only [rdLane, ht, Wick.wrRes, List.foldl_cons, List.foldl_nil, Bool.false_eq_true, if_false]
    rw [Wick.rdV_wrV _ _ _ _ h, VReg.lane_merge _ _ _ _ hl ha, resPart_lane _ _ _ hl]
    simp
  · have hd := he ht
    have h1 := writable_succ h hd
    have hne : d ≠ d + 1 := by omega
    rw [vresult_eq, ht, Ty.ow_of_is64 ht]
    simp only [rdLane, ht, Wick.wrRes, List.foldl_cons, List.foldl_nil, if_true]
    rw [Wick.rdV_wrV_other _ _ _ _ hne, Wick.rdV_wrV _ _ _ _ h, Wick.rdV_wrV _ _ _ _ h1, VReg.lane_merge _ _ _ _ hl ha,
      VReg.lane_merge _ _ _ _ hl ha, resPart_lane _ _ _ hl, resPart_lane _ _ _ hl, ← nat_halves]
    simp [Nat.shiftRight_eq_div_pow]

/-- A live lane that is not active keeps what it held (02 R54). -/
theorem rdLane_wrRes_off (w : Wick) (cx : Cx) (t : Ty) {d : Nat} (uni : Bool) (x : Nat → Nat) {l : Nat} (h : writable d)
    (he : t.is64 = true → d % 2 = 0) (hl : l < 32) (hv : cx.live.getLsbD l = true) (ha : cx.act.getLsbD l = false) :
    rdLane (w.wrRes cx (vresult t d uni x)) t d l = rdLane w t d l := by
  cases ht : t.is64
  · rw [vresult_eq, ht]
    simp only [rdLane, ht, Wick.wrRes, List.foldl_cons, List.foldl_nil, Bool.false_eq_true, if_false]
    rw [Wick.rdV_wrV _ _ _ _ h, VReg.lane_merge_off _ _ _ _ hl ha hv]
  · have hd := he ht
    have h1 := writable_succ h hd
    have hne : d ≠ d + 1 := by omega
    have hne' : d + 1 ≠ d := by omega
    rw [vresult_eq, ht]
    simp only [rdLane, ht, Wick.wrRes, List.foldl_cons, List.foldl_nil, if_true]
    rw [Wick.rdV_wrV_other _ _ _ _ hne, Wick.rdV_wrV _ _ _ _ h, Wick.rdV_wrV _ _ _ _ h1, VReg.lane_merge_off _ _ _ _ hl ha hv,
      VReg.lane_merge_off _ _ _ _ hl ha hv, Wick.rdV_wrV_other _ _ _ _ hne']

/-- Registers the result does not name are as they were. -/
theorem rdV_wrRes_other (w : Wick) (cx : Cx) (t : Ty) {d n : Nat} (uni : Bool) (x : Nat → Nat) (hn : n ≠ d) (h2 : t.is64 = true → n ≠ d + 1) :
    (w.wrRes cx (vresult t d uni x)).rdV n = w.rdV n := by
  cases ht : t.is64
  · rw [vresult_eq, ht]
    simp only [Wick.wrRes, List.foldl_cons, List.foldl_nil, Bool.false_eq_true, if_false]
    rw [Wick.rdV_wrV_other _ _ _ _ hn]
  · rw [vresult_eq, ht]
    simp only [Wick.wrRes, List.foldl_cons, List.foldl_nil, if_true]
    rw [Wick.rdV_wrV_other _ _ _ _ (h2 ht), Wick.rdV_wrV_other _ _ _ _ hn]

/-- A form whose outcome is the writing of such a result is lane-wise. -/
theorem laneWise_of_writeVec {i : Instr} {o : OpV} {t : Ty} {value : Wick → Cx → Nat → Nat} (body : State → Wick → Cx → Eff)
    (hx : ∀ s, exec i s = wickStep i s body) (uni : Wick → Cx → Bool) (x : Wick → Cx → Nat → Nat)
    (hb : ∀ s w cx, body s w cx = writeVec s w cx (vresult t o.d.toNat (uni w cx) (x w cx)))
    (he : ∀ s w f, Ready i s w f → writable o.d.toNat ∧ (t.is64 = true → o.d.toNat % 2 = 0))
    (hv : ∀ w cx l, l < 32 → cx.act.getLsbD l = true → (if uni w cx then x w cx 0 else x w cx l) % 2 ^ t.ow = value w cx l % 2 ^ t.ow) :
    LaneWise VecOnly i o t value := by
  intro s w f h
  obtain ⟨hd, h64⟩ := he s w f h
  have hbd := hb s w (w.cx f i)
  rcases writeVec_cases s w (w.cx f i) (vresult t o.d.toNat (uni w (w.cx f i)) (x w (w.cx f i))) with hw | ⟨hw, ha, y, hy, hn⟩
  · right
    rw [hw] at hbd
    have hvo := Wick.wrRes_vecOnly (w.cx f i) (vresult t o.d.toNat (uni w (w.cx f i)) (x w (w.cx f i))) w (fun y hy => by
      rcases vresult_mem hy with e | ⟨e, e1⟩
      · rw [e]; exact hd
      · rw [e1]; exact writable_succ hd (h64 e))
    refine ⟨w.wrRes (w.cx f i) (vresult t o.d.toNat (uni w (w.cx f i)) (x w (w.cx f i))), ?_, hvo, ?_, ?_, ?_⟩
    · rw [hx, wickStep_done h body hbd]
      obtain ⟨v, tv, hv⟩ := hvo
      rw [hv]
    · intro l hl ha
      rw [rdLane_wrRes _ _ _ _ _ hd h64 hl ha, hv _ _ _ hl ha]
    · intro l hl hlv ha
      exact rdLane_wrRes_off _ _ _ _ _ hd h64 hl hlv ha
    · intro n hn h2
      exact rdV_wrRes_other _ _ _ _ _ hn h2
  · left
    refine ⟨?_, ha, ?_⟩
    · rcases vresult_mem hy with e | ⟨e, e1⟩
      · rw [← e]; exact hn
      · rw [← narrow_succ (h64 e), ← e1]; exact hn
    · rw [hx]; exact wickStep_takes h body (hbd.trans hw)

end Sys2Proof.Machine
end

