-- ==== Sys2Proof/Tests/Slice0.lean ====
section
/-! SUPPORT. Tests of this model: ill-formed instructions that the checks refuse, words of every constructor written out from the
encoding tables, single steps with values from the spec, and for every statement concrete states that meet its hypotheses. -/

namespace Sys2Proof.Tests

set_option Elab.async false

open Sys2Proof Sys2Proof.Machine

/-! ### The states of the tests -/

/-- A context whose first 512 KiB are mapped, with a line at address 0 that only its slot 0 may be entered at. -/
def base : State := { placeCtx State.reset with mem := placeImage [] (oneSlotLine 0x000780000000000000000000) }

/-- The same with n bytes of value v at virtual address a. -/
def memAt (s : State) (a n v : Nat) : State := { s with mem := s.mem.write (keyLocal (0x200000 + a)) n v }

/-- A wick of 32 lanes at address 0, and the same in single-lane mode. -/
def wk : Wick := placedWick 1 false
def wkSl : Wick := placedWick 1 true

/-- A wick in a state, about to issue from fragment f. -/
def onF (s : State) (w : Wick) (f : Nat) : State := { s with wicks := [w], cur := .wick w.info.uid f }
def on (s : State) (w : Wick) : State := onF s w 0

/-- A wick with a scalar register set, with a lane predicate, and with what its operand queue n holds. -/
def sReg (w : Wick) (n : Nat) (x : Word) : Wick := w.wrS 0 n x
def pReg (w : Wick) (n : Nat) (x : Mask) : Wick := w.wrP n fullMask x
def qpSet (w : Wick) (n : Nat) (l : List QEntry) : Wick := { w with books := { w.books with qp := w.books.qp.setIfInBounds n l } }

/-- The decidable parts of Ready. -/
def readyF (i : Instr) (w : Wick) (f : Nat) : Bool :=
  w.info.stage == .resident && i.legal && (!w.inAccess || i.inAccessSlice) && (!i.prv || w.trap.sl) && (!w.trap.sl || !i.notInSl)
    && !w.guardedOff f i && !w.waitsReply (w.actor f) i && !i.highResult
    && (match i with
      | .savev _ _ | .loadv _ _ => true
      | _ => (regCheck w i).isNone)
    && !w.waitsOnLog (w.actor f) i && (w.portCheck i).isNone
def readyB (i : Instr) (w : Wick) : Bool := readyF i w 0

theorem readyAt {i : Instr} {s : State} {w : Wick} {f : Nat} (h : readyF i w f = true) : Ready i (onF s w f) w f := by
  simp only [readyF, Bool.and_eq_true, Bool.or_eq_true, Bool.not_eq_true', beq_iff_eq, Option.isNone_iff_eq_none] at h
  obtain ⟨⟨⟨⟨⟨⟨⟨⟨⟨⟨h1, h2⟩, h3⟩, h4⟩, h5⟩, h6⟩, h7⟩, h8⟩, h9⟩, h10⟩, h11⟩ := h
  refine ⟨rfl, by simp [onF, State.findWick], h1, h2, fun e => ?_, fun e => ?_, fun e => ?_, h6, h7, h8, ?_, h10, h11⟩
  · rcases h3 with h | h <;> simp_all
  · rcases h4 with h | h <;> simp_all
  · rcases h5 with h | h <;> simp_all
  · clear h1 h2 h3 h4 h5 h6 h7 h8 h10 h11
    cases i <;> first | rfl | exact Option.isNone_iff_eq_none.mp h9

theorem ready {i : Instr} {s : State} {w : Wick} (h : readyB i w = true) : Ready i (on s w) w 0 := readyAt h

theorem readyAll {l : List Instr} {s : State} {w : Wick} (h : l.all (fun i => readyB i w) = true) : ∀ i ∈ l, Ready i (on s w) w 0 :=
  fun i hi => ready (List.all_eq_true.mp h i hi)

/-! ### Words of every constructor, put together from the field places of 05 R126 to R134 and 14 R312 -/

def wordsControl : List (Nat × Instr) := [
  (0x000780000000000000000000, .nop ⟨0, false, 15⟩ ⟨0, 0, 0, 0, 0, 0, 0, 0⟩),
  (0x0107800000000000FFFFFFF3, .bra ⟨0, false, 15⟩ ⟨0, 0, 0, 0, 0, 0, 536870910, 3⟩),
  (0x020780019000000000000008, .brq ⟨0, false, 15⟩ ⟨0, 0, 3, 1, 0, 0, 1, 0⟩),
  (0x03078002B000000000000024, .brp ⟨0, false, 15⟩ ⟨0, 0, 5, 3, 0, 0, 4, 4⟩),
  (0x04078E4850000000FFFFFFFA, .brs ⟨0, false, 15⟩ ⟨7, 9, 0, 5, 0, 0, 536870911, 2⟩),
  (0x0507D0000000000000000040, .call ⟨0, false, 15⟩ ⟨40, 0, 0, 0, 0, 0, 8, 0⟩),
  (0x0607D0300000000000000000, .calli ⟨0, false, 15⟩ ⟨40, 6, 0, 0, 0, 0, 0, 0⟩),
  (0x0707D0000000000000000000, .ret ⟨0, false, 15⟩ ⟨40, 0, 0, 0, 0, 0, 0, 0⟩),
  (0x0807860000000000FFFFFFF9, .loop ⟨0, false, 15⟩ ⟨3, 0, 0, 0, 0, 0, 536870911, 1⟩),
  (0x090780008000001800000013, .fork ⟨0, false, 15⟩ ⟨0, 0, 1, 0, 3, 0, 2, 3⟩),
  (0x0A0780000000000000000000, .join ⟨0, false, 15⟩ ⟨0, 0, 0, 0, 0, 0, 0, 0⟩),
  (0x0B0900000000000000000000, .exit ⟨0, true, 2⟩ ⟨0, 0, 0, 0, 0, 0, 0, 0⟩),
  (0x0C078A000000000000000000, .sleep ⟨0, false, 15⟩ ⟨5, 0, 0, 0, 0, 0, 0, 0⟩),
  (0x0D0780000000000000000000, .yield ⟨0, false, 15⟩ ⟨0, 0, 0, 0, 0, 0, 0, 0⟩),
  (0x0E0780000000000000000000, .bkpt ⟨0, false, 15⟩ ⟨0, 0, 0, 0, 0, 0, 0, 0⟩),
  (0x0F078C000000000000000000, .trapu ⟨0, false, 15⟩ ⟨6, 0, 0, 0, 0, 0, 0, 0⟩)]

def wordsScalar : List (Nat × Instr) := [
  (0x100780810180500000000000, .sadd ⟨0, false, 15⟩ ⟨1, 2, 3, 0, .i64, .rne, false, false, false, false, false, 0⟩),
  (0x110781010180500000000000, .ssub ⟨0, false, 15⟩ ⟨2, 2, 3, 0, .i64, .rne, false, false, false, false, false, 0⟩),
  (0x120781810180500000000000, .smul ⟨0, false, 15⟩ ⟨3, 2, 3, 0, .i64, .rne, false, false, false, false, false, 0⟩),
  (0x130782010180500000000000, .sdiv ⟨0, false, 15⟩ ⟨4, 2, 3, 0, .i64, .rne, false, false, false, false, false, 0⟩),
  (0x140782810180500000000000, .sand ⟨0, false, 15⟩ ⟨5, 2, 3, 0, .i64, .rne, false, false, false, false, false, 0⟩),
  (0x150783010180500000000000, .sor ⟨0, false, 15⟩ ⟨6, 2, 3, 0, .i64, .rne, false, false, false, false, false, 0⟩),
  (0x160783810180500000000000, .sxor ⟨0, false, 15⟩ ⟨7, 2, 3, 0, .i64, .rne, false, false, false, false, false, 0⟩),
  (0x170784010180500000000000, .sshl ⟨0, false, 15⟩ ⟨8, 2, 3, 0, .i64, .rne, false, false, false, false, false, 0⟩),
  (0x180784810180500000000000, .sshr ⟨0, false, 15⟩ ⟨9, 2, 3, 0, .i64, .rne, false, false, false, false, false, 0⟩),
  (0x190785010180500000000000, .smin ⟨0, false, 15⟩ ⟨10, 2, 3, 0, .i64, .rne, false, false, false, false, false, 0⟩),
  (0x1A0785810180500000000000, .smax ⟨0, false, 15⟩ ⟨11, 2, 3, 0, .i64, .rne, false, false, false, false, false, 0⟩),
  (0x1B2782010180500000000000, .scmp ⟨2, false, 15⟩ ⟨4, 2, 3, 0, .i64, .rne, false, false, false, false, false, 0⟩),
  (0x1C0780810182500000000000, .ssel ⟨0, false, 15⟩ ⟨1, 2, 3, 4, .i64, .rne, false, false, false, false, false, 0⟩),
  (0x1D0780810000500000000000, .smov ⟨0, false, 15⟩ ⟨1, 2, 0, 0, .i64, .rne, false, false, false, false, false, 0⟩),
  (0x1E1780810000500000000000, .sbit ⟨1, false, 15⟩ ⟨1, 2, 0, 0, .i64, .rne, false, false, false, false, false, 0⟩),
  (0x1F1780810182500000000000, .sbfx ⟨1, false, 15⟩ ⟨1, 2, 3, 4, .i64, .rne, false, false, false, false, false, 0⟩),
  (0x203780810182190000000000, .sfop ⟨3, false, 15⟩ ⟨1, 2, 3, 4, .f32, .rtz, false, false, false, false, false, 0⟩),
  (0x212780810180180000000000, .sfcmp ⟨2, false, 15⟩ ⟨1, 2, 3, 0, .f32, .rne, false, false, false, false, false, 0⟩),
  (0x220780810000180000000001, .scvt ⟨0, false, 15⟩ ⟨1, 2, 0, 0, .f32, .rne, false, false, false, false, false, 1⟩),
  (0x233780810180000000000000, .qop ⟨3, false, 15⟩ ⟨1, 2, 3, 0, .b32, .rne, false, false, false, false, false, 0⟩),
  (0x240783800000000801234567, .shi ⟨0, false, 15⟩ ⟨7, 0, 0, 0, .b32, .rne, false, false, false, false, true, 19088743⟩)]

def wordsPrivileged : List (Nat × Instr) := [
  (0x250780000000000000000000, .wickctlRelease ⟨0, false, 15⟩ ⟨0, 0, 0, 0⟩),
  (0x251780000000000000000000, .wickctlKill ⟨1, false, 15⟩ ⟨0, 0, 0, 0⟩),
  (0x252780000000000000000000, .wickctlPark ⟨2, false, 15⟩ ⟨0, 0, 0, 0⟩),
  (0x253780048000000000000000, .wickctlUnpark ⟨3, false, 15⟩ ⟨0, 9, 0, 0⟩),
  (0x260781800000000000000002, .replay ⟨0, false, 15⟩ ⟨3, 0, 0, 2⟩),
  (0x270780028000000000000000, .halt ⟨0, false, 15⟩ ⟨0, 5, 0, 0⟩),
  (0x280780000000000000000000, .eret ⟨0, false, 15⟩ ⟨0, 0, 0, 0⟩),
  (0x281780000000000000000000, .eretNext ⟨1, false, 15⟩ ⟨0, 0, 0, 0⟩),
  (0x282794148000000000000001, .eretReflect ⟨2, false, 15⟩ ⟨40, 41, 0, 1⟩),
  (0x290781800000000000000040, .mfpr ⟨0, false, 15⟩ ⟨3, 0, 0, 64⟩),
  (0x2A0780018000000000000041, .mtpr ⟨0, false, 15⟩ ⟨0, 3, 0, 65⟩),
  (0x2B079E861F00000000000000, .savev ⟨0, false, 15⟩ ⟨61, 12, 62, 0⟩),
  (0x2C07861E8000000000000000, .loadv ⟨0, false, 15⟩ ⟨12, 61, 0, 0⟩),
  (0x2D0780028000000000000000, .savekSave ⟨0, false, 15⟩ ⟨0, 5, 0, 0⟩),
  (0x2D1780028000000000000000, .savekLoad ⟨1, false, 15⟩ ⟨0, 5, 0, 0⟩),
  (0x2E0780810180000000000003, .quiesceWait ⟨0, false, 15⟩ ⟨1, 2, 3, 3⟩),
  (0x2E1780810180000000000000, .quiesceCancel ⟨1, false, 15⟩ ⟨1, 2, 3, 0⟩),
  (0x2F0780020280000000000003, .tlbinv ⟨0, false, 15⟩ ⟨0, 4, 5, 3⟩)]

def wordsVector : List (Nat × Instr) := [
  (0x300885028300080000000000, .vadd ⟨0, true, 1⟩ ⟨10, 5, 6, 0, .i32, .rne, false, false, false, false, false, 0⟩),
  (0x310885828300080000000000, .vsub ⟨0, true, 1⟩ ⟨11, 5, 6, 0, .i32, .rne, false, false, false, false, false, 0⟩),
  (0x320886028300080000000000, .vmul ⟨0, true, 1⟩ ⟨12, 5, 6, 0, .i32, .rne, false, false, false, false, false, 0⟩),
  (0x330780810182080000000000, .vmad ⟨0, false, 15⟩ ⟨1, 2, 3, 4, .i32, .rne, false, false, false, false, false, 0⟩),
  (0x34078A028300080000000000, .vand ⟨0, false, 15⟩ ⟨20, 5, 6, 0, .i32, .rne, false, false, false, false, false, 0⟩),
  (0x35078A828300080000000000, .vor ⟨0, false, 15⟩ ⟨21, 5, 6, 0, .i32, .rne, false, false, false, false, false, 0⟩),
  (0x36078B028300080000000000, .vxor ⟨0, false, 15⟩ ⟨22, 5, 6, 0, .i32, .rne, false, false, false, false, false, 0⟩),
  (0x37078B828300080000000000, .vshl ⟨0, false, 15⟩ ⟨23, 5, 6, 0, .i32, .rne, false, false, false, false, false, 0⟩),
  (0x38078C028300080000000000, .vshr ⟨0, false, 15⟩ ⟨24, 5, 6, 0, .i32, .rne, false, false, false, false, false, 0⟩),
  (0x39078C828300080000000000, .vmin ⟨0, false, 15⟩ ⟨25, 5, 6, 0, .i32, .rne, false, false, false, false, false, 0⟩),
  (0x3A078D028300080000000000, .vmax ⟨0, false, 15⟩ ⟨26, 5, 6, 0, .i32, .rne, false, false, false, false, false, 0⟩),
  (0x3B078D828300080000000000, .vabsd ⟨0, false, 15⟩ ⟨27, 5, 6, 0, .i32, .rne, false, false, false, false, false, 0⟩),
  (0x3C2781828300080000000000, .vcmp ⟨2, false, 15⟩ ⟨3, 5, 6, 0, .i32, .rne, false, false, false, false, false, 0⟩),
  (0x3D0780810182000000000000, .vsel ⟨0, false, 15⟩ ⟨1, 2, 3, 4, .b32, .rne, false, false, false, false, false, 0⟩),
  (0x3E07C1010000000000000000, .vmov ⟨0, false, 15⟩ ⟨130, 2, 0, 0, .b32, .rne, false, false, false, false, false, 0⟩),
  (0x3F0780810182080000000000, .vaddmin ⟨0, false, 15⟩ ⟨1, 2, 3, 4, .i32, .rne, false, false, false, false, false, 0⟩),
  (0x400780810182080000000000, .vaddmax ⟨0, false, 15⟩ ⟨1, 2, 3, 4, .i32, .rne, false, false, false, false, false, 0⟩),
  (0x413780810000100000000000, .vbit ⟨3, false, 15⟩ ⟨1, 2, 0, 0, .n32, .rne, false, false, false, false, false, 0⟩),
  (0x421780810182100000000000, .vbfx ⟨1, false, 15⟩ ⟨1, 2, 3, 4, .n32, .rne, false, false, false, false, false, 0⟩),
  (0x430780810182400000000000, .vdot ⟨0, false, 15⟩ ⟨1, 2, 3, 4, .i8x4, .rne, false, false, false, false, false, 0⟩),
  (0x440780810182080000000000, .vclamp ⟨0, false, 15⟩ ⟨1, 2, 3, 4, .i32, .rne, false, false, false, false, false, 0⟩)]

def wordsFloat : List (Nat × Instr) := [
  (0x5007848505801A8000000000, .fadd ⟨0, false, 15⟩ ⟨9, 10, 11, 0, .f32, .rup, true, false, false, false, false, 0⟩),
  (0x5107850505801A8000000000, .fsub ⟨0, false, 15⟩ ⟨10, 10, 11, 0, .f32, .rup, true, false, false, false, false, 0⟩),
  (0x5207858505801A8000000000, .fmul ⟨0, false, 15⟩ ⟨11, 10, 11, 0, .f32, .rup, true, false, false, false, false, 0⟩),
  (0x530780810182180000000000, .ffma ⟨0, false, 15⟩ ⟨1, 2, 3, 4, .f32, .rne, false, false, false, false, false, 0⟩),
  (0x540780810180180000000000, .fmin ⟨0, false, 15⟩ ⟨1, 2, 3, 0, .f32, .rne, false, false, false, false, false, 0⟩),
  (0x550780810180180000000000, .fmax ⟨0, false, 15⟩ ⟨1, 2, 3, 0, .f32, .rne, false, false, false, false, false, 0⟩),
  (0x564780810180180000000000, .fcmp ⟨4, false, 15⟩ ⟨1, 2, 3, 0, .f32, .rne, false, false, false, false, false, 0⟩),
  (0x570780810000180000000000, .fclass ⟨0, false, 15⟩ ⟨1, 2, 0, 0, .f32, .rne, false, false, false, false, false, 0⟩),
  (0x580780810000180000000000, .frcp ⟨0, false, 15⟩ ⟨1, 2, 0, 0, .f32, .rne, false, false, false, false, false, 0⟩),
  (0x590780810000180000000000, .frsq ⟨0, false, 15⟩ ⟨1, 2, 0, 0, .f32, .rne, false, false, false, false, false, 0⟩),
  (0x5A0780810000180000000000, .fsqrt ⟨0, false, 15⟩ ⟨1, 2, 0, 0, .f32, .rne, false, false, false, false, false, 0⟩),
  (0x5B0780810000180000000000, .fexp2 ⟨0, false, 15⟩ ⟨1, 2, 0, 0, .f32, .rne, false, false, false, false, false, 0⟩),
  (0x5C0780810000180000000000, .flog2 ⟨0, false, 15⟩ ⟨1, 2, 0, 0, .f32, .rne, false, false, false, false, false, 0⟩),
  (0x5D0781020000180000000000, .fsincos ⟨0, false, 15⟩ ⟨2, 4, 0, 0, .f32, .rne, false, false, false, false, false, 0⟩),
  (0x5E0780810180180000000000, .fdiv ⟨0, false, 15⟩ ⟨1, 2, 3, 0, .f32, .rne, false, false, false, false, false, 0⟩),
  (0x5F0780810182300000000000, .fdot2 ⟨0, false, 15⟩ ⟨1, 2, 3, 4, .f16x2, .rne, false, false, false, false, false, 0⟩),
  (0x600780810000180000000006, .fcvt ⟨0, false, 15⟩ ⟨1, 2, 0, 0, .f32, .rne, false, false, false, false, false, 6⟩),
  (0x610780810000080000000003, .icvt ⟨0, false, 15⟩ ⟨1, 2, 0, 0, .i32, .rne, false, false, false, false, false, 3⟩),
  (0x620780810001800000000010, .fpack ⟨0, false, 15⟩ ⟨1, 2, 0, 3, .b32, .rne, false, false, false, false, false, 16⟩),
  (0x630780810000000000000010, .funpack ⟨0, false, 15⟩ ⟨1, 2, 0, 0, .b32, .rne, false, false, false, false, false, 16⟩),
  (0x640780810180180000000000, .fscale ⟨0, false, 15⟩ ⟨1, 2, 3, 0, .f32, .rne, false, false, false, false, false, 0⟩)]

def wordsLanes : List (Nat × Instr) := [
  (0x700780810182000000000000, .lshf ⟨0, false, 15⟩ ⟨1, 2, 3, 4, .b32, .rne, false, false, false, false, false, 0⟩),
  (0x711780810000000800000005, .lrot ⟨1, false, 15⟩ ⟨1, 2, 0, 0, .b32, .rne, false, false, false, false, true, 5⟩),
  (0x720780810180000000000000, .lperm ⟨0, false, 15⟩ ⟨1, 2, 3, 0, .b32, .rne, false, false, false, false, false, 0⟩),
  (0x730780810180000000000000, .lbcast ⟨0, false, 15⟩ ⟨1, 2, 3, 0, .b32, .rne, false, false, false, false, false, 0⟩),
  (0x740780810000080000000000, .lred ⟨0, false, 15⟩ ⟨1, 2, 0, 0, .i32, .rne, false, false, false, false, false, 0⟩),
  (0x750780810000080000000000, .lscan ⟨0, false, 15⟩ ⟨1, 2, 0, 0, .i32, .rne, false, false, false, false, false, 0⟩),
  (0x760780810000000000000000, .lbal ⟨0, false, 15⟩ ⟨1, 2, 0, 0, .b32, .rne, false, false, false, false, false, 0⟩),
  (0x770780810182000000000000, .lpack ⟨0, false, 15⟩ ⟨1, 2, 3, 4, .b32, .rne, false, false, false, false, false, 0⟩),
  (0x780780810000000000000000, .lmatch ⟨0, false, 15⟩ ⟨1, 2, 0, 0, .b32, .rne, false, false, false, false, false, 0⟩),
  (0x790780810180000000000000, .plop ⟨0, false, 15⟩ ⟨1, 2, 3, 0, .b32, .rne, false, false, false, false, false, 0⟩),
  (0x7A1780810000000000000000, .pset ⟨1, false, 15⟩ ⟨1, 2, 0, 0, .b32, .rne, false, false, false, false, false, 0⟩),
  (0x7B0780810180000000000000, .aff ⟨0, false, 15⟩ ⟨1, 2, 3, 0, .b32, .rne, false, false, false, false, false, 0⟩),
  (0x7C0780810000000000000000, .vshape ⟨0, false, 15⟩ ⟨1, 2, 0, 0, .b32, .rne, false, false, false, false, false, 0⟩),
  (0x7D0780810000000000000000, .vcomp ⟨0, false, 15⟩ ⟨1, 2, 0, 0, .b32, .rne, false, false, false, false, false, 0⟩),
  (0x7E0780810000000000000000, .vexp ⟨0, false, 15⟩ ⟨1, 2, 0, 0, .b32, .rne, false, false, false, false, false, 0⟩),
  (0x7F0780800000000000000001, .mfs ⟨0, false, 15⟩ ⟨1, 0, 0, 0, .b32, .rne, false, false, false, false, false, 1⟩),
  (0x800780008000000000000001, .mts ⟨0, false, 15⟩ ⟨0, 1, 0, 0, .b32, .rne, false, false, false, false, false, 1⟩)]

def wordsMemory : List (Nat × Instr) := [
  (0x9007827F8BC20000FFFFFFF8, .ld ⟨0, false, 15⟩ ⟨4, 255, 5, 7, .glob, .b4, .plain, .relaxed, false, false, false, 0, 4294967288⟩),
  (0x910782048BC0000000000000, .st ⟨0, false, 15⟩ ⟨4, 9, 5, 7, .glob, .b1, .plain, .relaxed, false, false, false, 0, 0⟩),
  (0x9207827F8BC2000000000000, .ldaBcast ⟨0, false, 15⟩ ⟨4, 255, 5, 7, .glob, .b4, .plain, .relaxed, false, false, false, 0, 0⟩),
  (0x9217827F8BC3000000000000, .ldaSeq ⟨1, false, 15⟩ ⟨4, 255, 5, 7, .glob, .b8, .plain, .relaxed, false, false, false, 0, 0⟩),
  (0x9307827F8BC2000000000000, .sta ⟨0, false, 15⟩ ⟨4, 255, 5, 7, .glob, .b4, .plain, .relaxed, false, false, false, 0, 0⟩),
  (0x940782018BE2000000000000, .ldc ⟨0, false, 15⟩ ⟨4, 3, 5, 7, .cb, .b4, .plain, .relaxed, false, false, false, 0, 0⟩),
  (0x950782018BE2000000000000, .stc ⟨0, false, 15⟩ ⟨4, 3, 5, 7, .cb, .b4, .plain, .relaxed, false, false, false, 0, 0⟩),
  (0x9607827F8BC3000000000000, .lds ⟨0, false, 15⟩ ⟨4, 255, 5, 7, .glob, .b8, .plain, .relaxed, false, false, false, 0, 0⟩),
  (0x9707827F8BC3000000000000, .sts ⟨0, false, 15⟩ ⟨4, 255, 5, 7, .glob, .b8, .plain, .relaxed, false, false, false, 0, 0⟩),
  (0x9807827F8BC2400100000000, .atom ⟨0, false, 15⟩ ⟨4, 255, 5, 7, .glob, .b4, .cluster, .relaxed, false, false, false, 1, 0⟩),
  (0x9907827F8DC2400100000000, .satom ⟨0, false, 15⟩ ⟨4, 255, 6, 7, .glob, .b4, .cluster, .relaxed, false, false, false, 1, 0⟩),
  (0x9A07827F8BC2400000000000, .cas ⟨0, false, 15⟩ ⟨4, 255, 5, 7, .glob, .b4, .cluster, .relaxed, false, false, false, 0, 0⟩),
  (0x9B07807F81C0780000000000, .fence ⟨0, false, 15⟩ ⟨0, 255, 0, 7, .glob, .b1, .device, .acqRel, false, false, false, 0, 0⟩),
  (0x9C07837F8BC0200000000000, .icinv ⟨0, false, 15⟩ ⟨6, 255, 5, 7, .glob, .b1, .core, .relaxed, false, false, false, 0, 0⟩),
  (0x9D27807F8BC0000000000000, .cache ⟨2, false, 15⟩ ⟨0, 255, 5, 7, .glob, .b1, .plain, .relaxed, false, false, false, 0, 0⟩),
  (0x9E07807F8A80000000000000, .txl ⟨0, false, 15⟩ ⟨0, 255, 5, 2, .glob, .b1, .plain, .relaxed, false, false, false, 0, 0⟩),
  (0x9F07807F8080000000000000, .txi ⟨0, false, 15⟩ ⟨0, 255, 0, 2, .glob, .b1, .plain, .relaxed, false, false, false, 0, 0⟩),
  (0xA017827F8BC2400000000000, .waitm ⟨1, false, 15⟩ ⟨4, 255, 5, 7, .glob, .b4, .cluster, .relaxed, false, false, false, 0, 0⟩),
  (0xA10781FF8BC2000000000000, .ldq ⟨0, false, 15⟩ ⟨3, 255, 5, 7, .glob, .b4, .plain, .relaxed, false, false, false, 0, 0⟩)]

def wordsCopies : List (Nat × Instr) := [
  (0xB00780810180003000000000, .cpy ⟨0, false, 15⟩ ⟨1, 2, 3, 0, 48, 0⟩),
  (0xB10780810182000200000000, .cpyg ⟨0, false, 15⟩ ⟨1, 2, 3, 4, 2, 0⟩),
  (0xB20780810182000200000000, .cpys ⟨0, false, 15⟩ ⟨1, 2, 3, 4, 2, 0⟩),
  (0xB30780810182000200000000, .cpym ⟨0, false, 15⟩ ⟨1, 2, 3, 4, 2, 0⟩),
  (0xB40103800000000000000000, .seal ⟨0, false, 2⟩ ⟨7, 0, 0, 0, 0, 0⟩),
  (0xB50780038000000000000000, .waitb ⟨0, false, 15⟩ ⟨0, 7, 0, 0, 0, 0⟩),
  (0xB60780038000000000000000, .binit ⟨0, false, 15⟩ ⟨0, 7, 0, 0, 0, 0⟩),
  (0xB70780000000000000000000, .barv ⟨0, false, 15⟩ ⟨0, 0, 0, 0, 0, 0⟩),
  (0xB80780000000000000000000, .bwait ⟨0, false, 15⟩ ⟨0, 0, 0, 0, 0, 0⟩),
  (0xB90781800000000000000000, .btest ⟨0, false, 15⟩ ⟨3, 0, 0, 0, 0, 0⟩),
  (0xBA0780038000000000000000, .waitwp ⟨0, false, 15⟩ ⟨0, 7, 0, 0, 0, 0⟩),
  (0xBB0780000000000000000000, .chrst ⟨0, false, 15⟩ ⟨0, 0, 0, 0, 0, 0⟩),
  (0xBC0780810000000000000000, .qsub ⟨0, false, 15⟩ ⟨1, 2, 0, 0, 0, 0⟩),
  (0xBD0780810000000000000000, .qwait ⟨0, false, 15⟩ ⟨1, 2, 0, 0, 0, 0⟩),
  (0xBE0780810000000000000000, .cpyst ⟨0, false, 15⟩ ⟨1, 2, 0, 0, 0, 0⟩)]

def wordsMatrix : List (Nat × Instr) := [
  (0xC00780810182000000000000, .mma ⟨0, false, 15⟩ ⟨1, 2, 3, 4, 0, 0⟩),
  (0xC10780810182000000000000, .mmas ⟨0, false, 15⟩ ⟨1, 2, 3, 4, 0, 0⟩),
  (0xC20780810182000000000000, .mmac ⟨0, false, 15⟩ ⟨1, 2, 3, 4, 0, 0⟩),
  (0xC30780800000000000000000, .mzero ⟨0, false, 15⟩ ⟨1, 0, 0, 0, 0, 0⟩),
  (0xC31780800000000000000000, .mzeroLat ⟨1, false, 15⟩ ⟨1, 0, 0, 0, 0, 0⟩),
  (0xC40780810001800000000000, .mdrain ⟨0, false, 15⟩ ⟨1, 2, 0, 3, 0, 0⟩),
  (0xC50780800101800000000000, .mldw ⟨0, false, 15⟩ ⟨1, 0, 2, 3, 0, 0⟩),
  (0xC60780030000000000000000, .mwait ⟨0, false, 15⟩ ⟨0, 6, 0, 0, 0, 0⟩),
  (0xC70780810000000000000000, .mstat ⟨0, false, 15⟩ ⟨1, 2, 0, 0, 0, 0⟩)]

def wordsEntities : List (Nat × Instr) := [
  (0xD00784060000000000000000, .ecrt ⟨0, false, 15⟩ ⟨8, 12, 0, 0, 0, 0⟩),
  (0xD10784060000000000000000, .edel ⟨0, false, 15⟩ ⟨8, 12, 0, 0, 0, 0⟩),
  (0xD20784060280000000000000, .eadd ⟨0, false, 15⟩ ⟨8, 12, 5, 0, 0, 0⟩),
  (0xD30784060280000000000000, .erem ⟨0, false, 15⟩ ⟨8, 12, 5, 0, 0, 0⟩),
  (0xD40784060281800000000000, .hres ⟨0, false, 15⟩ ⟨8, 12, 5, 3, 0, 0⟩),
  (0xD50780810180000000000000, .ecol ⟨0, false, 15⟩ ⟨1, 2, 3, 0, 0, 0⟩),
  (0xD60780810000000000000000, .eqry ⟨0, false, 15⟩ ⟨1, 2, 0, 0, 0, 0⟩),
  (0xD70784060000000000000000, .estat ⟨0, false, 15⟩ ⟨8, 12, 0, 0, 0, 0⟩),
  (0xD80780810000000000000000, .ecnt ⟨0, false, 15⟩ ⟨1, 2, 0, 0, 0, 0⟩)]

def wordsClosures : List (Nat × Instr) := [
  (0xE00781820283000000000000, .capt ⟨0, false, 15⟩ ⟨3, 4, 5, 6, 0, 0⟩),
  (0xE10784820000000000000000, .apply ⟨0, false, 15⟩ ⟨9, 4, 0, 0, 0, 0⟩),
  (0xE11780020000000000000000, .applyV ⟨1, false, 15⟩ ⟨0, 4, 0, 0, 0, 0⟩),
  (0xE20781820000000000000000, .kdup ⟨0, false, 15⟩ ⟨3, 4, 0, 0, 0, 0⟩),
  (0xE30780020000000000000000, .krel ⟨0, false, 15⟩ ⟨0, 4, 0, 0, 0, 0⟩),
  (0xE40781800000000000000002, .kld ⟨0, false, 15⟩ ⟨3, 0, 0, 0, 0, 2⟩),
  (0xE51781820000000000000000, .kmov ⟨1, false, 15⟩ ⟨3, 4, 0, 0, 0, 0⟩),
  (0xE60781800000000000000000, .kref ⟨0, false, 15⟩ ⟨3, 0, 0, 0, 0, 0⟩),
  (0xE70780810182000000000000, .uisend ⟨0, false, 15⟩ ⟨1, 2, 3, 4, 0, 0⟩),
  (0xE81780810000000000000000, .uimask ⟨1, false, 15⟩ ⟨1, 2, 0, 0, 0, 0⟩),
  (0xE83780800000000000000000, .uimaskClaim ⟨3, false, 15⟩ ⟨1, 0, 0, 0, 0, 0⟩),
  (0xE90780800100000000000000, .uipendTake ⟨0, false, 15⟩ ⟨1, 0, 2, 0, 0, 0⟩),
  (0xE91780800000000000000000, .uipendPeek ⟨1, false, 15⟩ ⟨1, 0, 0, 0, 0, 0⟩),
  (0xEA0780000000000000000000, .uiret ⟨0, false, 15⟩ ⟨0, 0, 0, 0, 0, 0⟩),
  (0xEB0780000000000000000000, .uiwait ⟨0, false, 15⟩ ⟨0, 0, 0, 0, 0, 0⟩),
  (0xEC0780800180000100000009, .svc ⟨0, false, 15⟩ ⟨1, 0, 3, 0, 1, 9⟩),
  (0xED0780000000000000000000, .svcw ⟨0, false, 15⟩ ⟨0, 0, 0, 0, 0, 0⟩),
  (0xEE0780040180000000000000, .emit ⟨0, false, 15⟩ ⟨0, 8, 3, 0, 0, 0⟩),
  (0xEF0780000000000000000000, .nodefin ⟨0, false, 15⟩ ⟨0, 0, 0, 0, 0, 0⟩)]

def wordsRendering : List (Nat × Instr) := [
  (0xF00780840000000200000000, .bin ⟨0, false, 15⟩ ⟨1, 8, 0, 0, 2, 0⟩),
  (0xF107840A0001800000000000, .rast ⟨0, false, 15⟩ ⟨8, 20, 0, 3, 0, 0⟩),
  (0xF20781840480000000000000, .ztest ⟨0, false, 15⟩ ⟨3, 8, 9, 0, 0, 0⟩),
  (0xF30780040480000000000000, .rtw ⟨0, false, 15⟩ ⟨0, 8, 9, 0, 0, 0⟩),
  (0xF40782000000000100000000, .tilef ⟨0, false, 15⟩ ⟨4, 0, 0, 0, 1, 0⟩),
  (0xF50780060280000000008001, .tex ⟨0, false, 15⟩ ⟨0, 12, 5, 0, 0, 32769⟩),
  (0xF60780060283000000000003, .trace ⟨0, false, 15⟩ ⟨0, 12, 5, 6, 0, 3⟩),
  (0xF70780040000000000000000, .cont ⟨0, false, 15⟩ ⟨0, 8, 0, 0, 0, 0⟩),
  (0xF80780810180000000000000, .rsusp ⟨0, false, 15⟩ ⟨1, 2, 3, 0, 0, 0⟩),
  (0xF90780040000000000000000, .rres ⟨0, false, 15⟩ ⟨0, 8, 0, 0, 0, 0⟩),
  (0xFA0780008100000000000000, .lntp ⟨0, false, 15⟩ ⟨0, 1, 2, 0, 0, 0⟩)]

def wordsMicro : List (Nat × Instr) := [
  (0x00000000, .mNode),
  (0x08000000, .mBoxn),
  (0x10000000, .mOrder),
  (0x18000000, .mPushc),
  (0x20000000, .mPop),
  (0x28000000, .mLeaf),
  (0x30000000, .mPrim),
  (0x38000000, .mHit),
  (0x40000000, .mCallk),
  (0x48000000, .mAccept),
  (0x50000000, .mIgnore),
  (0x58000002, .mSett 2),
  (0x6000003F, .mJmp 63),
  (0x68001309, .mJif true 3 9),
  (0x700000C8, .mCnt 0 200),
  (0x78000000, .mTerm),
  (0x80000000, .mDone)]

/-- A word decodes to the instruction beside it. -/
def reads (x : Nat × Instr) : Bool := decide ((decode (BitVec.ofNat 96 x.1)).toOption = some x.2)

theorem test_decode_control : wordsControl.all reads = true := by decide +kernel
theorem test_decode_scalar : wordsScalar.all reads = true := by decide +kernel
theorem test_decode_privileged : wordsPrivileged.all reads = true := by decide +kernel
theorem test_decode_vector : wordsVector.all reads = true := by decide +kernel
theorem test_decode_float : wordsFloat.all reads = true := by decide +kernel
theorem test_decode_lanes : wordsLanes.all reads = true := by decide +kernel
theorem test_decode_memory : wordsMemory.all reads = true := by decide +kernel
theorem test_decode_copies : wordsCopies.all reads = true := by decide +kernel
theorem test_decode_matrix : wordsMatrix.all reads = true := by decide +kernel
theorem test_decode_entities : wordsEntities.all reads = true := by decide +kernel
theorem test_decode_closures : wordsClosures.all reads = true := by decide +kernel
theorem test_decode_rendering : wordsRendering.all reads = true := by decide +kernel
theorem test_decode_micro : wordsMicro.all (fun x => decide ((decodeMicro (BitVec.ofNat 32 x.1)).toOption = some x.2)) = true := by decide +kernel

/-- The words the spec itself writes out: 05 (the line of the example: SADD, VADD, BRA and the canonical NOP), 06 FORK to the bit, 07 and 18 (CPY),
09 (MMA), 10 (MMAS), 11 (HRES), 12 (EREM), 13 (CAPT), 15 (TRACE, RRES) and 16 (SAVEV). -/
def wordsOfSpec : List (Nat × Instr) := [
  (0x100782828000500800000001, .sadd ⟨0, false, 15⟩ ⟨5, 5, 0, 0, .i64, .rne, false, false, false, false, true, 1⟩),
  (0x3007C1440000080800000004, .vadd ⟨0, false, 15⟩ ⟨130, 136, 0, 0, .i32, .rne, false, false, false, false, true, 4⟩),
  (0x0107800000000000FFFFFFF8, .bra ⟨0, false, 15⟩ ⟨0, 0, 0, 0, 0, 0, 0x1FFFFFFF, 0⟩),
  (0x000780000000000000000000, .nop ⟨0, false, 15⟩ ⟨0, 0, 0, 0, 0, 0, 0, 0⟩),
  (0x090780008000001800000013, .fork ⟨0, false, 15⟩ ⟨0, 0, 1, 0, 3, 0, 2, 3⟩),
  (0xB0078A008100007100000000, .cpy ⟨0, false, 15⟩ ⟨20, 1, 2, 0, 0x71, 0⟩),
  (0xB007940B0A80001100000000, .cpy ⟨0, false, 15⟩ ⟨40, 22, 21, 0, 0x11, 0⟩),
  (0xC0278A0404850012008D8C05, .mma ⟨2, false, 15⟩ ⟨20, 8, 9, 10, 0x12, 0x008D8C05⟩),
  (0xC12799041D1B000100000000, .mmas ⟨2, false, 15⟩ ⟨50, 8, 58, 54, 1, 0⟩),
  (0xD4078A044601800000000000, .hres ⟨0, false, 15⟩ ⟨20, 8, 140, 3, 0, 0⟩),
  (0xD30187044780000000000000, .erem ⟨0, false, 3⟩ ⟨14, 8, 143, 0, 0, 0⟩),
  (0xE00781460A01090200000011, .capt ⟨0, false, 15⟩ ⟨2, 140, 20, 2, 0x902, 0x11⟩),
  (0xF60780000A010031000000FF, .trace ⟨0, false, 15⟩ ⟨0, 0, 20, 2, 0x31, 0xFF⟩),
  (0xF90200060000000000000000, .rres ⟨0, false, 4⟩ ⟨0, 12, 0, 0, 0, 0⟩),
  (0x2B079E861F00000000000000, .savev ⟨0, false, 15⟩ ⟨61, 12, 62, 0⟩)]

theorem test_decode_words_of_spec : wordsOfSpec.all reads = true := by decide +kernel

/-- 05: the line word of the example is 0x0000_8621, and the line is legal. -/
theorem test_line_of_spec : lineIllegal (0x100782828000500800000001 + 0x3007C1440000080800000004 * 2 ^ 96 + 0x0107800000000000FFFFFFF8 * 2 ^ 192
    + 0x000780000000000000000000 * 2 ^ 288 + 0x000780000000000000000000 * 2 ^ 384 + 0x8621 * 2 ^ 480) = false := by decide +kernel

/-! ### WellFormed: for each check an ill-formed instruction that it refuses -/

def plainV (d a b c : BitVec 8) (t : Ty) : OpV := ⟨d, a, b, c, t, .rne, false, false, false, false, false, 0⟩

theorem test_wf_accepts : (Instr.sadd ⟨0, false, 15⟩ (plainV 1 2 3 0 .i64)).wf := by decide +kernel
/-- GP 15 with GN 1 (05 R126), and a guard on a privileged form (05 R132). -/
theorem test_wf_guard : ¬ (Instr.nop ⟨0, true, 15⟩ ⟨0, 0, 0, 0, 0, 0, 0, 0⟩).wf ∧ ¬ (Instr.halt ⟨0, false, 3⟩ ⟨0, 5, 0, 0⟩).wf := by decide +kernel
/-- A SUB no row gives (05 R135). -/
theorem test_wf_sub : ¬ (Instr.sadd ⟨1, false, 15⟩ (plainV 1 2 3 0 .i64)).wf ∧ ¬ (Instr.seal ⟨1, false, 15⟩ ⟨7, 0, 0, 0, 0, 0⟩).wf
    ∧ ¬ (Instr.fence ⟨1, false, 15⟩ ⟨0, 255, 0, 7, .glob, .b1, .device, .acqRel, false, false, false, 0, 0⟩).wf := by decide +kernel
/-- TY, RM, SAT and MOD outside the row (05 R128, 06 R152). -/
theorem test_wf_type : ¬ (Instr.sadd ⟨0, false, 15⟩ (plainV 1 2 3 0 .f32)).wf
    ∧ ¬ (Instr.sadd ⟨0, false, 15⟩ { plainV 1 2 3 0 .i64 with rm := .rtz }).wf
    ∧ ¬ (Instr.sand ⟨0, false, 15⟩ { plainV 1 2 3 0 .i64 with sat := true }).wf
    ∧ ¬ (Instr.sand ⟨0, false, 15⟩ { plainV 1 2 3 0 .i64 with nega := true }).wf
    ∧ ¬ (Instr.sand ⟨0, false, 15⟩ { plainV 1 2 3 0 .i64 with absa := true }).wf := by decide +kernel
/-- IMM32 without IB, and B beside IB (05 R128). -/
theorem test_wf_immediate : ¬ (Instr.sadd ⟨0, false, 15⟩ { plainV 1 2 3 0 .i64 with imm := 5 }).wf
    ∧ ¬ (Instr.sadd ⟨0, false, 15⟩ { plainV 1 2 3 0 .i64 with ib := true }).wf := by decide +kernel
/-- A register outside its class, an odd pair, a register in an absent field (02 R48, R50; 05 R128). -/
theorem test_wf_registers : ¬ (Instr.sadd ⟨0, false, 15⟩ (plainV 64 2 3 0 .i64)).wf
    ∧ ¬ (Instr.scmp ⟨0, false, 15⟩ (plainV 16 2 3 0 .i64)).wf ∧ ¬ (Instr.vadd ⟨0, false, 15⟩ (plainV 1 2 4 0 .i64)).wf
    ∧ ¬ (Instr.sadd ⟨0, false, 15⟩ (plainV 1 2 3 1 .i64)).wf := by decide +kernel
def plainM (s : BitVec 6) (sp : Space) (sz : Size) : OpM := ⟨4, 255, s, 7, sp, sz, .plain, .relaxed, false, false, false, 0, 0⟩
/-- Format M: order, AUX, space, size, X, address fields, EXT, RP, NT, TX (05 R129; 07 R167, R175). -/
theorem test_wf_memory : (Instr.ld ⟨0, false, 15⟩ (plainM 5 .glob .b4)).wf
    ∧ ¬ (Instr.ld ⟨0, false, 15⟩ { plainM 5 .glob .b4 with sc := .device, or_ := .release }).wf
    ∧ ¬ (Instr.ld ⟨0, false, 15⟩ { plainM 5 .glob .b4 with aux := 1 }).wf
    ∧ ¬ (Instr.ld ⟨0, false, 15⟩ (plainM 5 .cb .b4)).wf ∧ ¬ (Instr.atom ⟨0, false, 15⟩ { plainM 5 .glob .b2 with sc := .cluster }).wf
    ∧ ¬ (Instr.lds ⟨0, false, 15⟩ { plainM 5 .glob .b4 with x := 3 }).wf
    ∧ ¬ (Instr.fence ⟨0, false, 15⟩ ⟨0, 255, 1, 7, .glob, .b1, .device, .acqRel, false, false, false, 0, 0⟩).wf
    ∧ ¬ (Instr.ld ⟨0, false, 15⟩ { plainM 5 .glob .b4 with ext := true }).wf
    ∧ ¬ (Instr.ld ⟨0, false, 15⟩ { plainM 5 .glob .b4 with rp := true }).wf
    ∧ ¬ (Instr.fence ⟨0, false, 15⟩ ⟨0, 255, 0, 7, .glob, .b1, .device, .acqRel, false, false, true, 0, 0⟩).wf
    ∧ ¬ (Instr.ld ⟨0, false, 15⟩ { plainM 5 .lab .b4 with tx := 0 }).wf
    ∧ ¬ (Instr.txl ⟨0, false, 15⟩ ⟨0, 255, 5, 7, .glob, .b1, .plain, .relaxed, false, false, false, 0, 0⟩).wf := by decide +kernel
/-- Format X: FLAGS, IMM32, a field without a register, and codes a form reserves (05 R130; 14 R290). -/
theorem test_wf_engine : ¬ (Instr.seal ⟨0, false, 15⟩ ⟨7, 0, 0, 0, 1, 0⟩).wf ∧ ¬ (Instr.seal ⟨0, false, 15⟩ ⟨7, 0, 0, 0, 0, 1⟩).wf
    ∧ ¬ (Instr.seal ⟨0, false, 15⟩ ⟨7, 1, 0, 0, 0, 0⟩).wf ∧ ¬ (Instr.bin ⟨0, false, 15⟩ ⟨1, 8, 0, 0, 3, 0⟩).wf := by decide +kernel
/-- Format C: a field the row does not name, a CM code it does not list (06 R144). -/
theorem test_wf_control : ¬ (Instr.nop ⟨0, false, 15⟩ ⟨1, 0, 0, 0, 0, 0, 0, 0⟩).wf ∧ ¬ (Instr.brq ⟨0, false, 15⟩ ⟨0, 0, 3, 2, 0, 0, 0, 0⟩).wf := by
  decide +kernel
/-- Format Y: IMM32, and a number 16 R329 does not list. -/
theorem test_wf_privileged : ¬ (Instr.halt ⟨0, false, 15⟩ ⟨0, 5, 0, 1⟩).wf ∧ ¬ (Instr.mfpr ⟨0, false, 15⟩ ⟨3, 0, 0, 0x20⟩).wf := by decide +kernel
/-- CNT: a value that is not zero beside an operation that takes none (14 R312). -/
theorem test_wf_micro : ¬ (Instr.mCnt 1 3).wf ∧ (Instr.mCnt 0 3).wf := by decide +kernel

/-! ### Single steps, with values the spec gives -/

/-- What the wick is after an instruction. -/
def after (i : Instr) (s : State) : Option Wick :=
  match exec i s with
  | .next t => t.findWick 1
  | _ => none
/-- A scalar register of it. -/
def givesS (i : Instr) (w : Wick) (n : Nat) : Option Word := (after i (on base w)).map (fun x => x.rdS 0 n)

def u15 : Hdr := ⟨0, false, 15⟩

/-- 03 R70: a sum wraps at the width. -/
theorem test_sadd_wraps : givesS (.sadd u15 (plainV 1 2 3 0 .i64)) (sReg (sReg wk 2 (BitVec.allOnes 64)) 3 1) 1 = some 0 := by decide +kernel
/-- 03 R70: a quotient by zero is all ones. -/
theorem test_sdiv_by_zero : givesS (.sdiv u15 (plainV 1 2 3 0 .n64)) (sReg wk 2 7) 1 = some (BitVec.allOnes 64) := by decide +kernel
/-- 06 R152: a signed shift by the width and beyond gives the sign; the count is taken modulo 256. -/
theorem test_sshr_far : givesS (.sshr u15 (plainV 1 2 3 0 .i64)) (sReg (sReg wk 2 (-8)) 3 64) 1 = some (BitVec.allOnes 64)
    ∧ givesS (.sshr u15 (plainV 1 2 3 0 .i64)) (sReg (sReg wk 2 (-8)) 3 257) 1 = some (-4) := by decide +kernel
/-- 06 R152: smov.i32 of a negative immediate writes ones to [63:32], and smov.n32 zeros; shi after smov.n64 0x89AB_CDEF. -/
theorem test_smov_immediate :
    givesS (.smov u15 { plainV 1 0 0 0 .i32 with ib := true, imm := 0xFFFFFFFE }) wk 1 = some 0xFFFFFFFFFFFFFFFE
    ∧ givesS (.smov u15 { plainV 1 0 0 0 .n32 with ib := true, imm := 0xFFFFFFFE }) wk 1 = some 0xFFFFFFFE := by decide +kernel
theorem test_shi : givesS (.shi u15 { plainV 7 0 0 0 .b32 with ib := true, imm := 0x01234567 }) (sReg wk 7 0x89ABCDEF) 7 = some 0x0123456789ABCDEF := by
  decide +kernel
/-- 06 R145: LOOP at 1 leaves 0 and goes on; from 0 it wraps and branches. -/
theorem test_loop : givesS (.loop u15 ⟨3, 0, 0, 0, 0, 0, 0, 0⟩) (sReg wk 3 1) 3 = some 0
    ∧ (after (.loop u15 ⟨3, 0, 0, 0, 0, 0, 0, 0⟩) (on base wk)).map (fun x => (x.rdS 0 3, (x.frag 0).pc)) = some (BitVec.allOnes 64, 0) := by
  decide +kernel
/-- 05 R121: a branch to a slot without T traps with the target in TVAL and the branch in TPC. -/
theorem test_branch_target : (after (.bra u15 ⟨0, 0, 0, 0, 0, 0, 0, 1⟩) (on base wk)).map (fun x => (x.trap.sl, x.trap.tcause, x.trap.tval, x.trap.tpc))
    = some (true, 3, 12, 0) := by decide +kernel
/-- 02 R53: A plus A is A, base and stride added. -/
theorem test_vadd_affine : (after (.vadd u15 (plainV 130 5 6 0 .i32)) (on base ((wk.putV 5 (.a 10 4)).putV 6 (.a 1 0xFFFFFFFF)))).map (fun x => x.rdV 130)
    = some (.a 11 3) := by decide +kernel
/-- 04 R102: of two lanes that store one byte, the higher-numbered one's is kept; here every lane stores its low byte to one address. -/
theorem test_store_highest_lane : (match exec (.st u15 { plainM 5 .glob .b1 with d := 8 }) (on base ((sReg wk 5 0x1000).putV 8 (.a 1 1))) with
    | .next t => t.mem.get (keyLocal 0x201000)
    | _ => 0) = 32 := by decide +kernel
/-- 17 R351: the walk of the example, from 0x0012_3456_789A_BCDE to 0x0040_123A_BCDE. -/
theorem test_walk_of_spec :
    let m1 : Memory := Memory.write [] (keyLocal (0x1000000 + 0x918)) 8 0x2000001
    let m2 := m1.write (keyLocal (0x2000000 + 0x4560)) 8 0x3000001
    let m3 := m2.write (keyLocal (0x3000000 + 0x1E0)) 8 0x4000001
    let m := m3.write (keyLocal (0x4000000 + 0x98)) 8 0x8000004012383017
    (match walk m (0, 2 ^ 32) 0x1000000 0x00123456789ABCDE with
      | .ok k => some (k.entry, k.ent, k.lvl)
      | .error _ => none) = some (0x8000004012383017, 0x4000098, 0) := by decide +kernel
/-- 06 R148: FORK with p1 = lane 0 leaves two children; the true side goes on behind the FORK. -/
theorem test_fork : (after (.fork u15 ⟨0, 0, 1, 0, 0, 1, 0, 0⟩) (on base (pReg wk 1 1))).map
    (fun x => ((x.frag 1).mask, (x.frag 1).pc, (x.frag 2).mask, (x.frag 2).pc, (x.frag 0).state == .parent)) = some (1, 12, 0xFFFFFFFE, 0, true) := by
  decide +kernel
/-- 02 R49: a write of q15 has no effect, and a privileged form outside single-lane mode traps with cause 0x04 (05 R135). -/
theorem test_q15 : (after (.scmp u15 (plainV 15 2 3 0 .i64)) (on base (sReg wk 2 1))).map (fun x => x.rdQ 0 15) = some true := by decide +kernel
theorem test_privileged : (after (.halt u15 ⟨0, 5, 0, 0⟩) (on base wk)).map (fun x => (x.trap.sl, x.trap.tcause)) = some (true, 4) := by decide +kernel

/-! ### Witnesses: for every statement, states that meet the hypotheses of its clauses -/

def isSomeAnd {α : Type} (o : Option α) (p : α → Bool) : Bool := (o.map p).getD false

def instrs (l : List (Nat × Instr)) : List Instr := l.map Prod.snd

/-- Every scalar, vector, float, lane, memory, copy, matrix, entity, closure, rendering and control form of the lists above is ready on a wick
at address 0, a privileged one in single-lane mode, LDQ outside its slice as it is. -/
theorem wit_ready_control : ∀ i ∈ instrs wordsControl, Ready i (on base (pReg wk 1 1)) (pReg wk 1 1) 0 ∨ (∃ h o, i = .exit h o) :=
  fun i hi => by
    by_cases h : readyB i (pReg wk 1 1) = true
    · exact .inl (ready h)
    · have := List.all_eq_true.mp (by decide +kernel : (instrs wordsControl).all (fun i => readyB i (pReg wk 1 1) || (match i with
        | .exit _ _ => true
        | _ => false)) = true) i hi
      simp only [h, Bool.false_or] at this
      cases i <;> simp_all
theorem wit_ready_privileged : ∀ i ∈ instrs wordsPrivileged, Ready i (on base wkSl) wkSl 0 := readyAll (by decide +kernel)
theorem wit_ready_memory : ∀ i ∈ instrs wordsMemory, Ready i (on base wk) wk 0 := readyAll (by decide +kernel)
theorem wit_ready_copies : ∀ i ∈ instrs wordsCopies, Ready i (on base (pReg wk 2 1)) (pReg wk 2 1) 0 := readyAll (by decide +kernel)
theorem wit_ready_matrix : ∀ i ∈ instrs wordsMatrix, Ready i (on base wk) wk 0 := readyAll (by decide +kernel)
theorem wit_ready_entities : ∀ i ∈ instrs wordsEntities, Ready i (on base wk) wk 0 := readyAll (by decide +kernel)
theorem wit_ready_closures : ∀ i ∈ instrs wordsClosures, Ready i (on base wk) wk 0 := readyAll (by decide +kernel)
theorem wit_ready_rendering : ∀ i ∈ instrs wordsRendering, Ready i (on base wk) wk 0 := readyAll (by decide +kernel)

theorem wit_DecodeEncode : (∀ l ∈ [wordsControl, wordsScalar, wordsPrivileged, wordsVector, wordsFloat, wordsLanes, wordsMemory, wordsCopies, wordsMatrix,
    wordsEntities, wordsClosures, wordsRendering], l.all (fun x => x.2.legal && x.2.opc.isSome) = true)
    ∧ wordsMicro.all (fun x => x.2.legal && x.2.mop.isSome) = true := by decide +kernel
theorem wit_EncodeDecode : (decode 0x000780000000000000000000).toOption = some (.nop u15 ⟨0, 0, 0, 0, 0, 0, 0, 0⟩)
    ∧ (decode 0x100780810180500000000000).toOption = some (.sadd u15 (plainV 1 2 3 0 .i64)) := by decide +kernel

/-- Each type, and each SUB of the products and quotients. -/
theorem wit_ScalarWords : ∀ i ∈ [Ty.i64, .n64, .i32, .n32, .b32].flatMap (fun t => [Instr.sadd u15 (plainV 1 2 3 0 t), .ssub u15 (plainV 1 2 3 0 t),
      .smul u15 (plainV 1 2 3 0 t), .sdiv u15 (plainV 1 2 3 0 t), .sand u15 (plainV 1 2 3 0 t), .sor u15 (plainV 1 2 3 0 t), .sxor u15 (plainV 1 2 3 0 t),
      .sshl u15 (plainV 1 2 3 0 t), .sshr u15 (plainV 1 2 3 0 t), .smin u15 (plainV 1 2 3 0 t), .smax u15 (plainV 1 2 3 0 t)])
    ++ [Instr.smul ⟨1, false, 15⟩ (plainV 1 2 3 0 .i64), .smul ⟨1, false, 15⟩ (plainV 1 2 3 0 .n64), .sdiv ⟨1, false, 15⟩ (plainV 1 2 3 0 .i64),
      .sdiv ⟨1, false, 15⟩ (plainV 1 2 3 0 .n32)], Ready i (on base wk) wk 0 := readyAll (by decide +kernel)
theorem wit_ScalarFormsComplete : ∀ i ∈ instrs wordsScalar, Ready i (on base wk) wk 0 := readyAll (by decide +kernel)
theorem wit_RegisterRules : 0x02 ∉ [0x00, 0x01, 0x0A, 0x0D, 0x0E] := by decide
theorem wit_VectorIntegerLanes : ∀ i ∈ instrs wordsVector, Ready i (on base wk) wk 0 := readyAll (by decide +kernel)
theorem wit_LaneFormsComplete : (∀ i ∈ instrs wordsLanes, Ready i (on base (wk.putV 3 (.u 7))) (wk.putV 3 (.u 7)) 0)
    ∧ laneCount (wk.putV 3 (.u 7)) (plainV 1 2 3 4 .b32) = some 7 ∧ (wk.cx 0 (.vcomp u15 (plainV 1 2 0 0 .b32))).act = wk.live ∧ wk.live ≠ 0
    ∧ (∀ l, l < 32 → wk.live.getLsbD l = true → (wk.rdV 2).lane l = 0) :=
  ⟨readyAll (by decide +kernel), by decide +kernel, by decide +kernel, by decide +kernel, by decide +kernel⟩
theorem wit_LaneToScalarForms : (∀ i ∈ instrs wordsLanes ++ [.vcmp ⟨2, false, 15⟩ (plainV 3 5 6 0 .i32), .fcmp ⟨4, false, 15⟩ (plainV 1 2 3 0 .f32)],
      Ready i (on base wk) wk 0)
    ∧ (∀ i ∈ instrs wordsLanes, (wk.cx 0 i).act ≠ 0) := ⟨readyAll (by decide +kernel), by decide +kernel⟩

/-- A guard of one lane. -/
def p1 : Hdr := ⟨0, false, 1⟩
theorem wit_NarrowRegisters :
    Ready (.lperm u15 (plainV 130 2 3 0 .b32)) (on base wk) wk 0 ∧ (wk.cx 0 (.lperm u15 (plainV 130 2 3 0 .b32))).act ≠ 0 ∧ narrow 128 = true ∧ narrow 247 = true
    ∧ (let w := pReg wk 1 1
       Ready (.vmov p1 (plainV 130 2 0 0 .b32)) (on base w) w 0 ∧ (w.cx 0 (.vmov p1 (plainV 130 2 0 0 .b32))).act ≠ 0
         ∧ (w.cx 0 (.vmov p1 (plainV 130 2 0 0 .b32))).act ≠ w.live)
    ∧ (let i := Instr.vmov u15 { plainV 130 0 0 0 .b32 with ib := true, imm := 9 }
       Ready i (on base wk) wk 0 ∧ (wk.cx 0 i).act ≠ 0 ∧ (wk.cx 0 i).act = wk.live)
    ∧ (let i := Instr.aff u15 { plainV 247 2 0 0 .b32 with ib := true, imm := 1 }
       Ready i (on base wk) wk 0 ∧ (wk.cx 0 i).act ≠ 0 ∧ (wk.cx 0 i).act = wk.live)
    ∧ (let w := (wk.putV 5 (.a 10 4)).putV 6 (.a 1 2)
       let i := Instr.vadd u15 (plainV 128 5 6 0 .i32)
       Ready i (on base w) w 0 ∧ (w.cx 0 i).act ≠ 0 ∧ (w.cx 0 i).act = w.live ∧ w.rdV 5 = .a 10 4 ∧ w.rdV 6 = .a 1 2) :=
  ⟨ready (by decide +kernel), by decide +kernel, by decide +kernel, by decide +kernel, ⟨ready (by decide +kernel), by decide +kernel, by decide +kernel⟩,
    ⟨ready (by decide +kernel), by decide +kernel, by decide +kernel⟩, ⟨ready (by decide +kernel), by decide +kernel, by decide +kernel⟩,
    ⟨ready (by decide +kernel), by decide +kernel, by decide +kernel, by decide +kernel, by decide +kernel⟩⟩
theorem wit_VectorFloatLanes : ∀ i ∈ instrs wordsFloat, Ready i (on base wk) wk 0 := readyAll (by decide +kernel)
theorem wit_VectorConversionsComplete : ∀ i ∈ [Instr.fcvt u15 { plainV 1 2 0 0 .f32 with imm := 6 }, .icvt u15 { plainV 1 2 0 0 .i32 with imm := 3 },
    .fscale u15 (plainV 1 2 3 0 .f32), .fsincos u15 (plainV 2 4 0 0 .f32), .lscan u15 (plainV 1 2 0 0 .i32)], Ready i (on base wk) wk 0 :=
  readyAll (by decide +kernel)

/-! Control -/

/-- The wick in the access slice of a sliced launch. -/
def inSlice (w : Wick) : Wick := { w with inAccess := true, access := some { live := true }, info := { w.info with sliced := true } }

def c0 : OpC := ⟨0, 0, 0, 0, 0, 0, 0, 0⟩
/-- SLEEP of 0, of 1 and of more than 2^24 cycles. -/
theorem wit_SimpleControl : (∀ i ∈ [Instr.nop u15 c0, .yield u15 c0, .fence u15 ⟨0, 255, 0, 7, .glob, .b1, .device, .acqRel, false, false, false, 0, 0⟩,
      .cache u15 ⟨0, 255, 5, 7, .glob, .b1, .plain, .relaxed, false, false, false, 0, 0⟩, .sleep u15 { c0 with s := 5 }, .trapu u15 { c0 with s := 6 }],
      Ready i (on base wk) wk 0)
    ∧ (wk.rdS 0 5).toNat = 0 ∧ 0 < ((sReg wk 5 1).rdS 0 5).toNat ∧ Ready (.sleep u15 { c0 with s := 5 }) (on base (sReg wk 5 1)) (sReg wk 5 1) 0
    ∧ 2 ^ 24 < ((sReg wk 5 0x1000001).rdS 0 5).toNat :=
  ⟨readyAll (by decide +kernel), by decide +kernel, by decide +kernel, ready (by decide +kernel), by decide +kernel⟩
/-- Every condition of every branch, taken and not, a target with T and one without; LOOP at 1 and at 0. -/
theorem wit_Branches :
    (∀ i ∈ [Instr.bra u15 c0, .brq u15 { c0 with cq := 15 }, .brq u15 { c0 with cq := 15, cm := 1 }]
      ++ ([0, 1, 2, 3].map (fun m => Instr.brp u15 { c0 with cq := 1, cm := m })) ++ ([0, 1, 2, 3, 4, 5].map (fun m => Instr.brs u15 { c0 with cm := m }))
      ++ [.loop u15 { c0 with s := 3 }], Ready i (on base wk) wk 0)
    ∧ tgt (wk.cx 0 (.bra u15 c0)) c0 = 0 ∧ (checkTarget (on base wk) 0 0 false 0).1 = .ok
    ∧ tgt (wk.cx 0 (.bra u15 c0)) { c0 with slot := 1 } = 12 ∧ (checkTarget (on base wk) 0 0 false 12).1 = .bad
    ∧ (wk.rdQ 0 15 != (0 : BitVec 3).getLsbD 0) = true ∧ (wk.rdQ 0 15 != (1 : BitVec 3).getLsbD 0) = false
    ∧ (sReg wk 3 1).rdS 0 3 - 1 = 0 ∧ wk.rdS 0 3 - 1 ≠ 0 :=
  ⟨readyAll (by decide +kernel), by decide +kernel, by decide +kernel, by decide +kernel, by decide +kernel, by decide +kernel, by decide +kernel,
    by decide +kernel, by decide +kernel⟩
/-- The wick with a call depth, and with the frame below it a closure's. -/
def atDepth (n : Nat) (w : Wick) : Wick := w.modFrag 0 (fun g => { g with cd := n })
def callOp : OpC := { c0 with s := 40, s2 := 6 }
/-- Depths 0, 15 and 16; single-lane mode; a good target and a bad one; a plain frame and a closure's. -/
theorem wit_CallsAndReturns :
    (∀ i ∈ [Instr.call u15 { c0 with s := 40 }, .calli u15 callOp, .ret u15 { c0 with s := 40 }], Ready i (on base (atDepth 15 wk)) (atDepth 15 wk) 0)
    ∧ (∀ i ∈ [Instr.call u15 { c0 with s := 40 }, .calli u15 callOp, .ret u15 { c0 with s := 40 }], Ready i (on base (atDepth 16 wk)) (atDepth 16 wk) 0)
    ∧ (∀ i ∈ [Instr.call u15 { c0 with s := 40 }, .calli u15 callOp, .ret u15 { c0 with s := 40 }], Ready i (on base wkSl) wkSl 0)
    ∧ ((atDepth 15 wk).frag 0).cd = 15 ∧ ((atDepth 16 wk).frag 0).cd = 16 ∧ (checkTarget (on base (atDepth 15 wk)) 0 0 false 0).1 = .ok
    ∧ (checkTarget (on base wkSl) 0 0 true 0).1 = .ok
    ∧ (sReg wk 6 12).rdS 0 6 = 12 ∧ (checkTarget (on base (sReg wk 6 12)) 0 0 false 12).1 = .bad
    ∧ ((atDepth 15 wk).regs.kframe[14]?.getD false) = false
    ∧ (({ atDepth 1 wk with regs := { wk.regs with kframe := wk.regs.kframe.setIfInBounds 0 true } } : Wick).regs.kframe[0]?.getD false) = true
    ∧ wk.info.beganWithClosure = false
    ∧ Ready (.ret u15 { c0 with s := 40 }) (on base (inSlice (atDepth 1 wk))) (inSlice (atDepth 1 wk)) 0 ∧ ((inSlice (atDepth 1 wk)).frag 0).cd = 1
    ∧ (let s : State := { base with env := [{ core := 0, entry := 0, refcnt := 1, used := true, ownlive := true, owner := 1 }] }
       s.handleValid 0 (mkHandle 0 0 0 1) = true ∧ s.handleValid 0 1 = false ∧ ((wk.wrK 15 (mkHandle 0 0 0 1)).rdK 15) = mkHandle 0 0 0 1)
    ∧ (let w : Wick := { wk with info := { wk.info with kind := .closure } }
       Ready (.ret u15 { c0 with s := 40 }) (on base w) w 0 ∧ (w.frag 0).cd = 0 ∧ w.info.beganWithClosure = true ∧ w.info.cont = none) :=
  ⟨readyAll (by decide +kernel), readyAll (by decide +kernel), readyAll (by decide +kernel), by decide +kernel, by decide +kernel, by decide +kernel,
    by decide +kernel, by decide +kernel, by decide +kernel, by decide +kernel, by decide +kernel, by decide +kernel, ready (by decide +kernel),
    by decide +kernel, by decide +kernel, ready (by decide +kernel), by decide +kernel, rfl, rfl⟩
def forkOp : OpC := { c0 with cq := 1 }
/-- The wick with n serial records. -/
def withRecs (n : Nat) (w : Wick) : Wick := { w with serial := List.replicate n ⟨0, 0, 0, 0, 0, false, Vector.replicate 16 0, 0, 0⟩ }
/-- The wick with one free entry of the split table. -/
def fullTable (w : Wick) : Wick := { w with frags := (Vector.replicate 8 { state := .waiting, mask := 1 }).setIfInBounds 0 (w.frag 0) |>.setIfInBounds 7 {} }
/-- Both sides occupied with entries free and without, one side empty, 15 and 16 records, a bad target, a false guard. -/
theorem wit_ForkForm :
    (∀ w ∈ [pReg wk 1 1, wk, withRecs 15 wk, withRecs 16 wk, fullTable (pReg wk 1 1)], readyB (.fork u15 forkOp) w = true)
    ∧ (pReg wk 1 1).freeFrags.length = 7 ∧ (fullTable (pReg wk 1 1)).freeFrags.length < 2
    ∧ ((pReg wk 1 1).frag 0).mask &&& (pReg wk 1 1).rdP 1 ≠ 0 ∧ ((pReg wk 1 1).frag 0).mask &&& ~~~ (pReg wk 1 1).rdP 1 ≠ 0
    ∧ (wk.frag 0).mask &&& wk.rdP 1 = 0 ∧ (withRecs 15 wk).serial.length < 16 ∧ 16 ≤ (withRecs 16 wk).serial.length
    ∧ (checkTarget (on base wk) 0 0 false 0).1 = .ok ∧ (checkTarget (on base wk) 0 0 false 12).1 = .bad
    ∧ (Instr.fork ⟨0, false, 14⟩ forkOp).legal = true ∧ wk.guardedOff 0 (.fork ⟨0, false, 14⟩ forkOp) = true := by decide +kernel
/-- The wick split in two: entry 0 the parent, whose JOIN is at pc, and entries 1 and 2. -/
def splitAt (pc : Word) : Wick := { wk with frags := #v[{ mask := fullMask, state := .parent, joinPc := pc }, { mask := 1, state := .running, level := 1 },
  { mask := 0xFFFFFFFE, state := .running, level := 1 }, {}, {}, {}, {}, {}] }
def recAt (j : Word) : Wick := { wk with serial := [⟨0, j, 0xFFFFFFFE, 0, 0, false, Vector.replicate 16 0, fullMask, 0⟩] }
theorem wit_JoinForm :
    Ready (.join u15 c0) (on base wk) wk 0 ∧ wk.lastRec 0 = none
    ∧ Ready (.join u15 c0) (onF base (splitAt 0) 1) (splitAt 0) 1 ∧ (splitAt 0).lastRec 1 = none ∧ ((splitAt 0).frag ((splitAt 0).frag 1).parent).joinPc = 0
    ∧ Ready (.join u15 c0) (onF base (splitAt 64) 1) (splitAt 64) 1 ∧ ((splitAt 64).frag ((splitAt 64).frag 1).parent).joinPc ≠ 0
    ∧ Ready (.join u15 c0) (on base (recAt 0)) (recAt 0) 0 ∧ ((recAt 0).lastRec 0).map (fun x => (x.2.j, x.2.cd)) = some (0, 0)
    ∧ Ready (.join u15 c0) (on base (recAt 64)) (recAt 64) 0 ∧ ((recAt 64).lastRec 0).map (fun x => x.2.j) = some 64
    ∧ (let w1 := (splitAt 0).modFrag 1 (fun g => { g with state := .waiting })
       w1.live ≠ 0 ∧ (w1.frag 0).state = .parent ∧ (w1.fuse 0).isNone = true
         ∧ (((w1.modFrag 2 (fun g => { g with state := .waiting })).fuse 0).map (fun x => (x.frag 0).mask)) = some fullMask)
    ∧ (({ (recAt 0) with serial := [] } : Wick).fuse 0).isNone = true
    ∧ (((recAt 0).closeRec 0 ⟨0, 0, 0xFFFFFFFE, 0, 0, false, Vector.replicate 16 0, fullMask, 0⟩).frag 0).mask = 0xFFFFFFFE
    ∧ (let none_ (w : Wick) (f : Nat) : Wick := w.modFrag f (fun g => { g with mask := 0 })
       (((none_ (recAt 0) 0).lastRec 0).map Prod.fst = some 0 ∧ ((none_ (recAt 0) 0).frag 0).state = .running)
         ∧ ((none_ wk 0).lastRec 0).isNone = true ∧ ((none_ (splitAt 0) 1).lastRec 1).isNone = true ∧ ((none_ (splitAt 0) 1).frag 1).mask = 0) :=
  ⟨ready (by decide +kernel), by decide +kernel, readyAt (by decide +kernel), by decide +kernel, by decide +kernel, readyAt (by decide +kernel),
    by decide +kernel, ready (by decide +kernel), by decide +kernel, ready (by decide +kernel), by decide +kernel, by decide +kernel, by decide +kernel,
    by decide +kernel, by decide +kernel⟩
theorem wit_ExitForm : Ready (.exit u15 c0) (on base wk) wk 0 ∧ (wk.retire 0 (wk.cx 0 (.exit u15 c0)).mask).live = 0
    ∧ Ready (.exit u15 c0) (on base (inSlice wk)) (inSlice wk) 0 ∧ (inSlice wk).inAccess = true
    ∧ Ready (.exit u15 c0) (onF base (splitAt 0) 1) (splitAt 0) 1 ∧ ((splitAt 0).retire 1 ((splitAt 0).cx 1 (.exit u15 c0)).mask).live ≠ 0 :=
  ⟨ready (by decide +kernel), by decide +kernel, ready (by decide +kernel), rfl, readyAt (by decide +kernel), by decide +kernel⟩

/-! Traps -/

/-- The context with TVEC at address a. -/
def vecAt (a : Word) : State := { base with ctxs := base.ctxs.map (fun c => { c with regs := c.regs.setIfInBounds 1 a }) }
theorem wit_TrapEntry : wk.trap.sl = false ∧ (checkTarget base 0 0 true (base.vector 0 0x01)).1 = .ok
    ∧ (checkTarget (vecAt 12) 0 0 true ((vecAt 12).vector 0 0x01)).1 = .bad ∧ wkSl.trap.sl = true ∧ ((on base wk).findWick 1).isSome = true := by
  decide +kernel
/-- The context with an own work of its that waits for a page. -/
def stoppedAt (s : State) (work : Nat) : State := { s with ctxs := s.ctxs.map (fun c => { c with stops := [⟨work, 1, 0x80000⟩] }) }
/-- A return with nothing pending and with a pre-emption, with no access slice, with one whose rows can be saved, and with a save area on a
page that fails. -/
theorem wit_TrapReturn : wkSl.trap.tfrag < 8 ∧ wkSl.trap.ppend = false ∧ wkSl.access = none ∧ wkSl.info.restoring = false
    ∧ Ready (.eret u15 ⟨0, 0, 0, 0⟩) (on base wkSl) wkSl 0 ∧ Ready (.eretNext ⟨1, false, 15⟩ ⟨0, 0, 0, 0⟩) (on base wkSl) wkSl 0
    ∧ (on base wkSl).isStopped 0 (saveWork wkSl) = false ∧ (on (stoppedAt base (saveWork wkSl)) wkSl).isStopped 0 (saveWork wkSl) = true
    ∧ ({ wkSl with trap := { wkSl.trap with ppend := true } } : Wick).trap.ppend = true
    ∧ (match saveAccess (on base (inSlice wkSl)) (inSlice wkSl) with
      | .ok _ => true
      | .error _ => false) = true
    ∧ (match saveAccess (on { base with mem := [] } (inSlice wkSl)) (inSlice wkSl) with
      | .ok _ => true
      | .error _ => false) = false :=
  ⟨by decide +kernel, by decide +kernel, rfl, rfl, ready (by decide +kernel), ready (by decide +kernel), by decide +kernel, by decide +kernel, rfl,
    by decide +kernel, by decide +kernel⟩
def inSpec (w : Wick) : Wick := { w with books := { w.books with svc := some ⟨1, 9, some 0, 0, 0⟩ } }
theorem wit_TrapRouting : wk.books.svc = none ∧ wk.inAccess = false ∧ (inSpec wk).books.svc.isSome = true ∧ (inSpec wk).trap.sl = false
    ∧ (inSlice (qpSet wk 0 (List.replicate 7 {}))).inAccess = true ∧ ((inSlice (qpSet wk 0 (List.replicate 7 {}))).books.qp[0]?.getD []).length < 8
    ∧ ((inSlice (qpSet wk 0 (List.replicate 8 {}))).books.qp[0]?.getD []).length = 8 := by
  decide +kernel
theorem wit_IssueChecks :
    (inSlice wk).inAccess = true ∧ (Instr.mma u15 ⟨1, 2, 3, 4, 0, 0⟩).inAccessSlice = false ∧ (Instr.halt u15 ⟨0, 5, 0, 0⟩).prv = true ∧ wk.trap.sl = false
    ∧ (Instr.sadd ⟨1, false, 15⟩ (plainV 1 2 3 0 .i64)).legal = false ∧ (Instr.exit u15 c0).notInSl = true ∧ wkSl.trap.sl = true
    ∧ wk.guardedOff 0 (.sadd ⟨0, false, 14⟩ (plainV 1 2 3 0 .i64)) = true ∧ (Instr.sadd ⟨0, false, 14⟩ (plainV 1 2 3 0 .i64)).legal = true := by decide +kernel
theorem wit_RegisterFormFrame : ∀ l ∈ [wordsScalar, wordsVector, wordsFloat, wordsLanes], l.all (fun x => readyB x.2 wk && x.2.opV.isSome) = true := by
  decide +kernel
/-- An entry of an operand queue, and a wick of a sliced launch whose queue n holds two. -/
def e0 : QEntry := { faulted := false }
def queued (n : Nat) : Wick := qpSet { wk with access := some { live := true }, info := { wk.info with sliced := true } } n [e0, e0]
theorem wit_QueuePorts :
    (let i := Instr.vmov u15 (plainV 8 248 0 0 .b32)
     Ready i (on base (queued 0)) (queued 0) 0 ∧ (queued 0).books.qp[0]? = some [e0, e0] ∧ ((queued 0).cx 0 i).act ≠ 0 ∧ narrow 8 = false)
    ∧ (let i := Instr.vmov u15 (plainV 8 251 0 0 .b32)
       Ready i (on base (queued 3)) (queued 3) 0 ∧ (queued 3).books.qp[3]? = some [e0, e0])
    ∧ (let i := Instr.vadd u15 (plainV 8 248 251 0 .i32)
       let w := qpSet (queued 3) 0 [e0]
       i.ports = [0, 3] ∧ Ready i (on base w) w 0 ∧ i.opV.isSome = true ∧ w.access.bind Access.trap = none) :=
  ⟨⟨ready (by decide +kernel), by decide +kernel, by decide +kernel, by decide +kernel⟩, ⟨ready (by decide +kernel), by decide +kernel⟩, by decide +kernel,
    ready (by decide +kernel), by decide +kernel, by decide +kernel⟩
/-- The base with a leaf that has neither A nor D. -/
def bareLeaf : State := { base with mem := base.mem.write (keyLocal 0x120200) 8 (0x20001F + 2 ^ 63) }
/-- A write to a page whose leaf has neither bit yet and to one that has both, a leaf that has changed since it was walked, and an address no
leaf maps. -/
theorem wit_TranslationMemory :
    (match pickWalk bareLeaf 0 0x1000 with
    | .ok k => (bareLeaf.leafFault 0 false ⟨1, 0, 0⟩ k).isNone && k.entry &&& leafBits ⟨1, 0, 0⟩ != leafBits ⟨1, 0, 0⟩ && bareLeaf.entryThere k
        && !({ bareLeaf with mem := bareLeaf.mem.write (keyLocal k.ent) 8 0 } : State).entryThere k
    | .error _ => false) = true
    ∧ (match pickWalk base 0 0x1000 with
      | .ok k => k.entry &&& leafBits ⟨1, 0, 0⟩ == leafBits ⟨1, 0, 0⟩
      | .error _ => false) = true
    ∧ (match pickWalk base 0 0x80000 with
      | .ok _ => false
      | .error _ => true) = true := by decide +kernel
theorem wit_ReadAfterWrite : Memory.wf [] = true ∧ base.mem.wf = true ∧ base.older.worlds = [] := by decide +kernel

/-! Memory -/

/-- An access of these lanes passes its checks, and every byte of it translates. -/
def passesB (i : Instr) (s : State) (w : Wick) (o : OpM) (atomic : Bool) (ls : List (Nat × Nat)) : Bool :=
  (checkLanes s w o atomic o.sz.bytes ls).isNone && ((w.cx 0 i).sl || !w.touchesLog (ls.flatMap (fun (l, ea) => laneRanges w o o.sz.bytes l ea)))
theorem passes {i : Instr} {s : State} {w : Wick} {o : OpM} {atomic : Bool} {ls : List (Nat × Nat)} (h : passesB i s w o atomic ls = true) :
    Passes s w (w.cx 0 i) o atomic ls := by
  simp only [passesB, Bool.and_eq_true, Bool.or_eq_true, Option.isNone_iff_eq_none, Bool.not_eq_true'] at h
  exact h
def lanesAt (i : Instr) (w : Wick) (o : OpM) : List (Nat × Nat) := laneList w (w.cx 0 i) o (fun _ => 0)
def seqAt (i : Instr) (w : Wick) (o : OpM) : List (Nat × Nat) := laneList w (w.cx 0 i) o (fun n => n * o.sz.bytes)
def loneAt (i : Instr) (w : Wick) (o : OpM) : List (Nat × Nat) := [(0, laneEa w (w.cx 0 i) o 0)]
def reachesB (i : Instr) (s : State) (w : Wick) (o : OpM) (k : AccKind) (ls : List (Nat × Nat)) : Bool :=
  (s.reach w (w.cx 0 i) o k o.sz.bytes ls).isSome
def resolvesB (i : Instr) (s : State) (w : Wick) (o : OpM) (k : AccKind) : Bool :=
  match resolveLane s w (w.cx 0 i) o k o.sz.bytes 0 (laneEa w (w.cx 0 i) o 0) with
  | ([], _, _) => true
  | _ => false

/-- A wick whose p1 holds lanes 0 and 31 and that names 0x1000 in s5 and s6, and one that names the end of the mapped page, 512 KiB. -/
def wm : Wick := sReg (sReg (pReg wk 1 0x80000001) 5 0x1000) 6 0x1000
def wEnd (back : Nat) : Wick := sReg (pReg wk 1 0x80000001) 5 (BitVec.ofNat 64 (0x80000 - back))
/-- A band of the wick with a window of one unit, and the wick as its producer. -/
def band0 : Band := { uid := 9, pkt := 0, index := 0, members := [0], uids := [1], win := 1, cores := [0] }
def banded (s : State) : State := { s with bands := [band0] }
def bm (w : Wick) : Wick := { w with info := { w.info with bands := [⟨9, 0⟩] } }
def opCb : OpM := { plainM 5 .cb .b4 with x := 3 }

/-- Wide and narrow destinations, the last word of a page, the four sizes, and the compute buffer. -/
theorem wit_LoadForms :
    (∀ z ∈ [Size.b1, .b2, .b4, .b8], ∀ e ∈ [false, true],
      let o := plainM 5 .glob z
      let i := Instr.ld p1 { o with ext := e && (z.bytes < 4) }
      readyB i (wEnd z.bytes) = true ∧ passesB i (on base (wEnd z.bytes)) (wEnd z.bytes) o false (lanesAt i (wEnd z.bytes) o) = true
        ∧ reachesB i (on base (wEnd z.bytes)) (wEnd z.bytes) o (accOf o 0 0) (lanesAt i (wEnd z.bytes) o) = true)
    ∧ (let o := plainM 5 .glob .b4
       let i := Instr.ldaSeq ⟨1, false, 1⟩ o
       readyB i (wEnd 128) = true ∧ passesB i (on base (wEnd 128)) (wEnd 128) o false (seqAt i (wEnd 128) o) = true
         ∧ reachesB i (on base (wEnd 128)) (wEnd 128) o (accOf o 0 0) (seqAt i (wEnd 128) o) = true)
    ∧ (let o := plainM 5 .glob .b4
       let i := Instr.ldaBcast u15 o
       readyB i wm = true ∧ passesB i (on base wm) wm o false (loneAt i wm o) = true ∧ resolvesB i (on base wm) wm o (accOf o 0 0) = true
         ∧ (wm.cx 0 i).act ≠ 0)
    ∧ (let o := plainM 5 .glob .b8
       let i := Instr.lds u15 o
       readyB i wm = true ∧ passesB i (on base wm) wm o false (loneAt i wm o) = true ∧ resolvesB i (on base wm) wm o (accOf o 0 0) = true)
    ∧ (let i := Instr.ldc p1 opCb
       readyB i (bm (pReg wk 1 1)) = true ∧ heldAccess (on (banded base) (bm (pReg wk 1 1))) (bm (pReg wk 1 1)) 4 (lanesAt i (bm (pReg wk 1 1)) opCb) = false
         ∧ passesB i (on (banded base) (bm (pReg wk 1 1))) (bm (pReg wk 1 1)) opCb false (lanesAt i (bm (pReg wk 1 1)) opCb) = true
         ∧ reachesB i (on (banded base) (bm (pReg wk 1 1))) (bm (pReg wk 1 1)) opCb (accOf opCb 0 0) (lanesAt i (bm (pReg wk 1 1)) opCb) = true)
    ∧ (let i := Instr.ld p1 { plainM 5 .glob .b4 with d := 130 }
       readyB i wm = true ∧ narrow 130 = true ∧ (wm.cx 0 i).act ≠ 0) := by decide +kernel
theorem wit_StoreForms :
    (let o := plainM 5 .glob .b4
     let i := Instr.st p1 o
     readyB i wm = true ∧ wm.books.svc = none ∧ passesB i (on base wm) wm o false (lanesAt i wm o) = true
       ∧ reachesB i (on base wm) wm o (accOf o 1 0) (lanesAt i wm o) = true)
    ∧ (let o := plainM 5 .glob .b4
       let i := Instr.sta p1 o
       readyB i (wEnd 128) = true ∧ passesB i (on base (wEnd 128)) (wEnd 128) o false (seqAt i (wEnd 128) o) = true
         ∧ reachesB i (on base (wEnd 128)) (wEnd 128) o (accOf o 1 0) (seqAt i (wEnd 128) o) = true)
    ∧ (let o := plainM 5 .glob .b8
       let i := Instr.sts u15 o
       readyB i wm = true ∧ passesB i (on base wm) wm o false (loneAt i wm o) = true ∧ reachesB i (on base wm) wm o (accOf o 1 0) (loneAt i wm o) = true)
    ∧ (let i := Instr.stc p1 opCb
       readyB i (bm (pReg wk 1 1)) = true ∧ heldAccess (on (banded base) (bm (pReg wk 1 1))) (bm (pReg wk 1 1)) 4 (lanesAt i (bm (pReg wk 1 1)) opCb) = false
         ∧ passesB i (on (banded base) (bm (pReg wk 1 1))) (bm (pReg wk 1 1)) opCb false (lanesAt i (bm (pReg wk 1 1)) opCb) = true
         ∧ reachesB i (on (banded base) (bm (pReg wk 1 1))) (bm (pReg wk 1 1)) opCb (accOf opCb 1 0) (lanesAt i (bm (pReg wk 1 1)) opCb) = true)
    ∧ (let o := plainM 5 .glob .b4
       let i := Instr.st p1 o
       let w := inSpec wm
       readyB i w = true ∧ w.books.svc.isSome = true ∧ w.trap.sl = false ∧ w.books.ssb.length < 64
         ∧ passesB i (on base w) w o false (lanesAt i w o) = true ∧ reachesB i (on base w) w o (accOf o 1 0) (lanesAt i w o) = true) := by
  decide +kernel
def opAt (z : Size) (aux : BitVec 8) : OpM := { plainM 5 .glob z with sc := .cluster, aux := aux }
/-- Every operation, at the words where signed and unsigned differ. -/
theorem wit_AtomicForms :
    (∀ z ∈ [Size.b4, .b8], ∀ i ∈ [Instr.atom p1 (opAt z 1), .cas p1 (opAt z 0)],
      readyB i wm = true ∧ passesB i (on base wm) wm (opAt z 0) true (lanesAt i wm (opAt z 0)) = true
        ∧ ((on base wm).rmw wm (wm.cx 0 i) (opAt z 0) (accOf (opAt z 0) 2 0x0E) z.bytes (fun _ x => x) (lanesAt i wm (opAt z 0))).isSome = true
        ∧ ((on base wm).rmw wm (wm.cx 0 i) (opAt z 1) (accOf (opAt z 1) 2 1) z.bytes (fun _ x => x) (lanesAt i wm (opAt z 1))).isSome = true)
    ∧ (∀ a ∈ [(0 : BitVec 8), 0x0E], let i := Instr.satom u15 (opAt .b4 a)
        readyB i wm = true ∧ passesB i (on base wm) wm (opAt .b4 a) true (loneAt i wm (opAt .b4 a)) = true
          ∧ resolvesB i (on base wm) wm (opAt .b4 a) (accOf (opAt .b4 a) 2 a.toNat) = true)
    ∧ (0xFFFFFFFF < 2 ^ (8 * 4) ∧ atomOp 0x04 4 0xFFFFFFFF 1 = 0xFFFFFFFF ∧ atomOp 0x06 4 0xFFFFFFFF 1 = 1 ∧ atomOp 0x09 4 7 7 = 0 ∧ atomOp 0x0A 4 0 7 = 7) := by
  decide +kernel
/-- One past the last address, a misaligned address, and an address outside every window, for the lane forms and those of lane 0; a lane in a
window, one past its end and one past the activation buffer's; a constant below CLEN and past it. -/
theorem wit_AccessTraps :
    (let w := sReg (pReg wk 1 1) 5 (BitVec.ofNat 64 (2 ^ 57))
     let o := plainM 5 .glob .b4
     (∀ i ∈ [Instr.ld p1 o, .st p1 o, .ldaSeq ⟨1, false, 1⟩ o, .sta p1 o],
       readyB i w = true ∧ (checkLanes (on base w) w o false 4 (lanesAt i w o)).map TrapInfo.cause = some 0x10)
     ∧ (∀ i ∈ [Instr.lds u15 o, .sts u15 o, .ldaBcast u15 o, .waitm u15 (opAt .b4 0)],
       readyB i w = true ∧ (w.cx 0 i).act ≠ 0 ∧ (checkLanes (on base w) w o false 4 (loneAt i w o)).map TrapInfo.cause = some 0x10))
    ∧ (let w := sReg (pReg wk 1 1) 5 0x1001
       let o := opAt .b4 0
       (∀ i ∈ [Instr.atom p1 o, .cas p1 o], readyB i w = true ∧ (checkLanes (on base w) w o true 4 (lanesAt i w o)).map TrapInfo.cause = some 0x12)
       ∧ readyB (.satom u15 o) w = true ∧ (checkLanes (on base w) w o true 4 (loneAt (.satom u15 o) w o)).map TrapInfo.cause = some 0x12)
    ∧ (let o := plainM 5 .lab .b4
       let i := Instr.ld p1 o
       readyB i (pReg wk 1 1) = true ∧ (checkLanes (on base (pReg wk 1 1)) (pReg wk 1 1) o false 4 (lanesAt i (pReg wk 1 1) o)).map TrapInfo.cause = some 0x11)
    ∧ (let w := sReg (bm (pReg wk 1 1)) 5 2
       ∀ i ∈ [Instr.ldc p1 opCb, .stc p1 opCb], readyB i w = true ∧ heldAccess (on (banded base) w) w 4 (lanesAt i w opCb) = false
         ∧ (checkLanes (on (banded base) w) w opCb false 4 (lanesAt i w opCb)).map TrapInfo.cause = some 0x12)
    ∧ (let s := on (banded base) (bm wk)
       let o := plainM 5 .lab .b4
       laneCheck s (bm wk) o false 4 0xFFC = none ∧ laneCheck s (bm wk) o false 4 0xFFD = some 0x11 ∧ laneCheck s (bm wk) o false 4 (2 ^ 20 - 3) = some 0x10
         ∧ inWindows (windows s (bm wk) 0) 0xFFC 4 = true)
    ∧ (let w : Wick := { wk with info := { wk.info with cbase := BitVec.ofNat 64 (2 ^ 57 - 16), clen := 64 } }
       let o := plainM 5 .cst .b4
       laneCheck base w o false 4 12 = none ∧ laneCheck base w o false 4 16 = some 0x10 ∧ laneCheck base w o false 4 64 = none) := by decide +kernel
/-- The context with a register set. -/
def ctxSet (s : State) (n : Nat) (x : Word) : State := { s with ctxs := s.ctxs.map (fun (c : Ctx) => { c with regs := c.regs.setIfInBounds n x }) }
/-- The first address that no leaf maps, with no fault ring, and with one of one record that is full. -/
theorem wit_FaultingLoadLogged :
    (let o := plainM 5 .glob .b4
     let i := Instr.ld p1 o
     let w := wEnd 0
     readyB i w = true ∧ w.trap.sl = false ∧ w.books.svc = none ∧ w.inAccess = false ∧ narrow o.d.toNat = false
       ∧ passesB i (on base w) w o false (lanesAt i w o) = true ∧ reachesB i (on base w) w o (accOf o 0 0) (lanesAt i w o) = false
       ∧ w.freeLog = some 0) ∧ base.ringFull 0 1 = false ∧ (memAt (ctxSet (ctxSet base 4 0x7000) 5 1) 0x7000 8 1).ringFull 0 1 = true := by decide +kernel
def opTx : OpM := ⟨0, 255, 5, 2, .glob, .b1, .plain, .relaxed, false, false, false, 0, 0⟩
/-- ICINV of each scope, of a range and of everything; TXI of one register and of all; TXL at 0, at the page's last byte and at 2^57. -/
theorem wit_TranslationForms :
    (∀ sc ∈ [Scope.core, .cluster, .device], readyB (.icinv u15 { plainM 5 .glob .b1 with d := 6, sc := sc }) wm = true
        ∧ readyB (.icinv ⟨1, false, 15⟩ { plainM 0 .glob .b1 with d := 0, sc := sc }) wm = true)
    ∧ readyB (.txi u15 { opTx with s := 0 }) wk = true ∧ readyB (.txi ⟨1, false, 15⟩ { opTx with s := 0, tx := 7 }) wk = true
    ∧ (wk.cx 0 (.txi u15 opTx)).act ≠ 0
    ∧ (∀ a ∈ [0, 0x7FFFF], let w := sReg wk 5 (BitVec.ofNat 64 a)
        readyB (.txl u15 opTx) w = true ∧ w.touchesLog [(a, 1)] = false ∧ (xlateWalk (on base w) 0 false ⟨0, 0, 0⟩ a).1.toOption.isSome = true)
    ∧ readyB (.txl u15 opTx) (sReg wk 5 (BitVec.ofNat 64 (2 ^ 57))) = true
    ∧ (∀ i ∈ [Instr.icinv p1 { plainM 5 .glob .b1 with d := 6 }, .txi p1 opTx, .txl p1 opTx],
        i.legal = true → readyB i (pReg wk 1 0) = true ∧ ((pReg wk 1 0).cx 0 i).act = 0) := by decide +kernel
/-- Each condition met and not; an LDQ in the slice and outside it, with seven entries and with eight. -/
theorem wit_WaitAndQueueLoad :
    (∀ n ∈ [(0 : BitVec 4), 1, 2, 3, 4, 5], readyB (.waitm ⟨n, false, 15⟩ (opAt .b4 0)) wm = true)
    ∧ (let i := Instr.waitm u15 (opAt .b4 0)
       (wm.cx 0 i).act ≠ 0 ∧ passesB i (on base wm) wm (opAt .b4 0) false (loneAt i wm (opAt .b4 0)) = true
         ∧ resolvesB i (on base wm) wm (opAt .b4 0) (accOf (opAt .b4 0) 0 0) = true)
    ∧ (on base wm).mem.read (keyLocal 0x201000) 4 = 0 ∧ (wm.rdS 0 4).toNat = 0 ∧ ((sReg wm 4 1).rdS 0 4).toNat = 1
    ∧ (let o := { plainM 5 .glob .b4 with d := 3 }
       let i := Instr.ldq u15 o
       let w (n : Nat) : Wick := inSlice (qpSet wm 3 (List.replicate n e0))
       readyB i wm = true ∧ wm.inAccess = false
         ∧ readyB i (w 8) = true ∧ ((w 8).books.qp[3]?.getD []).length = 8
         ∧ readyB i (w 7) = true ∧ ((w 7).books.qp[3]?.getD []).length = 7
         ∧ checkLanes (on base (w 7)) (w 7) o false 4 (lanesAt i (w 7) o) = none
         ∧ reachesB i (on base (w 7)) (w 7) o (accOf o 0 0) (lanesAt i (w 7) o) = true) := by decide +kernel

/-! Copies, quantisation and barriers -/

/-- A shape record: four elements of four bytes a row, rows rows. -/
def shapeNum (base rows space : Nat) : Nat :=
  base + (4 + (if rows = 1 then 0 else rows * 2 ^ 32)) * 2 ^ 64 + (4 + (if rows = 1 then 0 else 16 * 2 ^ 32)) * 2 ^ 224
    + (2 + (if rows = 1 then 1 else 2) * 8 + space * 64 + 7 * 2 ^ 16) * 2 ^ 448
/-- Records of the two sides at 0x1000 and 0x1080, a row mask or list at 0x1100, and a wick that names them in s2, s3 and s4. -/
def copyState (rows dst : Nat) : State := memAt (memAt (memAt (banded base) 0x1000 64 (shapeNum 0x2000 rows 0)) 0x1080 64 (shapeNum 0 rows dst)) 0x1100 8 1
def wc (aux : Word) : Wick := sReg (sReg (sReg (bm wk) 2 0x1000) 3 0x1080) 4 aux
def opCpy (c : BitVec 8) (flags : BitVec 15) : OpX := ⟨1, 2, 3, c, flags, 0⟩
/-- The conditions of an accepted copy. -/
def copyB (i : Instr) (k : CopyForm) (o : OpX) (s : State) (w : Wick) : Bool :=
  let s := on s w
  let cx := w.cx 0 i
  let x := (w.rdS 0 o.c.toNat).toNat
  match copyRights s w o, s.record w cx 0x1000 64 with
  | .inr b, some (s1, r1) => match s1.record w cx 0x1080 64 with
    | some (s2, r2) =>
      let src := parseShape r1
      let dst := parseShape r2
      match (if k = .gather ∨ k = .scatter then s2.record w cx x (auxLen k src) else some (s2, x)) with
      | some (s3, aux) =>
        let c := { mkCopy s3 w o k b src dst aux with list := x }
        readyB i w && cx.act != 0 && decide ((s.openCopies (chanOf w o)).length < 64)
          && shapeOk r1 && shapeOk r2 && src.esz == dst.esz && !txInvalid w dst && decide (shapeBytes dst ≤ 2 ^ 36)
          && (k != .multicast || (dst.space == 2 && aux &&& (s3.retired[w.info.cluster]?.getD 0).toNat == 0))
          && (rangeCheck b (if k = .scatter then { c with rows := some (listRows src aux) } else c)).isNone
          && (match c.arrive with
            | some n => decide ((b.barriers[n]?.getD {}).isst < (b.barriers[n]?.getD {}).expt)
            | none => !o.flags.getLsbD 4)
          && (match c.callback with
            | some (hd, _) => s3.handleValid c.ctx hd && s3.refRoom c.ctx hd 1
            | none => !o.flags.getLsbD 10)
      | none => false
    | none => false
  | _, _ => false
/-- The state of the copies with a barrier that expects one of them, and with a closure in k4. -/
def copyMore : State := { copyState 1 2 with
  bands := [{ band0 with barriers := band0.barriers.setIfInBounds 0 { expt := 1 } }],
  env := [{ core := 0, entry := 0, refcnt := 1, used := true, ownlive := true, owner := 1 }] }
theorem wit_CopyIssue :
    copyB (.cpy u15 (opCpy 0 0)) .plain (opCpy 0 0) (copyState 1 2) (wc 0) = true
    ∧ copyB (.cpy u15 (opCpy 0 0)) .plain (opCpy 0 0) (copyState 1 0) (wc 0) = true
    ∧ copyB (.cpy u15 (opCpy 0 0x10)) .plain (opCpy 0 0x10) copyMore (wc 0) = true
    ∧ copyB (.cpy u15 (opCpy 0 0x2400)) .plain (opCpy 0 0x2400) copyMore ((wc 0).wrK 4 (mkHandle 0 0 0 1)) = true
    ∧ copyB (.cpyg u15 (opCpy 4 0)) .gather (opCpy 4 0) (copyState 2 2) (wc 0x1100) = true
    ∧ copyB (.cpys u15 (opCpy 4 0)) .scatter (opCpy 4 0) (copyState 2 2) (wc 0x1100) = true
    ∧ copyB (.cpym u15 (opCpy 4 0)) .multicast (opCpy 4 0) (copyState 1 2) (wc 1) = true
    ∧ copyB (.cpym u15 (opCpy 4 0)) .multicast (opCpy 4 0) (copyState 1 2) (wc 0) = true := by decide +kernel
/-- The producer of no band, no band in the slot, a band the wick is not the producer of, and 64 copies outstanding. -/
theorem wit_CopyRights :
    readyB (.cpy u15 (opCpy 0 0)) wk = true ∧ producer (on base wk) wk = false
    ∧ producer (on (banded base) (bm wk)) (bm wk) = true ∧ slotBand (bm wk) (opCpy 0 4) = none ∧ readyB (.cpy u15 (opCpy 0 4)) (bm wk) = true
    ∧ (let s : State := { base with bands := [band0, { band0 with uid := 8, prod := 1 }] }
       let w : Wick := { wk with info := { wk.info with bands := [⟨9, 0⟩, ⟨8, 0⟩] } }
       producer (on s w) w = true ∧ ((slotBand w (opCpy 0 4)).bind (fun r => (on s w).findBand r.band)).map (fun b => b.prod != 0) = some true)
    ∧ (let c : Copy := { chan := 0, seq := 1, uid := 1, pkt := 0, rank := 0, ctx := 0, cluster := 0, core := 0, band := 9, batch := 1,
                         src := parseShape (shapeNum 0x2000 1 0), dst := parseShape (shapeNum 0 1 2) }
       let s : State := { banded base with copies := List.replicate 64 c }
       64 ≤ ((on s (bm wk)).openCopies (chanOf (bm wk) (opCpy 0 0))).length) := by decide +kernel

def aCopy (batch : Nat) (done : Bool) : Copy :=
  { chan := 0, seq := 1, uid := 1, pkt := 0, rank := 0, ctx := 0, cluster := 0, core := 0, band := 9, batch := batch, done := done,
    src := parseShape (shapeNum 0x2000 1 0), dst := parseShape (shapeNum 0 1 2) }
def withCopies (s : State) (l : List Copy) : State := { s with copies := l }
/-- A wick that has sealed n batches. -/
def sealed (w : Wick) (n : Nat) : Wick := { w with books := { w.books with batch := BitVec.ofNat 32 (n + 1), lastSeal := BitVec.ofNat 32 n } }
def quantNum : Nat := (1 * 2 ^ 192) + 32 * 2 ^ 224
/-- Fifteen open batches and sixteen, a batch done and one open, a write pointer at its count and behind it, an idle channel; a good
quantisation record and a bad one, a command done, one running and a token of none. -/
theorem wit_BatchAndQuantForms :
    (∀ i ∈ instrs wordsCopies, readyB i (pReg wk 2 1) = true)
    ∧ (let w := sealed wk 16
       openBatches (on (withCopies base ((List.range 15).map (fun n => aCopy (n + 1) false))) w) w = 15
         ∧ openBatches (on (withCopies base ((List.range 16).map (fun n => aCopy (n + 1) false))) w) w = 16)
    ∧ batchesDone (withCopies base [aCopy 1 true]) 1 1 = true ∧ batchesDone (withCopies base [aCopy 1 false]) 1 1 = false
    ∧ ((on base wk).chan 0).wp = 0 ∧ ((on base wk).chan 0).wp < ((sReg wk 7 1).rdS 0 7).toNat
    ∧ (on (banded base) (bm wk)).openCopies 0 = [] ∧ (copyRights (on (banded base) (bm wk)) (bm wk) (opCpy 0 0)).isRight = true
    ∧ (let w := sReg wk 2 0x1000
       let i := Instr.qsub u15 ⟨1, 2, 0, 0, 0, 0⟩
       readyB i w = true
         ∧ (((on (memAt base 0x1000 64 quantNum) w).record w (w.cx 0 i) 0x1000 64).map (fun x => quantOk x.2)) = some true
         ∧ (((on base w).record w (w.cx 0 i) 0x1000 64).map (fun x => quantOk x.2)) = some false)
    ∧ (let q : Quant := { cluster := 0, seq := 1, pkt := 0, rank := 0, uid := 1, ctx := 0, record := quantNum }
       ([q].find? (fun q => q.cluster == 0 && q.seq == 1)).map Quant.done = some false
         ∧ ([{ q with done := true }].find? (fun q => q.cluster == 0 && q.seq == 1)).map Quant.done = some true)
    ∧ (let ours (va seq : Nat) : Prop := va / 2 ^ 48 % 8 = 0 ∧ va / 2 ^ 51 % 2 ^ 13 = 0 ∧ 0 < va % 2 ^ 48 ∧ va % 2 ^ 48 ≤ seq
       ours 1 1 ∧ ¬ ours 0 1 ∧ ¬ ours 2 1 ∧ ¬ ours (1 + 2 ^ 48) 1 ∧ ¬ ours (1 + 2 ^ 51) 1) := by decide +kernel
def bandBar (x : Barrier) : Band := { band0 with barriers := band0.barriers.setIfInBounds 0 x }
def barS (x : Barrier) : State := { base with bands := [bandBar x] }
/-- LASTARR of barrier 0 of slot 0. -/
def arrived (w : Wick) (p : Word) : Wick := { w with books := { w.books with lastArr := w.books.lastArr.setIfInBounds 0 p } }
/-- A converged wick and a split one; EXPW 1, 256, 0 and 257; arrivals in and not; a phase waited for that is over and one that is open. -/
theorem wit_BarrierForms :
    (∀ i ∈ [Instr.binit u15 ⟨0, 7, 0, 0, 0, 0⟩, .barv u15 ⟨0, 0, 0, 0, 0, 0⟩, .bwait u15 ⟨0, 0, 0, 0, 0, 0⟩, .btest u15 ⟨3, 0, 0, 0, 0, 0⟩,
        .btest ⟨1, false, 15⟩ ⟨3, 0, 0, 0, 0, 0⟩, .btest ⟨2, false, 15⟩ ⟨3, 0, 0, 0, 0, 0⟩],
       readyB i (bm wk) = true ∧ wickWide (bm wk) ((bm wk).cx 0 i) = true)
    ∧ (let w := bm (splitAt 0)
       readyF (.barv u15 ⟨0, 0, 0, 0, 0, 0⟩) w 1 = true ∧ wickWide w (w.cx 1 (.barv u15 ⟨0, 0, 0, 0, 0, 0⟩)) = false)
    ∧ slotBand (bm wk) ⟨0, 0, 0, 0, 0, 0⟩ = some ⟨9, 0⟩ ∧ ((barS {}).findBand 9).isSome = true
    ∧ (bm wk).lastArr 0 = none ∧ ({ expw := 2 } : Barrier).arrw ≠ ({ expw := 2 } : Barrier).expw ∧ ({ arrw := 1 } : Barrier).arrw = ({ arrw := 1 } : Barrier).expw
    ∧ (arrived (bm wk) 0).lastArr 0 = some 0
    ∧ waitedPhase (arrived (bm wk) 0) 0 0 { phase := 1 } = 0 ∧ waitedPhase (bm wk) 0 0 { phase := 1 } = 1
    ∧ (1 : Nat) ≤ 256 % 2 ^ 9 ∧ ¬ (1 : Nat) ≤ 0 % 2 ^ 9 ∧ ¬ 257 % 2 ^ 9 ≤ 256 := by decide +kernel
theorem wit_BarrierPhase : (let b : Barrier := { arrw := 1 }
      b.arrw = b.expw ∧ b.arrt = b.expt)
    ∧ (let b : Barrier := {}
       ¬ (b.arrw = b.expw ∧ b.arrt = b.expt)) := by decide +kernel

/-! Closures, user interrupts and services -/

/-- An entry of the environment store with n references, and its handle. -/
def entry (n : Nat) : EnvEntry := { core := 0, entry := 0, refcnt := n, used := true, ownlive := true, owner := 1, slots := [7, 8], vecs := [.u 5] }
def envS (x : EnvEntry) : State := { base with env := [x] }
def hd0 : Word := mkHandle 0 0 0 1
def kReg (w : Wick) (n : Nat) (x : Word) : Wick := w.wrK n x
/-- A capture with an entry free, with 224 bytes and with none free. -/
theorem wit_CaptureForm :
    (let i := Instr.capt u15 ⟨3, 4, 5, 6, 0, 0⟩
     readyB i wk = true ∧ (wk.cx 0 i).act ≠ 0 ∧ ((List.range 512).find? (fun e => !((on base wk).envAt 0 e).used)) = some 0)
    ∧ (let o : OpX := ⟨3, 4, 0, 6, 0x1FF, 0⟩
       let w := wk.putV 4 (.g (Vector.replicate 32 1))
       readyB (.capt u15 o) w = true ∧ runOk w 4 1 = true ∧ 8 * ((captScalars w 0 0xFF).length + ([w.rdV 4].flatMap VReg.slots).length) ≤ 224) := by
  decide +kernel
/-- An environment store whose 512 entries are all in use. -/
def usedAt (n : Nat) : EnvEntry := { entry 1 with entry := n }
def filled (l : List Nat) : State := { base with env := l.map usedAt }
theorem filled_full (l : List Nat) : l.find? (fun e => !((on (filled l) wk).envAt 0 e).used) = none := by
  refine List.find?_eq_none.mpr fun e he => ?_
  have hm : ∃ x ∈ (filled l).env, (x.core == 0 && x.entry == e) = true :=
    ⟨usedAt e, List.mem_map_of_mem he, by simp [usedAt, entry]⟩
  cases hf : (filled l).env.find? (fun x => x.core == 0 && x.entry == e) with
  | none =>
    obtain ⟨x, hx, hp⟩ := hm
    exact absurd hp (List.find?_eq_none.mp hf x hx)
  | some x =>
    have hu : x.used = true := by
      obtain ⟨n, -, rfl⟩ := List.mem_map.mp (List.mem_of_find?_eq_some hf)
      rfl
    have h2 : (on (filled l) wk).envAt 0 e = x := by
      unfold State.envAt
      rw [show (on (filled l) wk).env = (filled l).env from rfl, hf, Option.getD_some]
    simp [h2, hu]
theorem wit_CaptureFull : (List.range 512).find? (fun e => !((on (filled (List.range 512)) wk).envAt 0 e).used) = none := filled_full _
/-- Depths 15 and 16, a valid handle, none, and one whose frame is gone; lanes of one closure with room in the pool and without. -/
theorem wit_ApplyForms :
    (let i := Instr.apply u15 ⟨9, 4, 0, 0, 0, 0⟩
     let w := kReg wk 4 hd0
     readyB i w = true ∧ wickWide w (w.cx 0 i) = true ∧ (w.frag 0).cd < 16 ∧ ((atDepth 16 w).frag 0).cd = 16
       ∧ (on (envS (entry 1)) w).handleFault 0 hd0 true = none ∧ (on (envS (entry 1)) w).refRoom 0 hd0 1 = true
       ∧ (checkTarget (on (envS (entry 1)) w) 0 0 false 0).1 = .ok
       ∧ (on base w).handleValid 0 hd0 = false
       ∧ (on (envS { entry 1 with byref := true, ownlive := false }) w).handleValid 0 hd0 = true
       ∧ (on (envS { entry 1 with byref := true, ownlive := false }) w).dangling { entry 1 with byref := true, ownlive := false } = true)
    ∧ (let o : OpX := ⟨0, 4, 0, 0, 0, 0⟩
       let i := Instr.applyV ⟨1, false, 15⟩ o
       let w := (wk.putV 4 (.u (hd0.setWidth 32))).putV 5 (.u 1)
       let c := (envS (entry 1)).ctxs.map (fun (c : Ctx) => { c with regs := (c.regs.setIfInBounds 9 0x8000).setIfInBounds 10 64 })
       let s : State := { envS (entry 1) with ctxs := c }
       readyB i w = true ∧ (w.cx 0 i).act ≠ 0 ∧ liveMaskOk w 0 = true ∧ (applyVCheck (on s w) 0 (pairHandle w o) (lanesOf (w.cx 0 i).act)).isNone = true
         ∧ ((on s w).pushConts w (lanesOf (w.cx 0 i).act) 4 (fun _ => 12) (pairHandle w o) 0).isSome = true
         ∧ ((on (envS (entry 1)) w).pushConts w (lanesOf (w.cx 0 i).act) 4 (fun _ => 12) (pairHandle w o) 0).isSome = false) := by decide +kernel
/-- A valid handle with room and at 65535 references, no handle, the zero handle; the slots 0 to 2 and the vector 0 of the closure in k15. -/
theorem wit_HandleForms :
    (∀ i ∈ [Instr.kdup u15 ⟨3, 4, 0, 0, 0, 0⟩, .krel u15 ⟨0, 4, 0, 0, 0, 0⟩, .kmov u15 ⟨3, 4, 0, 0, 0, 0⟩, .kmov u15 ⟨4, 4, 0, 0, 0, 0⟩,
        .kmov ⟨1, false, 15⟩ ⟨3, 4, 0, 0, 0, 0⟩, .kmov ⟨2, false, 15⟩ ⟨3, 4, 0, 0, 0, 0⟩, .kld u15 ⟨3, 0, 0, 0, 0, 2⟩, .kld ⟨1, false, 15⟩ ⟨3, 0, 0, 0, 0, 0⟩,
        .kref u15 ⟨3, 0, 0, 0, 0, 0⟩], readyB i wk = true ∧ (wk.cx 0 i).act ≠ 0)
    ∧ (envS (entry 1)).handleValid 0 hd0 = true ∧ (envS (entry 0xFFFE)).refRoom 0 hd0 1 = true ∧ (envS (entry 0xFFFF)).refRoom 0 hd0 1 = false
    ∧ base.handleValid 0 hd0 = false ∧ (entry 1).allSlots[2]? = some 5 ∧ (entry 1).allSlots[3]? = none ∧ (entry 1).vecs[0]? = some (.u 5)
    ∧ (envS { entry 1 with byref := true }).handleFault 0 hd0 true = none := by decide +kernel
/-- One reference and two, and GEN at its last value. -/
theorem wit_ReferenceCounts : (envS (entry 1)).handleValid 0 hd0 = true ∧ ((envS (entry 1)).handleEntry 0 hd0).refcnt = 1
    ∧ ((envS (entry 2)).handleEntry 0 hd0).refcnt = 2
    ∧ (let x := { entry 1 with gen := 0xFFFF }
       (envS x).handleValid 0 (mkHandle 0 0 0 0xFFFF) = true ∧ x.gen + 1 = 0)
    ∧ hEntry (mkHandle 1 0 0 1) ≠ hEntry hd0 := by decide +kernel
/-- The context with its interrupt block at 0x3000, in which a word stands. -/
def uiS (off v : Nat) : State := memAt (ctxSet base 0x0D 0x3000) (0x3000 + off) 8 v
def okE {α : Type} (r : Except EErr (α × State)) (p : α → Bool) : Bool := match r with
  | .ok (x, _) => p x
  | .error _ => false
/-- The context's interrupt block translates and is well formed. -/
def goodBlock (b : Nat) : Bool := fld b 376 7 == 0 && fld b 513 1535 == 0 && fld b 6144 2048 == 0
def leafB (s : State) (c : Nat) (k : Walk) : Bool :=
  (tlbFor s c (s.uiBlock c)).all (fun t => (⟨t.lvl, t.entry, t.ent⟩ : Walk) == k)
    && (s.leafFault c true ⟨0, 0, 0⟩ k).isNone && (s.leafFault c true ⟨1, 0, 0⟩ k).isNone && k.entry &&& 0x3000 == 0x3000
    && goodBlock (s.mem.read (leafKey (s.pasidOf c) k (s.uiBlock c)) 1024)
def blockB (s : State) (c : Nat) : Bool := (s.walkOf c (s.uiBlock c)).toOption.any (leafB s c)
theorem goodBlock_iff (b : Nat) : goodBlock b = true → fld b 376 7 = 0 ∧ fld b 513 1535 = 0 ∧ fld b 6144 2048 = 0 := by
  simp only [goodBlock, Bool.and_eq_true, beq_iff_eq]
  exact fun h => ⟨h.1.1, h.1.2, h.2⟩
theorem okOf {ε α : Type} {r : Except ε α} {k : α} (h : r.toOption = some k) : r = .ok k := by
  cases r with
  | ok x => cases h; rfl
  | error e => cases h
theorem blockReady {s : State} {c : Nat} (hp : s.uiBlock c % 2 ^ 19 + 1024 ≤ 2 ^ 19) (h : blockB s c = true) (h0 : s.findRun 0 = none) :
    ∃ k, BlockReady s 0 c k := by
  obtain ⟨k, hk, h⟩ := (Option.any_eq_true _ _).mp h
  simp only [leafB, Bool.and_eq_true, beq_iff_eq, Option.isNone_iff_eq_none, List.all_eq_true] at h
  exact ⟨k, ⟨hp, okOf hk, h.1.1.1.1, h.1.1.1.2, h.1.1.2, h.1.2⟩, goodBlock_iff _ h.2, fun a _ _ => by simp [State.inTarget, h0]⟩
/-- A fragment's wait for the answer of a send. -/
def waitSend (x : Option (Option Bool)) : Wick := wk.modWait 0 (fun y => { y with send := x })
/-- A block with a vector pending, masked and not, in service and not, of the lamplighter and of none; a send not made, made and answered. -/
theorem wit_UserInterruptForms :
    (∀ i ∈ [Instr.uimask u15 ⟨1, 2, 0, 0, 0, 0⟩, .uimask ⟨1, false, 15⟩ ⟨1, 2, 0, 0, 0, 0⟩, .uimask ⟨2, false, 15⟩ ⟨1, 2, 0, 0, 0, 0⟩,
        .uimaskClaim ⟨3, false, 15⟩ ⟨1, 0, 0, 0, 0, 0⟩, .uipendTake u15 ⟨1, 0, 2, 0, 0, 0⟩, .uipendPeek ⟨1, false, 15⟩ ⟨1, 0, 0, 0, 0, 0⟩,
        .uisend u15 ⟨1, 2, 3, 4, 0, 0⟩, .uiret u15 ⟨0, 0, 0, 0, 0, 0⟩, .uiwait u15 ⟨0, 0, 0, 0, 0, 0⟩],
      readyB i wk = true ∧ (wk.cx 0 i).act ≠ 0 ∧ readyB i (pReg wk 0 0) = true)
    ∧ okE (uiRd wk.uiAcc 0x3000 8 (on (uiS 8 5) wk)) (· == 5) = true ∧ okE (uiRd wk.uiAcc 0x3000 0 (on (uiS 0 0x8000000000000000) wk)) (fun x => x.testBit 63) = true
    ∧ isLamplighter wk (2 ^ 63) = true ∧ isLamplighter wk 0 = false ∧ okE (uiRd wk.uiAcc 0x3000 40 (on (uiS 40 (2 ^ 63)) wk)) (isLamplighter wk) = true
    ∧ (wk.frag 0).uiWait = false ∧ ((wk.modFrag 0 (fun g => { g with uiWait := true })).frag 0).uiWait = true
    ∧ (wk.frag 0).wait.send = none ∧ (∀ x ∈ [none, some true, some false], ((waitSend (some x)).frag 0).wait.send = some x
        ∧ readyB (.uisend u15 ⟨1, 2, 3, 4, 0, 0⟩) (waitSend (some x)) = true)
    ∧ ((waitSend (some (some true))).frag 0).wait.sendMalf = none
    ∧ (let w := (waitSend (some (some false))).modWait 0 (fun y => { y with sendMalf := some 0x3000 })
       (w.frag 0).wait.sendMalf = some 0x3000 ∧ (w.frag 0).wait.send = some (some false) ∧ readyB (.uisend u15 ⟨1, 2, 3, 4, 0, 0⟩) w = true)
    ∧ ((sReg wk 3 63).rdS 0 3).toNat < 64 ∧ ¬ ((sReg wk 3 64).rdS 0 3).toNat < 64
    ∧ ((sReg wk 2 0xFFF0001).rdS 0 2).toNat / 2 ^ 16 % 2 ^ 12 = 0xFFF ∧ ((sReg wk 2 0xFFF0001).rdS 0 2).toNat < 2 ^ 28 ∧ base.cfg.job = false
    ∧ (wk.rdS 0 2).toNat / 2 ^ 16 % 2 ^ 12 ≠ 0xFFF := by decide +kernel
theorem wit_UserInterruptForms_inService :
    (∀ s ∈ [uiS 64 1], (on s wk).uiBlock 0 % 2 ^ 19 + 1024 ≤ 2 ^ 19 ∧ blockB (on s wk) 0 = true ∧ (on s wk).findRun 0 = none
        ∧ (on s wk).isStopped 0 1 = false ∧ wk.touchesLog [((on s wk).uiBlock 0, 1024)] = false)
    ∧ okE (swapInsvc wk.uiAcc 0x3000 1 0 (on (uiS 64 1) wk)) (· == true) = true := by decide +kernel
theorem wit_UserInterruptForms_idle :
    (∀ s ∈ [memAt (uiS 0 (2 ^ 63)) 0x3028 8 (2 ^ 63)], (on s wk).uiBlock 0 % 2 ^ 19 + 1024 ≤ 2 ^ 19 ∧ blockB (on s wk) 0 = true ∧ (on s wk).findRun 0 = none
        ∧ (on s wk).isStopped 0 1 = false ∧ wk.touchesLog [((on s wk).uiBlock 0, 1024)] = false)
    ∧ okE (swapInsvc wk.uiAcc 0x3000 1 0 (on (uiS 64 0) wk)) (· == false) = true := by decide +kernel
theorem wit_DeliverySaves : (wk.frag 0).uiWait = false ∧ ((splitAt 0).modFrag 2 (fun g => { g with uiWait := true })).frag 2 ≠ (splitAt 0).frag 2 := by
  decide +kernel
def svcS : State := ctxSet (ctxSet base 0x0B 0x3000) 0x0C 4
def callAt (w : Wick) (p : Word) : Wick := { w with books := { w.books with svc := some ⟨1, 9, some p, 1, 0⟩, reply := some 7 } }
/-- A ring with room and one without; a waiting call with a reply and without; a reply that agrees with the prediction and one that does not. -/
theorem wit_ServiceForms :
    (∀ o ∈ [(⟨1, 0, 0, 0, 0, 9⟩ : OpX), ⟨1, 0, 3, 0, 1, 9⟩, ⟨1, 0, 0, 0, 2, 9⟩], readyB (.svc u15 o) wk = true ∧ (wk.cx 0 (.svc u15 o)).act ≠ 0)
    ∧ (wk.frag 0).wait.svc = none ∧ okE (sendRequest (on svcS wk) wk.uiAcc (svcRequest wk 0 9 1) (on svcS wk)) id = true
    ∧ okE (sendRequest (on (memAt svcS 0x3000 8 4) wk) wk.uiAcc (svcRequest wk 0 9 1) (on (memAt svcS 0x3000 8 4) wk)) not = true
    ∧ (let w (r : Option Word) : Wick := wk.modFrag 0 (fun g => { g with wait := { g.wait with svc := some (⟨1, 9, none, 1, 0⟩, r) } })
       readyB (.svc u15 ⟨1, 0, 0, 0, 2, 9⟩) (w none) = true ∧ readyB (.svc u15 ⟨1, 0, 0, 0, 2, 9⟩) (w (some 7)) = true)
    ∧ readyB (.svcw u15 ⟨0, 0, 0, 0, 0, 0⟩) wk = true
    ∧ (∀ i ∈ [Instr.svc ⟨0, false, 1⟩ ⟨1, 0, 0, 0, 0, 9⟩, .svcw ⟨0, false, 1⟩ ⟨0, 0, 0, 0, 0, 0⟩], readyB i wk = true ∧ (wk.cx 0 i).act = 0)
    ∧ (callAt wk 7).books.held = none
    ∧ (callAt wk 7).books.reply = some 7 ∧ ((callAt wk 7).books.svc.bind SvcCall.pred) = some 7 ∧ ((callAt wk 8).books.svc.bind SvcCall.pred) = some 8
    ∧ (({ base with snaps := [wk] } : State).snaps.find? (fun x => x.info.uid == (callAt wk 8).info.uid)).isSome = true := by decide +kernel

/-! The entity store -/

def pk (id body : Nat) (l : Option Launch) : Packet :=
  { id := id, die := 0, queue := 0, n := 0, part := 0, ctx := 0, pasid := 0, cap := 0, priv := false, msix := 0, crbase := 0, crsize := 0, body := body,
    lseq := 0, launch := l }
def la (record : Nat) : Launch := { record := record }
def launched (s : State) (record : Nat) : State := { s with packets := [pk 0 1 (some (la record))] }
/-- A world of two components and one table with one column, at 0x8000. -/
def worldNum : Nat := 2 * 2 ^ 8 + 1 * 2 ^ 24 + 0x9000 * 2 ^ 64 + 64 * 2 ^ 128 + 0xA000 * 2 ^ 256 + 0xA800 * 2 ^ 320 + 0xB000 * 2 ^ 384 + 0xC000 * 2 ^ 448
  + 64 * 2 ^ 512 + 0xE000 * 2 ^ 576 + 64 * 2 ^ 640
def tableNum : Nat := 1 + 0xB800 * 2 ^ 64 + 0x10000 * 2 ^ 128 + 0x12000 * 2 ^ 192 + 32 * 2 ^ 256
def worldS : State :=
  launched (memAt (memAt (memAt base 0x8000 256 worldNum) 0xB000 64 tableNum) 0xB800 16 (0x14000 * 2 ^ 64)) (0x8000 * 2 ^ 640)
/-- The wick with one lane in p1. -/
def we : Wick := sReg (pReg wk 1 1) 2 0
def world (s : State) (p : World → State → Bool) : Bool := match readWorld ⟨0, false, 0⟩ (worldAddr s we) s with
  | .ok (x, t) => p x t
  | .error _ => false
def laneOk (f : World → EM α) (x : World) (t : State) : Bool := match eLanes (fun _ => f x) [0] t [] [] with
  | .ok (u, _, []) => (u.findWick 1).isSome
  | _ => false
theorem wit_EntityForms :
    (∀ i ∈ [Instr.ecrt p1 ⟨8, 12, 0, 0, 0, 0⟩, .edel p1 ⟨8, 12, 0, 0, 0, 0⟩, .eadd p1 ⟨8, 12, 5, 0, 0, 0⟩, .erem p1 ⟨8, 12, 5, 0, 0, 0⟩,
        .hres p1 ⟨8, 12, 5, 3, 0, 0⟩, .estat p1 ⟨8, 12, 0, 0, 0, 0⟩, .ecol p1 ⟨1, 2, 3, 0, 0, 0⟩, .eqry p1 ⟨1, 2, 3, 0, 0, 0⟩, .ecnt p1 ⟨1, 2, 0, 0, 0, 0⟩],
       i.legal = true → readyB i we = true ∧ (we.cx 0 i).act ≠ 0)
    ∧ (∀ i ∈ [Instr.ecrt p1 ⟨8, 12, 0, 0, 0, 0⟩, .edel p1 ⟨8, 12, 0, 0, 0, 0⟩, .eadd p1 ⟨8, 12, 5, 0, 0, 0⟩, .erem p1 ⟨8, 12, 5, 0, 0, 0⟩,
        .hres p1 ⟨8, 12, 5, 3, 0, 0⟩, .estat p1 ⟨8, 12, 0, 0, 0, 0⟩, .ecol p1 ⟨1, 2, 3, 0, 0, 0⟩, .ecnt p1 ⟨1, 2, 0, 0, 0, 0⟩], i.legal = true)
    ∧ worldAddr (on base we) we = 0 ∧ worldAddr (on worldS we) we = 0x8000 := by decide +kernel
/-- Nothing is logged for the wick, so it touches no logged byte. -/
theorem wit_EntityForms_clear : ∀ rs, we.touchesLog rs = false := by
  have h : we.books.log.toList.all (fun e => !e.valid) = true := by decide +kernel
  intro rs
  simp only [List.all_eq_true, Bool.not_eq_true'] at h
  exact List.any_eq_false.mpr fun e he => by simp [h e he]
theorem wit_EntityForms_lanes :
    world (on worldS we) (fun x t => decide (x.ncomp = 2) && laneOk (fun x => createLane x (fun n hd => laneChange (on worldS we) we 0 0 n hd 0)) x t
        && laneOk (fun x => changeLane x (fun n => laneChange (on worldS we) we 1 0 n 0 0)) x t && laneOk (fun x => hresLane x false 0 0) x t
        && laneOk (fun x => estatLane x 0) x t && okE (readDesc x 0 t) (fun tb => tb.cap == 32) && okE (findCol x 0 0 t) Option.isSome && okE (readQuery x 0x1000 t) (fun q => q.req.isEmpty)
        && okE (x.get 88 t) (fun v => v == 0)) = true := by decide +kernel

/-! The matrix engine -/

/-- 128 by 128 with four K-blocks of 32, and the operands' offsets. -/
def mmaShape : Nat := 8 + 8 * 16 + 4 * 256
def wmx (x : Nat) : Wick := sReg (bm wk) 4 (BitVec.ofNat 64 x)
def bigBand : Band := { band0 with win := 256, members := List.range 16, place := 1 }
def mxS : State := { base with bands := [bigBand] }
theorem wit_MatrixForms :
    (∀ i ∈ instrs wordsMatrix, readyB i (wmx mmaShape) = true ∧ wickWide (wmx mmaShape) ((wmx mmaShape).cx 0 i) = true)
    ∧ engineFull ((on mxS (wmx mmaShape)).matrix 0) = false
    ∧ (∀ k ∈ [MKind.mma, .mmac], mmaShapeOk k 0 mmaShape false false = true) ∧ mmaShapeOk .mma 0 0x111 false false = true
    ∧ mmaShapeOk .mmas 0 (mmaShape + 1 * 2 ^ 27) false false = true ∧ mmaShapeOk .mma 0 mmaShape true true = false
    ∧ operandFault (on mxS (wmx mmaShape)) (wmx mmaShape) (some (512, [(0, 1 * 16 * 32 * 2)])) (some (512, [(0, spanB 16 16)])) = none
    ∧ scalesFault (wmx mmaShape) ⟨1, 2, 3, 4, 0, 0⟩ 4 = none ∧ bigBand.members.length = 16
    ∧ drainShapeOk 0 (8 + 8 * 16) false false = true ∧ mldwShapeOk 0 (8 * 16 + 2 * 256) = true
    ∧ (let w := splitAt 0
       readyF (.mwait u15 ⟨0, 6, 0, 0, 0, 0⟩) w 1 = true ∧ wickWide w (w.cx 1 (.mwait u15 ⟨0, 6, 0, 0, 0, 0⟩)) = false)
    ∧ (let x : MInstr := { seq := 1, uid := 1, pkt := 0, rank := 0, ctx := 0, kind := .mma }
       [x].any (fun i => !i.done) = true ∧ [{ x with done := true }].any (fun i => !i.done) = false
         ∧ [{ x with done := true, failed := true }].find? (fun i => i.failed && !i.reported) ≠ none) := by decide +kernel

/-! Work graphs and rendering -/

/-- A node of records of 8 bytes with 32 slots and depth 4. -/
def nodeNum : Nat := 0x20000 + 8 * 2 ^ 64 + 4 * 2 ^ 72 + 32 * 2 ^ 192
def graph0 : Graph := { id := 5, pkt := 0, ctx := 0, table := 0x8000, count := 1 }
def graphS : State := { memAt base 0x8000 32 nodeNum with graphs := [graph0], packets := [pk 0 1 (some { la 2 with graph := some 5 })] }
def passNum : Nat := 0x20000 + 128 * 2 ^ 128 + 32 * 2 ^ 160 + 32 * 2 ^ 176 + 4 * 2 ^ 224
def passS : State := { base with packets := [pk 0 1 (some { la 3 with pass := passNum })] }
def tileS : State := { passS with bands := [{ band0 with tile := some 0 }] }
def wt : Wick := { wk with info := { wk.info with tile := some ⟨0, 0⟩, kind := .tile } }
def poolS (s : State) : State := ctxSet (ctxSet s 9 0x40000) 10 64
def texNum : Nat := 0x20000 + 16 * 2 ^ 64 + 16 * 2 ^ 80 + 64 * 2 ^ 96
theorem wit_GraphAndRenderForms :
    (∀ i ∈ [Instr.emit u15 ⟨0, 8, 3, 0, 0, 0⟩, .nodefin u15 ⟨0, 0, 0, 0, 0, 0⟩, .bin u15 ⟨1, 8, 0, 0, 2, 0⟩, .rast u15 ⟨8, 20, 0, 3, 0, 0⟩,
        .ztest u15 ⟨3, 8, 9, 0, 0, 0⟩, .rtw u15 ⟨0, 8, 9, 0, 0, 0⟩, .tilef u15 ⟨4, 0, 0, 0, 1, 0⟩, .tex u15 ⟨0, 12, 5, 0, 0, 1⟩, .cont u15 ⟨0, 8, 0, 0, 0, 0⟩],
       readyB i wt = true ∧ (wt.cx 0 i).act ≠ 0)
    ∧ (on base wk).graphOf wk = none ∧ (on graphS wk).graphOf wk = some graph0
    ∧ okE (readNode graph0 0 (on graphS wk)) (fun d => d.recb == 8 && d.maxDepth == 4 && d.qcap == 32) = true ∧ runOk wk 8 2 = true
    ∧ (match readNode graph0 0 (on graphS wk) with
      | .ok (d, s1) => okE (writeRecs graph0 d [(0, 5)] s1) (fun _ => true)
      | .error _ => false) = true
    ∧ wk.touchesLog [(binAddr passNum 0, 64)] = false
    ∧ (graph0.freeSlots 0 32 32).length = 32 ∧ (graph0.freeSlots 0 31 32).length = 31
    ∧ inNodeLaunch (on graphS wk) wk = true ∧ inNodeLaunch (on base wk) wk = false
    ∧ inGeometry (on passS wk) wk = true ∧ inGeometry (on passS wt) wt = false ∧ runOk wk 8 16 = true
    ∧ okE (binAppend ⟨0, false, 0⟩ passNum 7 0 (on passS wk)) (fun n => n == 1) = true
    ∧ tileOf (on tileS wk) wk = none ∧ (tileOf (on tileS wt) wt).isSome = true ∧ runOk wt 20 9 = true
    ∧ (List.range 9).all (fun j => (wt.rdV (20 + j)).isU) = true
    ∧ sampleOver wt (wt.cx 0 (.ztest u15 ⟨3, 8, 9, 0, 0, 0⟩)) ⟨3, 8, 9, 0, 0, 0⟩ passNum = 0 ∧ pTargets passNum = 1 ∧ pFmt passNum 0 = 0
    ∧ liveMaskOk wt 1 = true ∧ texDescOk texNum = true ∧ texDescOk 0 = false
    ∧ ((on (poolS tileS) wt).pushConts wt [0, 31] 0 (fun _ => 12) (fun _ => 0) 1).isSome = true
    ∧ ((on tileS wt).pushConts wt [0, 31] 0 (fun _ => 12) (fun _ => 0) 1).isNone = true
    ∧ (lanesOf fullMask).filter (fun l => !pcForm (pairHandle wt ⟨0, 8, 0, 0, 0, 0⟩ l)) = []
    ∧ handleTrap 0x03 (fun _ => 4) [0] ≠ none := by decide +kernel

/-! The Lantern -/

/-- Two children with boxes of three binary32 pairs, nodes of 64 bytes, triangles of 40. -/
def layoutNum : Nat := 2 + 4 * 2 ^ 8 + 16 * 2 ^ 24 + 40 * 2 ^ 40
def program0 : Program := ⟨0, 0, layoutNum, [0x80000000]⟩
def ray0 : Ray := { id := 7, ctx := 0, cluster := 0, core := 0, pkt := 0, rank := 0, uid := 0, cont := 0, addr := 0x4000, cur := 0x4040 }
def lanS : State := { poolS base with programs := [program0], rays := [ray0] }
theorem wit_LanternForms :
    (∀ i ∈ [Instr.trace u15 ⟨0, 12, 4, 6, 0, 3⟩, .rsusp u15 ⟨1, 2, 3, 0, 0, 0⟩, .rres u15 ⟨0, 8, 0, 0, 0, 0⟩, .lntp u15 ⟨0, 1, 2, 3, 0, 0⟩],
       i.legal = true → readyB i wk = true ∧ (wk.cx 0 i).act ≠ 0)
    ∧ (Instr.trace u15 ⟨0, 12, 4, 6, 0, 3⟩).legal = true ∧ (Instr.rsusp u15 ⟨1, 2, 3, 0, 0, 0⟩).legal = true ∧ (Instr.rres u15 ⟨0, 8, 0, 0, 0, 0⟩).legal = true
    ∧ readyB (.lntp u15 ⟨0, 0, 1, 2, 0, 0⟩) wk = true
    ∧ liveMaskOk wk 3 = true ∧ runOk wk 12 8 = true ∧ ((on lanS wk).findProgram 0 0).isSome = true ∧ ((on base wk).findProgram 0 0).isSome = false
    ∧ (wk.rdS 0 5).toNat % 256 = 0 ∧ (on lanS wk).handleValid 0 (wk.rdK 6) = false
    ∧ 32 ≤ (on lanS wk).rayRoom 0 ∧ ((on lanS wk).pushConts wk [0, 31] 1 (fun _ => 12) (fun _ => 0) 3).isSome = true
    ∧ suspRange lanS 0 0x4000 256 = [7] ∧ suspRange lanS 0 0x4001 256 = [] ∧ suspRange lanS 0 0x3F00 256 = []
    ∧ (∀ x ∈ [([], 1), ([7], 0)], readyB (.rsusp u15 ⟨1, 2, 3, 0, 0, 0⟩) (wk.modWait 0 (fun y => { y with rsusp := some x })) = true)
    ∧ (claimable (on lanS wk) 0 false [(0, 0x4000)]).1 = []
    ∧ layoutOk layoutNum = true ∧ layoutOk 0 = false ∧ microOk 0x80000000 = true ∧ microOk 0x700000C8 = true ∧ microOk 0x720000C8 = false
    ∧ 0x100 / 2 ^ 15 % 2 ^ 49 = 0 ∧ 1 ≤ 0x100 / 2 ^ 8 % 2 ^ 7
    ∧ ((on (memAt base 0x1000 32 layoutNum) wk).record wk (wk.cx 0 (.lntp u15 ⟨0, 0, 1, 2, 0, 0⟩)) 0x1000 32).map Prod.snd = some layoutNum := by
  decide +kernel
def microS (r : Ray) : State := { base with programs := [program0], rays := [r], cur := .ray 7 }
/-- A ray at a node with a node fetched, at a leaf with a hit, with a full stack, with no budget left, and one to suspend. -/
theorem wit_MicroForms :
    (∀ r ∈ [ray0, { ray0 with node := some (0x4040, 0) }, { ray0 with cur := 0x4043, fH := true, copq := true, lcnt := 2 }, { ray0 with sp := 16, cnum := 1 },
        { ray0 with blim := true, budget := 0 }, { ray0 with suspend := true }, { ray0 with micros := 4095 }],
       (microS r).findRay 7 = some r ∧ r.leaving = none ∧ r.waits = none ∧ r.rest = false ∧ (microS r).findProgram r.ctx r.prog = some program0
         ∧ r.mpc < program0.code.length ∧ r.micros < 4096)
    ∧ refKind ray0.cur = .node ∧ refKind 0x4043 = .leaf ∧ refKind 0x4042 = .bad ∧ refKind 0 = .null
    ∧ (match (rayFetch (microS ray0) ray0 0x4040 64).1 with
      | .ok _ => true
      | .error _ => false) = true
    ∧ (match (rayFetch (microS ray0) ray0 0x80000 64).1 with
      | .ok _ => false
      | .error _ => true) = true
    ∧ (match (pushNode (microS ray0) { ray0 with cnum := 1, sp := 16 } program0).1 with
      | .ok b => refKind (childRef layoutNum b 0) == .null
      | .error _ => false) = true
    ∧ ray0.cond 0 ≠ none := by decide +kernel

/-! Privileged forms -/

theorem wit_PrivilegedForms :
    (∀ i ∈ [Instr.mfpr u15 ⟨3, 0, 0, 0x40⟩, .mtpr u15 ⟨0, 3, 0, 0x41⟩, .mtpr u15 ⟨0, 3, 0, 6⟩, .tlbinv u15 ⟨0, 1, 2, 0⟩, .tlbinv ⟨1, false, 15⟩ ⟨0, 0, 0, 0⟩,
        .halt u15 ⟨0, 5, 0, 0⟩, .wickctlRelease u15 ⟨0, 0, 0, 0⟩, .wickctlKill ⟨1, false, 15⟩ ⟨0, 0, 0, 0⟩, .wickctlPark ⟨2, false, 15⟩ ⟨0, 0, 0, 0⟩,
        .wickctlUnpark ⟨3, false, 15⟩ ⟨0, 9, 0, 0⟩, .eret u15 ⟨0, 0, 0, 0⟩, .eretNext ⟨1, false, 15⟩ ⟨0, 0, 0, 0⟩,
        .eretReflect ⟨2, false, 15⟩ ⟨40, 41, 0, 1⟩, .replay u15 ⟨3, 0, 0, 2⟩], i.legal = true → readyB i wkSl = true)
    ∧ (instrs wordsPrivileged).all Instr.legal = true
    ∧ (prvWrite wkSl 0x41 5).isSome = true ∧ (prvWrite wkSl 0x3F 5).isSome = true ∧ wkSl.trap.entered ≠ 0x30
    ∧ readyB (.wickctlRelease u15 ⟨0, 0, 0, 0⟩) { wkSl with trap := { wkSl.trap with entered := 0x30 } } = true
    ∧ reflectFault (on base wkSl) wkSl 0 = some 0x1C ∧ reflectFault (on (envS (entry 1)) wkSl) wkSl hd0 = none
    ∧ (checkTarget (on (envS (entry 1)) wkSl) 0 0 false 0).1 = .ok
    ∧ (let w1 := wkSl.applyFrame wkSl.trap.tfrag 40 0 hd0
       (eretStop (((on (envS (entry 1)) wkSl).addRef 0 hd0 1).putWick w1) w1).isNone = true)
    ∧ (let w : Wick := { inSlice wkSl with inAccess := false, trap := { wkSl.trap with ppend := true } }
       let s := on (ctxSet (envS (entry 1)) 7 0x80000) w
       let w1 := w.applyFrame w.trap.tfrag 40 0 hd0
       s.isStopped 0 (saveWork w) = false ∧ reflectFault s w hd0 = none ∧ (checkTarget s 0 0 false 0).1 = .ok
         ∧ readyB (.eretReflect ⟨2, false, 15⟩ ⟨40, 41, 0, 1⟩) w = true ∧ (eretStop ((s.addRef 0 hd0 1).putWick w1) w1).isSome = true)
    ∧ ((on base wkSl).wicks.find? (fun x => x.trap.parked)).isNone = true
    ∧ (on base wkSl).isStopped 0 (saveWork wkSl) = false ∧ (on (stoppedAt base (saveWork wkSl)) wkSl).isStopped 0 (saveWork wkSl) = true
    ∧ (wkSl.books.log[2]?).map LogEntry.valid = some false := by decide +kernel
/-- An entry of the operand log that holds the load of wm, and what its replay does. -/
def logged : LogEntry := { valid := true, instr := 0x9007827F8BC2000000000000, active := fullMask, whole := false }
def wlog : Wick := { wkSl with books := { wkSl.books with log := wkSl.books.log.setIfInBounds 2 logged } }
theorem wit_Replay :
    (wlog.books.log[2]?).map LogEntry.valid = some true
    ∧ (match decode logged.instr with
      | .ok i => (loggedBody i).isSome
      | .error _ => false) = true
    ∧ readyB (.replay u15 ⟨3, 0, 0, 2⟩) wlog = true := by decide +kernel
/-- The trace ring at 0x6000 with sixteen places, and a debugger that is not there; a ring on a page that fails. -/
def dbgS (n : Nat) : State := memAt (ctxSet base 0x0F 0x6002) 0x600C 4 n
def stop0 : StopInfo := ⟨0, 0, 0, 0, 0, fullMask, 0⟩
theorem wit_Breakpoint : readyB (.bkpt u15 c0) wk = true ∧ wk.trap.sl = false ∧ wk.books.pair = none ∧ wk.books.svc = none
    ∧ (on base wk).dbgen 0 = false ∧ (on (dbgS 16) wk).dbgen 0 = true
    ∧ (match writeTrace (on (dbgS 16) wk) 0 (stopRec (on (dbgS 16) wk) wk stop0) false with
      | .ok (some _) => true
      | _ => false) = true
    ∧ (match writeTrace (on (dbgS 0) wk) 0 (stopRec (on (dbgS 0) wk) wk stop0) false with
      | .ok none => true
      | _ => false) = true
    ∧ (let s := on (ctxSet base 0x0F 0x80002) wk
       s.dbgen 0 = true ∧ (match writeTrace s 0 (stopRec s wk stop0) false with
         | .error _ => true
         | _ => false) = true)
    ∧ (let w : Wick := { wk with books := { wk.books with stop := some stop0 } }
       (on base w).isStopped 0 (stopWork w) = false ∧ (on (stoppedAt base (stopWork w)) w).isStopped 0 (stopWork w) = true)
    ∧ readyB (.bkpt u15 c0) (inSpec wk) = true ∧ (inSpec wk).books.svc.isSome = true := by decide +kernel
/-- A wick in single-lane mode that names 0x1000 in s61 and s62. -/
def wsv : Wick := (wkSl.wrS 0 62 0x1000).wrS 0 61 0x1000
theorem wit_SaveForms :
    (∀ i ∈ [Instr.savev u15 ⟨61, 12, 62, 0⟩, .loadv u15 ⟨12, 61, 0, 0⟩, .savekSave u15 ⟨0, 61, 0, 0⟩, .savekLoad ⟨1, false, 15⟩ ⟨0, 61, 0, 0⟩,
        .savev ⟨1, false, 15⟩ ⟨61, 248, 62, 0⟩, .loadv ⟨1, false, 15⟩ ⟨248, 61, 0, 0⟩], readyB i wsv = true)
    ∧ savevReg wsv 0 12 = true ∧ savevReg wsv 0 127 = true ∧ savevReg { wsv with info := { wsv.info with ng := 8 } } 0 12 = false ∧ savevReg wsv 1 251 = true
    ∧ (resolveRanges (on base wsv) wsv (wsv.cx 0 (.savekSave u15 ⟨0, 61, 0, 0⟩)) ⟨1, 0, 0⟩ none (pages 0x1000 352)).1 = []
    ∧ ((on base wsv).record wsv (wsv.cx 0 (.loadv u15 ⟨12, 61, 0, 0⟩)) 0x1000 1).map Prod.snd = some 0
    ∧ ((on (memAt base 0x1000 1 3) wsv).record wsv (wsv.cx 0 (.loadv u15 ⟨12, 61, 0, 0⟩)) 0x1000 1).map Prod.snd = some 3
    ∧ closureOk 0 = true ∧ closureOk (2 ^ (8 * 288)) = false
    ∧ (VReg.ofSaved 12 2 0).isSome = true ∧ (VReg.ofSaved 12 3 0).isNone = true := by decide +kernel
/-- A wick in single-lane mode of a group whose core has begun a capture, as this wick or another began it, ready or not, written or not. -/
def quietW : Wick := sReg (sReg { wkSl with info := { wkSl.info with group := 1 } } 4 0x1000) 5 0x10000
def quietS (owner : Nat) (ready written : Bool) : State := { base with groups := [{ id := 1, pkt := 0, ctx := 0, part := 0, cluster := 0, uids := [1], captures :=
  [{ core := 0, owner := owner, addr := 0x1000, image := false, imagew := false, written := written, size := 0, ready := ready }] }] }
theorem wit_Quiesce :
    (∀ i ∈ [Instr.quiesceWait u15 ⟨3, 4, 5, 0⟩, .quiesceCancel ⟨1, false, 15⟩ ⟨3, 4, 5, 0⟩], i.legal = true ∧ readyB i wkSl = true ∧ readyB i quietW = true)
    ∧ (on base wkSl).captureOf 1 0 = none ∧ worksAtRest (on base wkSl) 0 [1] = true ∧ (quietW.rdS 0 4).toNat % 4096 = 0
    ∧ ((sReg quietW 4 8).rdS 0 4).toNat % 4096 ≠ 0
    ∧ isSomeAnd ((on (quietS 1 true true) quietW).captureOf 1 0) (fun c => c.ready && c.written) = true
    ∧ isSomeAnd ((on (quietS 2 false false) quietW).captureOf 1 0) (fun c => !c.ready && c.owner != 1) = true
    ∧ (let s := on (quietS 1 false false) quietW
       let ready := settleWorks s 0 (s.mates quietW)
       let items := recordItems ready 0 (ready.mates quietW) false false
       let bytes := recordHeader ready 0 false false false items.length ++ items.flatMap Item.bytes
       isSomeAnd (s.captureOf 1 0) (fun c => !c.ready && c.owner == 1) = true ∧ worksAtRest s 0 (s.mates quietW) = true
         ∧ bytes.length ≤ (quietW.rdS 0 5).toNat ∧ ¬ bytes.length ≤ ((sReg quietW 5 0).rdS 0 5).toNat ∧ 0x1000 + bytes.length ≤ 2 ^ 57
         ∧ (resolveRanges ready quietW (quietW.cx 0 (.quiesceWait u15 ⟨3, 4, 5, 0⟩)) ⟨1, 0, 0⟩ none (pages 0x1000 bytes.length)).1 = []) := by decide +kernel

/-! Engines, schedulers and the outside -/

def okX {ε α : Type} (r : Except ε α) : Bool := match r with
  | .ok _ => true
  | .error _ => false
/-- A copy from 0x2000, or from the address no leaf maps, and a state with it. -/
def copyFrom (a : Nat) : Copy := { aCopy 1 false with src := parseShape (shapeNum a 1 0), dst := parseShape (shapeNum 0x3000 1 0) }
def copying (c : Copy) : State := withCopies base [c]
def quant0 : Quant := { cluster := 0, seq := 1, pkt := 0, rank := 0, uid := 1, ctx := 0, record := quantNum }
def matrixS (x : MInstr) : State := { base with matrices := [{ core := 0, seq := 1, queue := [x] }] }
def minstr (k : MKind) : MInstr := { seq := 1, uid := 1, pkt := 0, rank := 0, ctx := 0, kind := k, m := 16, n := 16, kb := 1 }
def flush0 (a : Nat) : Flush := { core := 0, seq := 1, uid := 1, pkt := 0, rank := 0, ctx := 0, tile := 0, token := 0, writes := [(a, 5)] }
def texel0 (base : Nat) : Texel := { record := 3, ctx := 0, desc := base + 16 * 2 ^ 64 + 16 * 2 ^ 80 + 64 * 2 ^ 96, u := 0, v := 0, uid := 1 }
theorem wit_EngineEvents :
    base.headCopy 0 = none
    ∧ isSomeAnd ((copying (copyFrom 0x2000)).headCopy 0) (fun c => !c.stopped && decide (c.pos < c.total) && okX (deliver (copying c) c)) = true
    ∧ isSomeAnd ((copying (copyFrom 0x80000)).headCopy 0) (fun c => !okX (deliver (copying c) c)) = true
    ∧ isSomeAnd ((copying { copyFrom 0x2000 with pos := 4 }).headCopy 0) (fun c => decide (c.total ≤ c.pos) && !c.rest
        && ((completeCopy (copying c) c).copies.find? (fun x => x.chan == 0 && x.done && x.callback.isSome)).isNone) = true
    ∧ (let s : State := { copying { copyFrom 0x2000 with chan := 2048 } with packets := [pk 0 3 none] }
       isSomeAnd (s.headCopy 2048) (fun c => isSomeAnd (s.findPacket c.pkt) (fun p => !s.partStopped p.part) && okX (deliver s c)) = true)
    ∧ isSomeAnd (({ base with quants := [quant0] } : State).headQuant 0) (fun q => !q.stopped && !q.rest) = true
    ∧ isSomeAnd ((matrixS (minstr .mzeroLat)).matrix 0).head (fun i => (runMatrix (matrixS i) 0 i).isSome) = true
    ∧ isSomeAnd ((matrixS (minstr .mmac)).matrix 0).head (fun i => (runMatrix (matrixS i) 0 i).isNone) = true
    ∧ (base.matrix 0).head = none
    ∧ headWaits base 0 (minstr .mmac) = false ∧ headWaits base 0 { minstr .mmac with rest := true } = true
    ∧ (minstr .mmac).abandoned (matrixS (minstr .mmac)) 0 = false
    ∧ (minstr .mmac).abandoned { matrixS (minstr .mmac) with packets := [{ pk 0 1 none with cancelled := true }] } 0 = true
    ∧ (let i := { minstr .mma with strm := true }
       headWaits (matrixS i) 0 i = false ∧ i.kdone < kLimit (matrixS i) 0 i
         ∧ ((matrixS i).chan 0).wp < i.wcount + (i.kdone + 1) * i.m * 32 * esA i.sub
         ∧ i.wcount + (i.kdone + 1) * i.m * 32 * esA i.sub
             ≤ (({ matrixS i with chans := [{ (base.chan 0) with wp := 2 ^ 20 }] } : State).chan 0).wp)
    ∧ (let s (odd : Nat) : State := { base with matrices := (List.range 16).map (fun n =>
         { core := n, seq := 1, queue := [{ minstr .mmac with band := 9, pos := n, m := if n = odd then 32 else 16 }] }) }
       let ms (x : Nat) : List (Nat × MInstr) := coMembers (s x) 9 0
       ∀ x ∈ [5, 99], coTurn (s x) 9 = some 0 ∧ (ms x).length = 16 ∧ (∀ y ∈ ms x, headWaits (s x) y.1 y.2 = false)
         ∧ (∀ y ∈ ms x, ((s x).matrix y.1).head.map MInstr.seq = some y.2.seq)
         ∧ ((ms x).all (fun y => y.2.m == 16) = true ↔ x = 99))
    ∧ (let s : State := { base with matrices := (List.range 16).map (fun n =>
         { core := n, seq := 2, queue := [{ minstr .mzeroLat with seq := 1 }, { minstr .mmac with band := 9, pos := n, seq := 2 }] }) }
       coTurn s 9 = some 0 ∧ (coMembers s 9 0).length = 16 ∧ ¬ ∀ y ∈ coMembers s 9 0, (s.matrix y.1).head.map MInstr.seq = some y.2.seq)
    ∧ isSomeAnd (({ base with flushes := [flush0 0x1000] } : State).flushes.find? (fun f => f.core == 0 && !f.rest)) (fun f => !f.stopped) = true
    ∧ (runWrites base 0 (flush0 0x1000).writes).2.2.isNone = true ∧ (runWrites base 0 (flush0 0x80000).writes).2.2.isSome = true
    ∧ okX (readTexels base 0 0 (texelPlaces (texel0 0x1000).desc 0 0)).1 = true ∧ okX (readTexels base 0 0 (texelPlaces (texel0 0x80000).desc 0 0)).1 = false
    ∧ isSomeAnd (({ base with texels := [texel0 0x1000] } : State).findTexel 3) (fun x => !x.stopped) = true
    ∧ isSomeAnd (({ base with rays := [{ ray0 with micros := 4096 }] } : State).findRay 7) (fun r => r.leaving.isNone && r.waits.isNone && !r.rest) = true
    ∧ ({ ray0 with suspend := true } : Ray).atPoint ({ base with programs := [⟨0, 0, 0, [0]⟩] } : State) = true
    ∧ ({ ray0 with suspend := true } : Ray).atPoint base = false
    ∧ (let s := ctxSet base 0x0E 2
       (0 : Nat) + s.verdictTimeout 0 ≤ ({ s with now := 1200 } : State).now ∧ ({ s with now := 1199 } : State).now < 0 + s.verdictTimeout 0)
    ∧ isSomeAnd (({ base with verdicts := [⟨3, [7], 1⟩] } : State).verdicts.find? (fun v => v.uid == 3)) (fun _ => true) = true := by decide +kernel
def cont0 (n : Nat) : ContRec := { uid := n, ctx := 0, pkt := 0, slot := n, final := some 0 }
def contS (n : Nat) : State := { base with conts := (List.range n).map cont0 }
def conv (s : State) (w : Wick) : State := { s with wicks := [w] }
def at_ (s : State) (n : Nat) : State := { s with now := n, cycles := Vector.replicate 8 (600 * n) }
/-- A wick that is to be stopped for a debugger, and its ring with room, without, and on a page that fails. -/
def stopW : Wick := { wk with books := { wk.books with stop := some stop0 } }
def traceRes (s : State) : Nat := match writeTrace (conv s stopW) 0 (stopRec (conv s stopW) stopW (stop0.at stopW)) false with
  | .ok (some _) => 0
  | .ok none => 1
  | .error _ => 2
/-- A group being saved, and one that may be restored, its saved image readable and not. -/
def savedG : Group := { id := 1, pkt := 0, ctx := 0, part := 0, cluster := 0, uids := [1], stage := .saving 0 }
def restW : Wick := { wk with info := { wk.info with restoring := true } }
def restS : State := { base with wicks := [restW], groups := [{ savedG with stage := .resident }] }
/-- Two wicks of a port, the second ready for longer. -/
def pairW : List Wick := [{ wk with info := { wk.info with ready := 290 } }, { wk with info := { wk.info with uid := 2, slot := 1, ready := 10 } }]
/-- Thirty-one records together and thirty-two; a node record; a sleep at its end; an age of 256 cycles and of 255; a wick to pre-empt and to
resume; a stop with room for its record, without, and on a page that fails; a group restored; a delivery due and none; a port's turn with an
aged wick and without, limited and not. -/
theorem wit_WickEvents :
    ((contS 31).together (cont0 0)).length = 31 ∧ ((contS 32).together (cont0 0)).length = 32
    ∧ (let g := { graph0 with waiting := [⟨0, 0, 1, 0⟩] }
       g.rootLeft = 0 ∧ graphS.isStopped 0 (packetWork 0 2) = false
         ∧ isSomeAnd (graphS.findPacket 0) (fun p => !p.cancelled && !graphS.heldBack p) = true ∧ okE (readNode g 0 graphS) (fun _ => true) = true
         ∧ (g.waiting.filter (fun r => r.node == 0)).length = 1)
    ∧ isSomeAnd (tileS.tileBand 0 0) (fun b => !tileIdle tileS 0 b 0) = true
    ∧ (let s : State := { passS with bands := [{ band0 with tile := some 0, gone := [0] }] }
       isSomeAnd (s.tileBand 0 0) (fun b => tileIdle s 0 b 0) = true)
    ∧ ((wk.modFrag 0 (fun g => { g with sleep := some 0 })).frag 0).sleep = some 0
    ∧ wk.canRun = true ∧ wk.info.ready + 256 ≤ (at_ base 256).clock 0 ∧ ¬ wk.info.ready + 256 ≤ (at_ base 255).clock 0
    ∧ wk.info.stage = .resident ∧ wk.books.pair = none ∧ wk.books.stop = none ∧ (conv base wk).isStopped 0 (saveWork wk) = false
    ∧ okX (saveAccess (conv base wk) wk.endWaits) = true
    ∧ (let w : Wick := { wk with info := { wk.info with resume := some 1 } }
       w.info.resume = some 1 ∧ w.info.restoring = false ∧ w.trap.sl = false ∧ w.books.svc = none)
    ∧ (conv (dbgS 16) stopW).isStopped 0 (stopWork stopW) = false ∧ (conv (dbgS 16) stopW).dbgen 0 = true
    ∧ traceRes (dbgS 16) = 0 ∧ traceRes (dbgS 0) = 1 ∧ traceRes (ctxSet base 0x0F 0x80002) = 2
    ∧ isSomeAnd (({ base with groups := [savedG] } : State).findGroup 1) (fun g => g.captures.any (fun c => c.imagew) == false) = true
    ∧ isSomeAnd (restS.findGroup 1) (fun g => mayRestore restS g) = true ∧ restS.isStopped 0 (2 ^ 51 + 1) = false
    ∧ (match readAllSaved restS (restS.groupWicks 1) with
      | (.ok l, t) => (match readRecords t 0 ((l.map (fun y => y.2.1)).filter (fun r => r != 0)).eraseDups with
        | (.ok _, _) => true
        | _ => false)
      | _ => false) = true
    ∧ (let s := ctxSet restS 7 0x80000
       match readAllSaved s (s.groupWicks 1) with
       | (.error _, _) => true
       | _ => false) = true
    ∧ base.uiBlock 0 = 0 ∧ (uiS 0 0).uiBlock 0 ≠ 0 ∧ (uiS 0 0).isStopped 0 1 = false ∧ okE (dueDelivery (uiS 0 0) 0 (uiS 0 0)) Option.isNone = true
    ∧ (let s := conv (memAt (uiS 0 1) 0x3028 8 (2 ^ 63)) wk
       okE (dueDelivery s 0 s) Option.isSome = true)
    ∧ (let s := at_ { base with wicks := pairW } 300
       (chooseWick s pairW).map (fun w => w.info.uid) = some 2 ∧ s.aged (pairW[1]?.getD wk) = true ∧ s.limited 0 = false
         ∧ (match wickTurn s 2 with
           | .next (_, b) => b
           | _ => false) = true)
    ∧ (let s := at_ { base with wicks := pairW } 200
       isSomeAnd (chooseWick s pairW) (fun w => !s.aged w) = true ∧ pairW.all (fun x => !s.aged x) = true)
    ∧ (chooseWick base []).isNone = true
    ∧ ({ at_ base 300 with issues := [(0, 300)] } : State).limited 0 = true := by decide +kernel
def syncP : Packet := { pk 0 2 none with started := true, sync := some { world := 0x8000 } }
theorem wit_SyncPhases :
    syncReady { worldS with packets := [syncP] } syncP { world := 0x8000 } = true
    ∧ okE ((do let x ← readWorld ⟨0, true, 0⟩ 0x8000; let q ← readQueue x; pure q.length : EM Nat) worldS) (fun n => n == 0) = true := by decide +kernel
theorem wit_SyncPhases_check :
    okE (syncCheck ⟨0, true, 0⟩ 0x8000 worldS) (fun _ => true) = true := by decide +kernel
/-- A queue with one change, which applies, and an empty one, which ends the phase. -/
theorem wit_SyncPhases_apply :
    okE ((do
        let x ← readWorld ⟨0, true, 0⟩ 0x8000
        match ← readQueue x with
        | c :: _ =>
          let _ ← applyChange x c [] []
          pure true
        | [] => pure false : EM Bool) (memAt worldS 0x8044 1 1)) id = true := by decide +kernel
theorem wit_SyncPhases_end :
    okE ((do
        let x ← readWorld ⟨0, true, 0⟩ 0x8000
        endApplication x : EM Unit) worldS) (fun _ => true) = true := by decide +kernel
theorem wit_SyncPhases_move :
    okE ((do let x ← readWorld ⟨0, true, 0⟩ 0x8000; findMove x [0] : EM _) worldS) Option.isNone = true := by decide +kernel
def queueS (q : Queue) (boot : BitVec 4) : State :=
  { base with dies := base.dies.setIfInBounds 0 { queues := (Vector.replicate 64 {}).setIfInBounds 0 q }, cfg := { base.cfg with boot := boot } }
def withP (s : State) (p : Packet) : State := { s with packets := [p] }
/-- A job with node 3 beyond a port that is up. -/
def jobS : State := { setPort base 0 (mkPort true false 2 3) with cfg := { (setPort base 0 (mkPort true false 2 3)).cfg with job := true } }
/-- A packet that ends with work of its own, one that ends by a CANCEL, a pass and a launch whose work is over; a CANCEL of a COPY that runs. -/
theorem wit_PacketEvents_completion :
    (let p : Packet := { pk 0 0 none with ended := true, crbase := 0x5000, crsize := 4 }
     p.revoked = false ∧ ((withP base p).abandonLate 0).findPacket 0 = some p ∧ workDone ((withP base p).abandonLate 0) p = true
       ∧ okX (writeCompletion ((withP base p).abandonLate 0) p false) = true)
    ∧ (let p : Packet := { pk 0 1 (some { la 3 with pass := passNum }) with started := true, ended := true, crbase := 0x5000, crsize := 4 }
       let s := (withP base p).abandonLate 0
       s.findPacket 0 = some p ∧ workDone s p = true ∧ (la 3).fld 0 3 = 3
         ∧ (match anyDrop (candAcc 0) passNum (pTx passNum * pTy passNum) s with
           | .ok (b, u) => okX (writeCompletion u p b)
           | .error _ => false) = true)
    ∧ (la 2).fld 0 3 ≠ 3
    ∧ (let q : Packet := { pk 1 3 none with n := 7, started := true, queue := 2 }
       let p : Packet := { pk 0 (8 + 2 * 2 ^ 64 + 7 * 2 ^ 128) none with started := true }
       let s : State := { copying { copyFrom 0x2000 with chan := 2048, pkt := 1 } with packets := [p, q] }
       s.findPacket 0 = some p ∧ p.target = none
         ∧ s.packets.find? (fun q => q.die == p.die && q.queue == fld p.body 64 6 && q.n == fld p.body 128 64 && q.id != 0) = some q
         ∧ q.ended = false ∧ q.started = true ∧ q.launch = none
         ∧ ((s.modPacket 0 (fun p => { p with target := some q.id })).copies.find? (fun c => c.pkt == q.id && !c.done)).isSome = true) := by
  decide +kernel
/-- A tail of 63 and of 64 packets, a queue with a packet, each type of packet, a launch record that is right and one that is not. -/
theorem wit_PacketEvents :
    ((queueS { desc := 1 } 1).queue 0 0).en = true ∧ ((queueS { desc := 1 } 1).queue 0 0).tail ≤ 63 ∧ ((queueS { desc := 1 } 1).queue 0 0).head + 63 < 64
    ∧ laneReady (queueS { desc := 1, tail := 1 } 1) 0 0 = true ∧ laneReady (queueS { desc := 1 } 1) 0 0 = false
    ∧ (List.range 64).filter (laneReady (queueS { desc := 1, tail := 1 } 1) 0) = [0] ∧ base.intervals 0 ≤ 4096
    ∧ launchOk (32 * 2 ^ 32 + 2 ^ 64) = true ∧ launchOk 0 = false
    ∧ (let p := pk 0 1 (some (la (32 * 2 ^ 32 + 2 ^ 64)))
       let s := withP base p
       okE (readAll p (la (32 * 2 ^ 32 + 2 ^ 64)) s) (fun specs => !placementBad s p (la (32 * 2 ^ 32 + 2 ^ 64)) specs) = true
         ∧ mayStart (withP base { p with launch := some { la (32 * 2 ^ 32 + 2 ^ 64) with valid := true } })
             { p with launch := some { la (32 * 2 ^ 32 + 2 ^ 64) with valid := true } } = true
         ∧ mayStart s p = false ∧ workDone s p = false ∧ s.isStopped 0 (packetWork 0 3) = false ∧ s.isStopped 0 (packetWork 0 4) = false
         ∧ (match takeClosure s p (la (32 * 2 ^ 32 + 2 ^ 64)) with
           | .inl _ => true
           | .inr _ => false) = true
         ∧ (match takeClosure s p (la 4) with
           | .inl _ => false
           | .inr n => n == 1) = true)
    ∧ (let p := pk 0 1 (some (la (1 + 32 * 2 ^ 32 + 2 ^ 64 + 0x80000 * 2 ^ 640 + 2 ^ 704)))
       okX (startLaunch (withP base { pk 0 1 (some (la 2)) with started := false }) p (la 2)) = true ∧ p.launch.isSome = true)
    ∧ (let body := 1 + 0x4000 * 2 ^ 64
       packetOk body 4 = true ∧ base.isStopped 0 (laneWork 0 0) = false
         ∧ okE (readLaunch 0 body (memAt base 0x4000 256 (32 * 2 ^ 32 + 2 ^ 64))) (fun x => x.1 == 32 * 2 ^ 32 + 2 ^ 64) = true)
    ∧ (let p := pk 0 (3 + 0x1000 * 2 ^ 64 + 0x1080 * 2 ^ 128) none
       base.isStopped p.ctx (packetWork p.id 4) = false
         ∧ okE ((do let x ← eRd (candAcc p.ctx) 0x1000 64; let y ← eRd (candAcc p.ctx) 0x1080 64; pure (x, y) : EM (Nat × Nat)) base) (fun _ => true) = true)
    ∧ (let p := { pk 0 0 none with ended := true, crbase := 0x5000, crsize := 4 }
       workDone (withP base p) p = true ∧ okX (writeCompletion (withP base p) p false) = true ∧ base.posts.any (fun x => x.ctx == 0) = false
         ∧ base.isStopped 0 (packetWork 0 5) = false)
    ∧ (let g : Group := { id := 1, pkt := 0, ctx := 0, part := 0, cluster := 0, stage := .descheduled 0 }
       let s : State := { base with groups := [g], dies := base.dies }
       isSomeAnd (leastBy Waiting.key (waitingList s 0)) (fun _ => true) = true)
    ∧ sendTo base 0xFFF = .local_ ∧ sendTo base 3 = .refused ∧ sendTo jobS 3 = .peer 3
    ∧ jobS.cfg.job = true ∧ jobS.reaches 3 = true ∧ base.reaches 3 = false
    ∧ mayStart (withP base (pk 0 0 none)) (pk 0 0 none) = true
    ∧ isSomeAnd (packetShapes (shapeNum 0x2000 1 0) (shapeNum 0x3000 1 0)) (fun (a, b) => a.esz == b.esz) = true ∧ packetShapes 0 0 = none
    ∧ okX (base.ctxRead 0 0x1000 8).1 = true ∧ okX (base.ctxRead 0 0x80000 8).1 = false
    ∧ waitHolds base (pk 0 (7 + 0x1000 * 2 ^ 64) none) = some true ∧ waitHolds base (pk 0 (7 + 0x1000 * 2 ^ 64 + 2 ^ 192) none) = some false
    ∧ waitHolds base (pk 0 (7 + 0x80000 * 2 ^ 64) none) = none
    ∧ mayStop base (pk 0 4 none) = true ∧ partReleased base 0 = true ∧ partReleased (conv base wk) 0 = false
    ∧ missingMembers base (pk 0 4 none) ⟨0, [], 2, 0⟩ = []
    ∧ drainDue base { pkt := 0, part := 0, ctx := 0, header := 0, shadow := 0, cut := 0, size := 1, stage := 1 } = false
    ∧ drainDue base { pkt := 0, part := 0, ctx := 0, header := 2 ^ 448, shadow := 0, cut := 0, size := 0, stage := 1 } = true
    ∧ (match copyRange base 0 [(0x1000, 4096)] 0x3000 with
      | .ok _ => true
      | .error _ => false) = true
    ∧ okE (readRegions 0 0x1000 0 base) (fun x => x.2.isEmpty) = true ∧ placementBad base (pk 0 1 none) (la 0) [] = false
    ∧ base.partStopped 0 = false ∧ ({ base.cfg with job := true } : DeviceCfg).job = true := by decide +kernel
def bootS : State := queueS {} 1
/-- Before the firmware and after it; an address of the control region, of the DRAM and of the host; a queue off and on; limits at their ends. -/
theorem wit_HostEvents :
    base.cfg.boot ≠ 1 ∧ bootS.cfg.boot = 1 ∧ (bootS.ctxs.find? (fun x => x.pasid == 0)).isSome = true
    ∧ bootS.findPacket 3 = none ∧ (conv bootS (waitSend (some none))).findPacket 1 = none
    ∧ (conv jobS (waitSend (some none))).neighbours ≠ [] ∧ ((conv jobS (waitSend (some none))).findWick 1).isSome = true
    ∧ (let p := { pk 3 6 none with started := true }
       (withP jobS p).findWick 3 = none ∧ (withP jobS p).findPacket 3 = some p ∧ fld p.body 0 8 = 6)
    ∧ (∀ x ∈ [Stage.resident, .descheduled],
       let s : State := { conv bootS { wk with info := { wk.info with stage := x } } with requests := [⟨5, 1, 9⟩] }
       (s.requests.find? (fun r => r.token == 5)).isSome = true ∧ (s.findWick 1).isSome = true ∧ s.ctxPart 0 = 0)
    ∧ hostKey bootS ctlSize 8 = some (keyLocal 0) ∧ hostKey bootS (2 ^ 64) 8 = some (keyHost 0) ∧ hostKey base ctlSize 8 = none
    ∧ bootS.poisoned (keyLocal 0) 8 = false ∧ ({ bootS with poison := [(keyLocal 0, 1)] } : State).poisoned (keyLocal 31) 1 = true
    ∧ peerAllowed { jobS with cfg := { jobS.cfg with boot := 1 } } 3 0 8 = true ∧ peerAllowed bootS 3 0 8 = false
    ∧ (bootS.queue 0 0).en = false ∧ ((queueS { desc := 1 } 1).queue 0 0).en = true ∧ bootS.homeDie 0 = some 0
    ∧ bootS.anyBusy = false ∧ (queueS { desc := 1 } 1).anyBusy = true
    ∧ bootS.partBusy 0 = false ∧ partClash bootS 1 0x0 = false ∧ partClash bootS 1 0x1 = true
    ∧ (600 : Nat) ≤ 1500 ∧ (∀ x ∈ bootS.ctxs, bootS.tren x.id = false) ∧ (∀ c ∈ Domain.clusters (.die 3), c < 8) ∧ ¬ (∀ c ∈ Domain.clusters (.cluster 8), c < 8) := by
  decide +kernel
def unit0 : UnitId := ⟨1, 2, 3, 1⟩
/-- A rung not busy, and one as high that is; firmware that verifies; a port off, in training and up; three errors of a unit and four. -/
theorem wit_ResetAndErrorEvents :
    (bootS.dies[0]?).map Die.busy = some false ∧ bootS.cfg.boot = 1 ∧ bootS.dieBusy 0 = false
    ∧ (let s : State := bootS.modDie 0 (fun d => { d with busy := true, lastRung := 2 })
       (s.dies[0]?).map (fun d => (d.busy, d.lastRung)) = some (true, 2))
    ∧ (bootS.dies[0]?).map Die.tick = some 0 ∧ pilotPeriod ≤ ({ bootS with now := pilotPeriod } : State).now
    ∧ portEn (bootS.port 0) = false ∧ portEn ((setPort bootS 0 (mkPort true false 1 0)).port 0) = true ∧ portState ((setPort bootS 0 (mkPort true false 1 0)).port 0) = 1
    ∧ portGen ((setPort bootS 0 (mkPort true false 1 0)).port 0) = false
    ∧ bootS.cfg.lost.getLsbD 3 = false ∧ (3 : Nat) ≠ bootS.cfg.nodeId.toNat ∧ jobS.neighbours ≠ [] ∧ bootS.neighbours = []
    ∧ (let up := setPort ({ bootS with cfg := { bootS.cfg with job := true } } : State) 0 (mkPort true false 2 0)
       up.reaches 0 = true ∧ up.cfg.nodeId.toNat = 0) ∧ bootS.reaches 0 = false
    ∧ ({ bootS with errs := [⟨wholeUnit unit0, [0, 0]⟩] } : State).unitTimes unit0 = [0, 0] ∧ ({ bootS with errs := [⟨wholeUnit unit0, [0, 0, 0]⟩] } : State).unitTimes unit0 = [0, 0, 0]
    ∧ bootS.poison = [] ∧ ({ bootS with poison := [(keyLocal 0, 1)] } : State).poison ≠ [] := by decide +kernel
theorem wit_Firmware : let f : Firmware := ⟨true, true, Config.fuseSvn⟩
    f.ecdsaOk = true ∧ f.lmsOk = true ∧ Config.fuseSvn.toNat ≤ f.svn.toNat := ⟨rfl, rfl, Nat.le_refl _⟩
/-- A core's access turn, a ray's turn and an event's. -/
def accF : Vector Frag 8 := (Vector.replicate 8 {}).setIfInBounds 0 { mask := fullMask, state := .running }
def accW : Wick := { wk with access := some { live := true, frags := accF }, info := { wk.info with sliced := true } }
def accS : State := { base with wicks := [accW], agenda := [.access 0], older := { base.older with seen := base.mem } }
/-- What a fetch of the line at address 0 answers. -/
def fetchedB (s : State) (held : Option Nat) : Option Nat := match fetchChecked s 0 0 false 0 0 held with
  | (.line l, _) => some l
  | _ => none
/-- The state a step is about to issue an instruction in: one that completes, one that waits, and a privileged one; a line held and a line
fetched; a move that uses poisoned data, and none that does; an access turn, a ray's and an event's. -/
theorem wit_StepRunsInstruction :
    (∀ x ∈ [(96, 0x100780810180500000000000), (96, 0x290781800000000000000040), (32, 0x80000000)],
       (match step (State.reset.withFetchWord x.1 x.2) with
       | .next _ => true
       | _ => false) = true)
    ∧ (let s := State.reset.withFetchWord 96 0x100780810180500000000000
       s.agenda = [.issue 1] ∧ s.poison = []
         ∧ isSomeAnd (s.findWick 1) (fun w => w.info.stage == .resident && w.canRun && (w.fragOrder s.free == [0]) && pcForm (w.issuePc 0)
             && (heldTurn s w).isNone && (comparator w 0 (.sadd u15 (plainV 1 2 3 0 .i64)) (oneSlotLine 0x100780810180500000000000)).isNone) = true
         ∧ okX (decode 0x100780810180500000000000) = true ∧ s.limited 0 = false
         ∧ (match frontEnd ((s.tick []).bystand (fun w => w.info.uid == 1)) wk 0 with
           | .go _ _ i _ => i == .sadd u15 (plainV 1 2 3 0 .i64)
           | _ => false) = true)
    ∧ (let s := base
       isSomeAnd (fetchedB s none) (fun l => parityOk l 0 && lineT l 0 && !lineIllegal l && fetchedB s (some l) == some l && okX (decode (lineSlot l 0))) = true)
    ∧ base.older.past = []
    ∧ (let s0 := (accS.tick []).idleCycle
       s0.wicks.any (fun x => x.info.coreId == 0 && x.access.isSome && x.accessLast == s0.clock 0 && x.accessLast != 0) = false
         ∧ (s0.wicks.filter (fun x => x.info.coreId == 0 && x.accessReady)).length = 1
         ∧ (match issueOne (s0.putWick accW.swapSlice) 1 0 true with
           | .next t => (waitRow (s0.putWick accW.swapSlice) t 1 0).isNone
           | _ => false) = true)
    ∧ isEvent (.evHostMemoryAccess 0 8 none) = true
    ∧ isSomeAnd ((State.reset.withFetchWord 32 0x80000000).microWord 1) (fun w => okX (decodeMicro w)) = true
    ∧ parityOk (oneSlotLine 0x100780810180500000000000) 0 = true ∧ lineIllegal (oneSlotLine 0x100780810180500000000000) = false := by decide +kernel
theorem wit_StepRunsInstruction_poison :
    (let s : State := { bootS with cfg := { bootS.cfg with svn := 0 }, poison := [(keyLocal 0x201000, 4)], cur := .wick 1 0, wicks := [wm] }
       let i := Instr.ld p1 (plainM 5 .glob .b4)
       (s.poison.find? (fun y => s.consumes (exec i) y.1 y.2)).isSome = true) := by decide +kernel
/-- A move that reads a byte of the host's memory, which refuses it, and one that does not. -/
theorem wit_StepRunsInstruction_refused :
    (let s : State := { base with cfg := { base.cfg with svn := 0 }, poison := [(keyHost 0, 0)] }
     (s.poison.find? (fun y => s.consumes (fun s => .next (if s.mem.get (keyHost 0) = 0 then s else { s with free := 1 })) y.1 y.2)) = some (keyHost 0, 0)
       ∧ s.refusedBy (fun s => .next { s with free := 1 }) = []) := by decide +kernel
theorem wit_StepRunsInstruction_noPoison :
    (let s : State := { bootS with cfg := { bootS.cfg with svn := 0 }, poison := [(keyLocal 0x201000, 4)], cur := .wick 1 0, wicks := [wm] };
       (s.poison.find? (fun y => s.consumes (exec (.nop u15 c0)) y.1 y.2)).isNone = true) := by decide +kernel
/-- The wick that the step of a placed instruction leaves. -/
def placedStep (word : Nat) : Option Wick :=
  match step (State.reset.withFetchWord 96 word) with
  | .next t => t.findWick 1
  | _ => none
/-- 05, the line of the example: SADD s5, s5, #1 as the first instruction. -/
theorem test_step_sadd : (placedStep 0x100782828000500800000001).map (fun w => w.rdS 0 5) = some 1
    ∧ (placedStep 0x100782828000500800000001).map (fun w => (w.frag 0).pc) = some 12 := by decide +kernel
theorem wit_StepKeepsMemory : base.memWf ∧ (State.reset.withFetchWord 96 0x100780810180500000000000).memWf := by decide +kernel

end Sys2Proof.Tests
end

/-! PROOFS. A word whose fields are those of a legal instruction decodes to it; what the decoder refuses whatever the word (05 R126 to R128, R136;
03 R69). -/

namespace Sys2Proof.Proofs.Words

open Sys2Proof.Machine Sys2Proof.Laws Sys2Proof.Laws.Encoding

/-! ### Words that decode -/

/-- The word carries the instruction's opcode, its header, and its operands where the instruction's format has them (05 R126 to R132). -/
def carries (w : BitVec 96) (i : Instr) : Bool :=
  i.opc == some (opcOf w) && i.hdr == some (hdrOf w)
    && i.opC.all (fun o => fieldsC w = o) && i.opV.all (fun o => (fieldsV w).toOption = some o)
    && i.opM.all (fun o => (fieldsM w).toOption = some o) && i.opX.all (fun o => fieldsX w = o)
    && i.opY.all (fun o => (fieldsY w).toOption = some o)

theorem eq_ok_of_toOption {ε α : Type} {r : Except ε α} {a : α} (h : r.toOption = some a) : r = .ok a := by
  cases r with
  | ok x => cases h; rfl
  | error e => cases h

theorem decode_eq_ok {w : BitVec 96} {i : Instr} (f : decodeFields w = .ok i) (l : i.legal = true) : decode w = .ok i := by
  simp [decode, f, l]

section
variable {w : BitVec 96} {i : Instr} (a : opcAssigned (opcOf w).toNat = true) (l : i.legal = true)
include a l

theorem decodeFields_of_inC (f : InC i (opcOf w) (hdrOf w) (fieldsC w)) : decodeFields w = .ok i := by
  obtain ⟨-, -, r, form⟩ := f
  simp [decodeFields, a, r, form l]

theorem decodeFields_of_inV {o : OpV} (f : InV i (opcOf w) (hdrOf w) o) (ho : fieldsV w = .ok o) : decodeFields w = .ok i := by
  obtain ⟨-, -, r1, r2, r3, form⟩ := f
  have notC : ¬ (opcOf w).toNat < 0x10 := by omega
  have notY : ¬ (0x25 ≤ (opcOf w).toNat ∧ (opcOf w).toNat < 0x30) := by omega
  simp [decodeFields, a, notC, notY, r2, ho, form l]

theorem decodeFields_of_inM {o : OpM} (f : InM i (opcOf w) (hdrOf w) o) (ho : fieldsM w = .ok o) : decodeFields w = .ok i := by
  obtain ⟨-, -, r1, r2, form⟩ := f
  have notC : ¬ (opcOf w).toNat < 0x10 := by omega
  have notY : ¬ (0x25 ≤ (opcOf w).toNat ∧ (opcOf w).toNat < 0x30) := by omega
  have notV : ¬ (opcOf w).toNat < 0x90 := by omega
  simp [decodeFields, a, notC, notY, notV, r2, ho, form l]

theorem decodeFields_of_inX (f : InX i (opcOf w) (hdrOf w) (fieldsX w)) : decodeFields w = .ok i := by
  obtain ⟨-, -, r1, form⟩ := f
  have notC : ¬ (opcOf w).toNat < 0x10 := by omega
  have notY : ¬ (0x25 ≤ (opcOf w).toNat ∧ (opcOf w).toNat < 0x30) := by omega
  have notV : ¬ (opcOf w).toNat < 0x90 := by omega
  have notM : ¬ (opcOf w).toNat < 0xB0 := by omega
  simp [decodeFields, a, notC, notY, notV, notM, form l]

theorem decodeFields_of_inY {o : OpY} (f : InY i (opcOf w) (hdrOf w) o) (ho : fieldsY w = .ok o) : decodeFields w = .ok i := by
  obtain ⟨-, -, r1, r2, form⟩ := f
  have notC : ¬ (opcOf w).toNat < 0x10 := by omega
  simp [decodeFields, a, notC, r1, r2, ho, form l]

end

/-- A legal instruction is what a word with its opcode, header and operands decodes to. -/
theorem decode_of_carries {w : BitVec 96} {i : Instr} (s : Statement i) (l : i.legal = true) (c : carries w i = true) :
    (decode w).toOption = some i := by
  simp only [carries, Bool.and_eq_true, beq_iff_eq] at c
  obtain ⟨⟨⟨⟨⟨⟨hopc, hhdr⟩, hC⟩, hV⟩, hM⟩, hX⟩, hY⟩ := c
  simp only [Statement, hopc, hhdr] at s
  obtain ⟨-, a, h, hh, s⟩ := s
  cases hh
  suffices f : decodeFields w = .ok i by rw [decode_eq_ok f l]; rfl
  rcases s with ⟨o, f⟩ | ⟨o, f⟩ | ⟨o, f⟩ | ⟨o, f⟩ | ⟨o, f⟩
  case inl =>
    simp only [f.1, Option.all_some, decide_eq_true_eq] at hC
    exact decodeFields_of_inC a l (hC ▸ f)
  case inr.inl =>
    simp only [f.1, Option.all_some, decide_eq_true_eq] at hV
    exact decodeFields_of_inV a l f (eq_ok_of_toOption hV)
  case inr.inr.inl =>
    simp only [f.1, Option.all_some, decide_eq_true_eq] at hM
    exact decodeFields_of_inM a l f (eq_ok_of_toOption hM)
  case inr.inr.inr.inl =>
    simp only [f.1, Option.all_some, decide_eq_true_eq] at hX
    exact decodeFields_of_inX a l (hX ▸ f)
  case inr.inr.inr.inr =>
    simp only [f.1, Option.all_some, decide_eq_true_eq] at hY
    exact decodeFields_of_inY a l f (eq_ok_of_toOption hY)

/-! ### Words that are refused -/

/-- An opcode outside 05 R134 is refused before any other field is read (05 R136, step 3). -/
theorem decode_refuses_unassigned {w : BitVec 96} (a : opcAssigned (opcOf w).toNat = false) : (decode w).toOption = none := by
  simp [decode, decodeFields, a, Except.toOption]

theorem fieldsV_of_code15 {w : BitVec 96} (t : w.extractLsb' 43 4 = 15) : fieldsV w = .error .type := by
  simp [fieldsV, t, tyOfCode]

/-- TY 15 is refused in every word of format V (03 R69). -/
theorem decode_refuses_code15 {w : BitVec 96} (r1 : 0x10 ≤ (opcOf w).toNat) (r2 : (opcOf w).toNat < 0x90)
    (r3 : (opcOf w).toNat < 0x25 ∨ 0x30 ≤ (opcOf w).toNat) (t : w.extractLsb' 43 4 = 15) : (decode w).toOption = none := by
  have notC : ¬ (opcOf w).toNat < 0x10 := by omega
  have notY : ¬ (0x25 ≤ (opcOf w).toNat ∧ (opcOf w).toNat < 0x30) := by omega
  by_cases a : opcAssigned (opcOf w).toNat = true
  · simp [decode, decodeFields, a, notC, notY, r2, fieldsV_of_code15 t, Except.toOption]
  · exact decode_refuses_unassigned (by simpa using a)

theorem decode_refuses_illegal {w : BitVec 96} {i : Instr} (f : decodeFields w = .ok i) (l : i.legal = false) : (decode w).toOption = none := by
  simp [decode, f, l, Except.toOption]

/-- No format lets the inverted true guard stand: GP 15 with GN 1 (05 R126). -/
theorem illegal_of_guard {i : Instr} {h : Hdr} (e : i.hdr = some h) (gp : h.gp = 15) (gn : h.gn = true) : i.legal = false := by
  simp only [Instr.legal, e]
  split
  · simp [legalV, Hdr.guardOk, gp, gn]
  · simp [legalM, Hdr.guardOk, gp, gn]
  · simp [legalX, Hdr.guardOk, gp, gn]
  · simp [legalC, Hdr.guardOk, gp, gn]
  · simp [legalY, gn]
  · rfl

/-- A register in the C field of a form of format V that has no operand there (05 R128). -/
theorem illegal_of_absentC {i : Instr} {h : Hdr} {o : OpV} (e : i.hdr = some h) (eo : i.opV = some o) (c : (vspec i).c.fits o.c = false) :
    i.legal = false := by
  simp [Instr.legal, e, eo, legalV, c]

/-- Settles O56: each word carries the fields of the legal instruction beside it, and each refused one breaks one of the four rules. -/
theorem decodeWords : Obligations.DecodeWords := by
  unfold Obligations.DecodeWords
  refine ⟨?bra, ?sadd, ?mfpr, ?vadd, ?fadd, ?lrot, ?ld, ?sealForm, ?mwait, ?edel, ?kdup, ?nodefin, ?rsusp, ?jif, ?cnt, ?done, ?type, ?opcode, ?guard,
    ?absent⟩
  case bra => exact decode_of_carries (Encoding.bra _ _) (by decide) (by decide)
  case sadd => exact decode_of_carries (Encoding.sadd _ _) (by decide) (by decide)
  case mfpr => exact decode_of_carries (Encoding.mfpr _ _) (by decide) (by decide)
  case vadd => exact decode_of_carries (Encoding.vadd _ _) (by decide) (by decide)
  case fadd => exact decode_of_carries (Encoding.fadd _ _) (by decide) (by decide)
  case lrot => exact decode_of_carries (Encoding.lrot _ _) (by decide) (by decide)
  case ld => exact decode_of_carries (Encoding.ld _ _) (by decide) (by decide)
  case sealForm => exact decode_of_carries (Encoding.seal _ _) (by decide) (by decide)
  case mwait => exact decode_of_carries (Encoding.mwait _ _) (by decide) (by decide)
  case edel => exact decode_of_carries (Encoding.edel _ _) (by decide) (by decide)
  case kdup => exact decode_of_carries (Encoding.kdup _ _) (by decide) (by decide)
  case nodefin => exact decode_of_carries (Encoding.nodefin _ _) (by decide) (by decide)
  case rsusp => exact decode_of_carries (Encoding.rsusp _ _) (by decide) (by decide)
  case jif => rfl
  case cnt => rfl
  case done => rfl
  case type => exact decode_refuses_code15 (by decide) (by decide) (by decide) (by decide)
  case opcode => exact decode_refuses_unassigned (by decide)
  case guard => exact decode_refuses_illegal (i := .nop ⟨0, true, 15⟩ ⟨0, 0, 0, 0, 0, 0, 0, 0⟩) rfl (illegal_of_guard rfl rfl rfl)
  case absent =>
    exact decode_refuses_illegal (i := .sadd ⟨0, false, 15⟩ ⟨1, 2, 3, 1, .i64, .rne, false, false, false, false, false, 0⟩) rfl
      (illegal_of_absentC rfl rfl rfl)

end Sys2Proof.Proofs.Words

/-! PROOFS. The control forms, the return from single-lane mode, the privileged forms and the delivery of a user interrupt (06 R144 to R151;
13 R274; 16 R324 to R346): each from what its body does, by the laws of issue. -/

namespace Sys2Proof.Proofs.Control

open Sys2Proof.Machine

/-! ### Fragments of a wick -/

/-- A change of every fragment, seen in one of them. -/
theorem frag_map (w : Wick) (g : Frag → Frag) {n : Nat} (hn : n < 8) : Wick.frag { w with frags := w.frags.map g } n = g (w.frag n) := by
  simp [Wick.frag, hn]

/-- There are eight fragments: any other reads as a free one. -/
theorem frag_outside (w : Wick) {n : Nat} (hn : ¬ n < 8) : w.frag n = {} := by
  simp [Wick.frag, hn]

/-- A field that a change of every fragment keeps. -/
theorem frag_map_field {α : Type} (p : Frag → α) (w : Wick) (g : Frag → Frag) (hg : ∀ x, p (g x) = p x) (n : Nat) :
    p (Wick.frag { w with frags := w.frags.map g } n) = p (w.frag n) := by
  by_cases hn : n < 8
  · rw [frag_map w g hn, hg]
  · rw [frag_outside _ hn, frag_outside _ hn]

/-- A field that a change of one fragment keeps. -/
theorem frag_modFrag_field {α : Type} (p : Frag → α) (w : Wick) (f : Nat) (g : Frag → Frag) (hg : ∀ x, p (g x) = p x) (n : Nat) :
    p ((w.modFrag f g).frag n) = p (w.frag n) := by
  by_cases hf : n = f
  · subst hf
    by_cases hn : n < 8
    · rw [Wick.frag_modFrag _ _ hn, hg]
    · rw [frag_outside _ hn, frag_outside _ hn]
  · rw [Wick.frag_modFrag_other _ _ hf]

/-! ### A delivery (13 R274) -/

/-- What a delivery does to every fragment: a SLEEP ends, and so does a UIWAIT, which has then executed (06 R150, 13 R273). -/
def woken (g : Frag) : Frag := { g with sleep := none, pc := if g.uiWait then pcNext g.pc else g.pc, uiWait := false }

/-- The fragment that a delivery interrupts goes to the handler. -/
theorem deliver_frag_self (w : Wick) {f : Nat} (handler : Word) (hf : f < 8) :
    (w.deliver f handler).frag f
      = { woken (w.frag f) with pc := handler, wait := { (w.frag f).wait with bwait := none } } := by
  unfold Wick.deliver Wick.modWait
  rw [Wick.frag_modFrag _ _ hf, Wick.frag_modFrag _ _ hf]
  exact congrArg (fun g : Frag => { g with pc := handler, wait := { g.wait with bwait := none } }) (frag_map w woken hf)

/-- Every other fragment is woken where it stands. -/
theorem deliver_frag_other (w : Wick) {f g : Nat} (handler : Word) (hg : g < 8) (hne : g ≠ f) :
    (w.deliver f handler).frag g = woken (w.frag g) := by
  unfold Wick.deliver Wick.modWait
  rw [Wick.frag_modFrag_other _ _ hne, Wick.frag_modFrag_other _ _ hne]
  exact frag_map w woken hg

/-- What is saved is the fragment's PC, past a UIWAIT, and its predicates. -/
theorem deliver_regs (w : Wick) {f : Nat} (handler : Word) (hf : f < 8) :
    (w.deliver f handler).regs = { w.regs with uiSavePc := (woken (w.frag f)).pc, uiSaveQ := (w.frag f).qv } := by
  have e := frag_map w woken hf
  exact congrArg (fun g : Frag => { w.regs with uiSavePc := g.pc, uiSaveQ := g.qv }) e

/-- No fragment sleeps or waits in UIWAIT after a delivery, and none has lost lanes or registers. -/
theorem deliver_frag_awake (w : Wick) {f : Nat} (handler : Word) (hf : f < 8) (g : Nat) :
    ((w.deliver f handler).frag g).sleep = none ∧ ((w.deliver f handler).frag g).uiWait = false
      ∧ ((w.deliver f handler).frag g).mask = (w.frag g).mask ∧ ((w.deliver f handler).frag g).own = (w.frag g).own := by
  by_cases he : g = f
  · subst he
    rw [deliver_frag_self w handler hf]
    exact ⟨rfl, rfl, rfl, rfl⟩
  · by_cases hg : g < 8
    · rw [deliver_frag_other w handler hg he]
      exact ⟨rfl, rfl, rfl, rfl⟩
    · rw [frag_outside _ hg, frag_outside _ hg]
      exact ⟨rfl, rfl, rfl, rfl⟩

/-- Settles O42, from what a delivery leaves of the fragment it interrupts, of every other, and of the registers. -/
theorem deliverySaves : Obligations.DeliverySaves := by
  unfold Obligations.DeliverySaves
  intro w f handler hf hw
  have hregs := deliver_regs w handler hf
  refine ⟨?handlerPc, ?savedPc, ?savedQ, deliver_frag_awake w handler hf, ?others, ?_, ?_, ?_, rfl, rfl⟩
  case handlerPc => rw [deliver_frag_self w handler hf]
  case savedPc => simp [hregs, woken, hw]
  case savedQ => rw [hregs]
  case others =>
    intro g hne hu hg
    rw [deliver_frag_other w handler hg hne]
    simp [woken, hu]
  all_goals rw [hregs]

/-! ### Each form's body -/

section
variable (h : Hdr) (o : OpC) (m : OpM) (s : State)

theorem exec_nop : exec (.nop h o) s = wickStep (.nop h o) s (fun s _ _ => .next s) := rfl
theorem exec_yield : exec (.yield h o) s = wickStep (.yield h o) s (fun s _ _ => .next s) := rfl
theorem exec_fence : exec (.fence h m) s = wickStep (.fence h m) s (fun s _ _ => .next s) := rfl
theorem exec_cache : exec (.cache h m) s = wickStep (.cache h m) s (fun s _ _ => .next s) := rfl
theorem exec_sleep : exec (.sleep h o) s = wickStep (.sleep h o) s (fun s w cx => sleepBody s w cx o) := rfl
theorem exec_trapu : exec (.trapu h o) s
    = wickStep (.trapu h o) s (fun _ w cx => .trap { cause := 0x0D, val := w.rdS cx.f o.s.toNat }) := rfl
theorem exec_bra : exec (.bra h o) s = wickStep (.bra h o) s (fun s w cx => branch s w cx o true) := rfl
theorem exec_brq : exec (.brq h o) s = wickStep (.brq h o) s (fun s w cx => branch s w cx o (brqTaken w cx o)) := rfl
theorem exec_brp : exec (.brp h o) s = wickStep (.brp h o) s (fun s w cx => branch s w cx o (brpTaken w cx o)) := rfl
theorem exec_brs : exec (.brs h o) s = wickStep (.brs h o) s (fun s w cx => branch s w cx o (brsTaken w cx o)) := rfl
theorem exec_loop : exec (.loop h o) s = wickStep (.loop h o) s (fun s w cx => loopBody s w cx o) := rfl
theorem exec_bkpt : exec (.bkpt h o) s = wickStep (.bkpt h o) s (fun s w cx => bkptBody s w cx) := rfl

end

section
variable (h : Hdr) (o : OpY) (s : State)

theorem exec_mfpr : exec (.mfpr h o) s
    = wickStep (.mfpr h o) s (fun s w cx => .next (s.putWick (w.wrS cx.f o.d.toNat (prvRead s w (o.imm.toNat % 2 ^ 12))))) := rfl
theorem exec_mtpr : exec (.mtpr h o) s = wickStep (.mtpr h o) s (fun s w cx => mtprBody s w cx o) := rfl
theorem exec_tlbinv : exec (.tlbinv h o) s = wickStep (.tlbinv h o) s (fun s w cx => tlbinvBody s w cx h o) := rfl
theorem exec_halt : exec (.halt h o) s
    = wickStep (.halt h o) s (fun s w cx => .stay (haltWick s w 0x40 (w.rdS cx.f o.a.toNat).toNat)) := rfl
theorem exec_wickctlRelease : exec (.wickctlRelease h o) s = wickStep (.wickctlRelease h o) s (fun s w _ => releaseBody s w) := rfl
theorem exec_wickctlKill : exec (.wickctlKill h o) s = wickStep (.wickctlKill h o) s (fun s w _ => .stay (endWick s w)) := rfl
theorem exec_wickctlPark : exec (.wickctlPark h o) s = wickStep (.wickctlPark h o) s (fun s w _ => .stay (s.putWick w.park)) := rfl
theorem exec_wickctlUnpark : exec (.wickctlUnpark h o) s = wickStep (.wickctlUnpark h o) s (fun s w cx => unparkBody s w cx o) := rfl
theorem exec_eret : exec (.eret h o) s = wickStep (.eret h o) s (fun s w _ => eretBody s w w.trap.tpc) := rfl
theorem exec_eretNext : exec (.eretNext h o) s = wickStep (.eretNext h o) s (fun s w _ => eretBody s w w.trap.tnpc) := rfl
theorem exec_eretReflect : exec (.eretReflect h o) s = wickStep (.eretReflect h o) s (fun s w cx => reflectBody s w cx o) := rfl
theorem exec_replay : exec (.replay h o) s = wickStep (.replay h o) s (fun s w cx => replayBody s w cx o) := rfl

end

/-! ### A wick put back -/

/-- A wick put back where it stands changes nothing. -/
theorem putWick_self {s : State} {w : Wick} (h : s.findWick w.info.uid = some w) : s.putWick w = s := by
  have keep : ∀ l : List Wick, l.find? (fun x => x.info.uid == w.info.uid) = some w →
      modFirst (fun x => x.info.uid == w.info.uid) (fun _ => w) l = l := by
    intro l
    induction l with
    | nil => intro _; rfl
    | cons x xs ih =>
      intro hl
      by_cases hx : x.info.uid = w.info.uid
      · have e : x = w := by simpa [hx] using hl
        simp [modFirst, e]
      · have hl' : xs.find? (fun x => x.info.uid == w.info.uid) = some w := by simpa [hx] using hl
        simp [modFirst, hx, ih hl']
  unfold State.putWick
  rw [keep s.wicks h]

/-- A wick that stands where w stood is found in its place. -/
theorem findWick_put {s : State} {w w' x : Wick} (hx : s.findWick w.info.uid = some x) (hi : w'.info = w.info) :
    (s.putWick w').findWick w.info.uid = some w' := by
  have := State.findWick_putWick s w' (x := x) (by rw [hi]; exact hx)
  rwa [hi] at this

/-- A ready instruction's wick has not left. -/
theorem live_ne_exited {i : Instr} {s : State} {w : Wick} {f : Nat} (h : Ready i s w f) : w.info.stage ≠ .exited := by
  rw [h.live]; simp

/-! ### What a ready form's outcome leaves -/

/-- A wick that is gone is not swept again. -/
theorem sweepExit_gone {s : State} {w : Wick} {cx : Cx} (hf : s.findWick w.info.uid = none) : sweepExit s w cx = s := by
  simp [sweepExit, hf]

/-- A wick that stands where it stood, and has not left, is not swept. -/
theorem sweepExit_put {i : Instr} {s : State} {w w' : Wick} {f : Nat} {cx : Cx} (r : Ready i s w f) (hi : w'.info = w.info) :
    sweepExit (s.putWick w') w cx = s.putWick w' :=
  sweepExit_stays (findWick_put r.found hi) (by rw [hi]; exact live_ne_exited r)

/-- A trap taken sweeps nothing: its wick is in single-lane mode or halted. -/
theorem sweepExit_takeTrap {s : State} {w w' x : Wick} {f : Nat} {pc : Word} {t : TrapInfo} {cx : Cx} (hx : s.findWick w.info.uid = some x)
    (hi : w'.info = w.info) (hs : w.info.stage = .resident) : sweepExit (takeTrap s w' f pc t) w cx = takeTrap s w' f pc t := by
  obtain ⟨y, hy, hst⟩ := takeTrap_find s w' f pc t (x := x) (by rw [hi]; exact hx) (by rw [hi]; exact hs)
  rw [hi] at hy
  exact sweepExit_stays hy (by rcases hst with e | e <;> rw [e] <;> simp)

/-- A ready form whose body has set the PCs itself: its wick is swept when its last lane has retired. -/
theorem wickStep_swept {i : Instr} {s s' : State} {w : Wick} {f : Nat} (r : Ready i s w f) (body : State → Wick → Cx → Eff)
    (hb : body s w (w.cx f i) = .stay s') : wickStep i s body = .next (sweepExit s' w (w.cx f i)) := by
  rw [wickStep_ready r, hb]; rfl

@[simp] theorem stalled_info (w : Wick) (why : Nat) : (w.stalled why).info = w.info := by
  unfold Wick.stalled; split <;> rfl

@[simp] theorem parkCheck_info (w : Wick) : w.parkCheck.info = w.info := by
  unfold Wick.parkCheck; dsimp only; split <;> rfl

@[simp] theorem waits_info (w : Wick) (f why : Nat) : (w.waits f why).info = w.info := by
  unfold Wick.waits; dsimp only; split <;> simp

/-- A ready form that waits only counts the wait. -/
theorem wickStep_waits {i : Instr} {s : State} {w : Wick} {f why : Nat} (r : Ready i s w f) (body : State → Wick → Cx → Eff)
    (hb : body s w (w.cx f i) = .wait why) : wickStep i s body = .next (s.putWick (w.waits (w.actor f) why)) := by
  rw [wickStep_ready r, hb]
  exact congrArg _ (sweepExit_put r (waits_info ..))

/-- A ready form whose body may have retired its last lane. -/
theorem wickStep_next_swept {i : Instr} {s s' : State} {w : Wick} {f : Nat} (r : Ready i s w f) (body : State → Wick → Cx → Eff)
    (hb : body s w (w.cx f i) = .next s') : wickStep i s body = .next (sweepExit (s'.stepped i (w.cx f i)) w (w.cx f i)) := by
  rw [wickStep_ready r, hb]
  simp only [settle]
  rw [advance_went]; rfl

/-- A ready form that has put its wick where it stood, and set its PC itself. -/
theorem wickStep_puts {i : Instr} {s : State} {w w' : Wick} {f : Nat} (r : Ready i s w f) (body : State → Wick → Cx → Eff)
    (hb : body s w (w.cx f i) = .stay (s.putWick w')) (hu : w'.info.uid = w.info.uid) (hs : w'.info.stage ≠ .exited) :
    wickStep i s body = .next (s.putWick w') := by
  have hf : (s.putWick w').findWick w.info.uid = some w' := by
    rw [← hu]; exact State.findWick_putWick s w' (x := w) (by rw [hu]; exact r.found)
  exact wickStep_stay r body hb hf hs

/-! ### The simple forms (06 R144, R150, R151) -/

/-- A ready form with no effect of its own moves the PC on. -/
theorem wickStep_idle {i : Instr} {s : State} {w : Wick} {f : Nat} (h : Ready i s w f) :
    wickStep i s (fun s _ _ => .next s) = .next (s.stepped i (w.cx f i)) :=
  wickStep_next h _ rfl h.found (live_ne_exited h)

/-- A SLEEP of no cycles has no effect. -/
theorem sleepBody_zero {s : State} {w : Wick} {cx : Cx} {o : OpC} (hw : s.findWick w.info.uid = some w)
    (hn : (w.rdS cx.f o.s.toNat).toNat = 0) : sleepBody s w cx o = .next s := by
  simp [sleepBody, hn, putWick_self hw]

/-- Any other marks its fragment with the cycle that ends it. -/
theorem sleepBody_pos {s : State} {w : Wick} {cx : Cx} {o : OpC} (hn : 0 < (w.rdS cx.f o.s.toNat).toNat) :
    sleepBody s w cx o = .next (s.putWick (w.modFrag cx.f (fun g =>
      { g with sleep := some (s.clock w.info.cluster + min (w.rdS cx.f o.s.toNat).toNat (2 ^ 24)) }))) := by
  have hm : min (w.rdS cx.f o.s.toNat).toNat (2 ^ 24) ≠ 0 := by omega
  simp only [sleepBody, if_neg hm]

/-- Settles O12: each form is its body, and the body is nothing, a mark on the fragment, or a trap. -/
theorem simpleControl : Obligations.SimpleControl := by
  unfold Obligations.SimpleControl
  refine ⟨?idle, ?sleep, ?trapu⟩
  case idle =>
    intro h o m s w f i hi r
    simp only [List.mem_cons, List.not_mem_nil, or_false] at hi
    rcases hi with rfl | rfl | rfl | rfl
    · rw [exec_nop, wickStep_idle r]
    · rw [exec_yield, wickStep_idle r]
    · rw [exec_fence, wickStep_idle r]
    · rw [exec_cache, wickStep_idle r]
  case sleep =>
    intro h o s w f r
    rw [exec_sleep]
    refine ⟨fun hn => ?_, fun hn => ?_⟩
    · exact wickStep_next r _ (sleepBody_zero r.found hn) r.found (live_ne_exited r)
    · exact wickStep_next r _ (sleepBody_pos hn) (findWick_put r.found rfl) (by rw [Wick.modFrag_info]; exact live_ne_exited r)
  case trapu =>
    intro h o s w f r
    rw [exec_trapu]
    exact wickStep_takes r _ rfl

/-! ### The branches (06 R145) -/

/-- A transfer to a slot that carries T goes there. -/
theorem transfer_ok {s : State} {w : Wick} {cx : Cx} {target : Word}
    (ht : (checkTarget s w.info.coreId w.info.ctx cx.sl target).1 = .ok) :
    transfer s w cx target = .jump (checkTarget s w.info.coreId w.info.ctx cx.sl target).2 target := by
  unfold transfer
  split <;> simp_all

/-- A transfer to any other slot of a line that can be fetched traps. -/
theorem transfer_bad {s : State} {w : Wick} {cx : Cx} {target : Word}
    (ht : (checkTarget s w.info.coreId w.info.ctx cx.sl target).1 = .bad) :
    transfer s w cx target = .trap { cause := 0x03, val := target } := by
  unfold transfer
  split <;> simp_all

/-- The check of a target leaves every wick where it is. -/
theorem findWick_checkTarget {s : State} {u : Nat} {x : Wick} (hx : s.findWick u = some x) (core c : Nat) (sl : Bool) (pc : Word) :
    (checkTarget s core c sl pc).2.findWick u = some x := by
  rw [(kept_checkTarget s core c sl pc).findWick, hx]

/-- A ready form whose body is a branch: not taken, taken, and taken to a target without T. -/
theorem exec_branch {i : Instr} {s : State} {w : Wick} {f : Nat} {o : OpC} {taken : Bool} {body : State → Wick → Cx → Eff}
    (he : exec i s = wickStep i s body) (hb : body s w (w.cx f i) = branch s w (w.cx f i) o taken) (r : Ready i s w f) :
    let cx := w.cx f i
    let t := checkTarget s w.info.coreId w.info.ctx cx.sl (tgt cx o)
    (taken = false → exec i s = .next (s.stepped i cx))
      ∧ (taken = true → t.1 = .ok → exec i s = .next (t.2.jumped i cx (tgt cx o)))
      ∧ (taken = true → t.1 = .bad → exec i s = .next (raiseTrap s w cx { cause := 0x03, val := tgt cx o })) := by
  rw [he]
  refine ⟨fun hn => ?notTaken, fun hy ht => ?taken, fun hy ht => ?trap⟩
  case notTaken =>
    have e : body s w (w.cx f i) = .next s := by rw [hb, hn]; rfl
    exact wickStep_next r body e r.found (live_ne_exited r)
  case taken =>
    have e : body s w (w.cx f i) = transfer s w (w.cx f i) (tgt (w.cx f i) o) := by rw [hb, hy]; rfl
    exact wickStep_jump r body (e.trans (transfer_ok ht)) (findWick_checkTarget r.found ..) (live_ne_exited r)
  case trap =>
    have e : body s w (w.cx f i) = transfer s w (w.cx f i) (tgt (w.cx f i) o) := by rw [hb, hy]; rfl
    exact wickStep_takes r body (e.trans (transfer_bad ht))

/-- BRP's condition by its code, on the lanes of the predicate and of the fragment. -/
theorem brpTaken_eq (w : Wick) (cx : Cx) (o : OpC) :
    let m := (w.frag cx.f).mask
    let x := w.rdP o.cq.toNat &&& m
    (o.cm = 0 → brpTaken w cx o = (x != 0)) ∧ (o.cm = 1 → brpTaken w cx o = (x == m))
      ∧ (o.cm = 2 → brpTaken w cx o = (x == 0)) ∧ (o.cm = 3 → brpTaken w cx o = (x != m)) := by
  refine ⟨fun hc => ?_, fun hc => ?_, fun hc => ?_, fun hc => ?_⟩
  all_goals simp only [brpTaken, hc]; rfl

/-- BRS's condition by its code, on its two scalars. -/
theorem brsTaken_eq (w : Wick) (cx : Cx) (o : OpC) :
    let x := w.rdS cx.f o.s.toNat
    let y := w.rdS cx.f o.s2.toNat
    (o.cm = 0 → brsTaken w cx o = (x == y)) ∧ (o.cm = 1 → brsTaken w cx o = (x != y))
      ∧ (o.cm = 2 → brsTaken w cx o = x.slt y) ∧ (o.cm = 3 → brsTaken w cx o = !x.slt y)
      ∧ (o.cm = 4 → brsTaken w cx o = x.ult y) ∧ (o.cm = 5 → brsTaken w cx o = !x.ult y) := by
  refine ⟨fun hc => ?_, fun hc => ?_, fun hc => ?_, fun hc => ?_, fun hc => ?_, fun hc => ?_⟩
  all_goals simp only [brsTaken, hc]; rfl

/-- LOOP falls through when its counter has come to zero. -/
theorem loopBody_through {s : State} {w : Wick} {cx : Cx} {o : OpC} (hn : w.rdS cx.f o.s.toNat - 1 = 0) :
    loopBody s w cx o = .next (s.putWick (w.wrS cx.f o.s.toNat (w.rdS cx.f o.s.toNat - 1))) := by
  simp only [loopBody, if_pos hn]

section
variable {s : State} {w w' : Wick} {cx : Cx} {o : OpC} (hw : w' = w.wrS cx.f o.s.toNat (w.rdS cx.f o.s.toNat - 1))
  (hn : w.rdS cx.f o.s.toNat - 1 ≠ 0)
include hw hn

/-- LOOP branches on the decremented counter. -/
theorem loopBody_taken (ht : (checkTarget (s.putWick w') w.info.coreId w.info.ctx cx.sl (tgt cx o)).1 = .ok) :
    loopBody s w cx o = .jump (checkTarget (s.putWick w') w.info.coreId w.info.ctx cx.sl (tgt cx o)).2 (tgt cx o) := by
  have hi : w'.info = w.info := by rw [hw, Wick.wrS_info]
  have e := transfer_ok (s := s.putWick w') (w := w') (cx := cx) (target := tgt cx o) (by rw [hi]; exact ht)
  simp only [loopBody, if_neg hn]
  rw [← hw, e, hi]

/-- The trap of LOOP's target is taken on the decremented counter. -/
theorem loopBody_traps (ht : (checkTarget (s.putWick w') w.info.coreId w.info.ctx cx.sl (tgt cx o)).1 = .bad) :
    loopBody s w cx o = .stay (raiseTrap (s.putWick w') w' cx { cause := 0x03, val := tgt cx o }) := by
  have hi : w'.info = w.info := by rw [hw, Wick.wrS_info]
  have e := transfer_bad (s := s.putWick w') (w := w') (cx := cx) (target := tgt cx o) (by rw [hi]; exact ht)
  simp only [loopBody, if_neg hn]
  rw [← hw, e]

end

/-- Settles O13: every branch is `branch` under its own condition, and LOOP's body is a branch on the wick with its counter written. -/
theorem branches : Obligations.Branches := by
  unfold Obligations.Branches
  refine ⟨?conditional, ?loop⟩
  case conditional =>
    intro h o s w f
    obtain ⟨p0, p1, p2, p3⟩ := brpTaken_eq w (w.cx f (.brp h o)) o
    obtain ⟨s0, s1, s2, s3, s4, s5⟩ := brsTaken_eq w (w.cx f (.brs h o)) o
    have brp {taken : Bool} := exec_branch (w := w) (f := f) (o := o) (taken := taken) (exec_brp h o s)
    have brs {taken : Bool} := exec_branch (w := w) (f := f) (o := o) (taken := taken) (exec_brs h o s)
    exact ⟨exec_branch (exec_bra h o s) rfl, exec_branch (exec_brq h o s) rfl,
      fun hc => brp (congrArg _ (p0 hc)), fun hc => brp (congrArg _ (p1 hc)), fun hc => brp (congrArg _ (p2 hc)),
      fun hc => brp (congrArg _ (p3 hc)), fun hc => brs (congrArg _ (s0 hc)), fun hc => brs (congrArg _ (s1 hc)),
      fun hc => brs (congrArg _ (s2 hc)), fun hc => brs (congrArg _ (s3 hc)), fun hc => brs (congrArg _ (s4 hc)),
      fun hc => brs (congrArg _ (s5 hc))⟩
  case loop =>
    intro h o s w f r cx n w' t
    rw [exec_loop]
    have hi : w'.info = w.info := Wick.wrS_info ..
    have hf : (s.putWick w').findWick w.info.uid = some w' := findWick_put r.found hi
    have hs : w'.info.stage ≠ .exited := by rw [hi]; exact live_ne_exited r
    refine ⟨fun hn => ?through, fun hn ht => ?taken, fun hn ht => ?trap⟩
    case through => exact wickStep_next r _ (loopBody_through hn) hf hs
    case taken => exact wickStep_jump r _ (loopBody_taken rfl hn ht) (findWick_checkTarget hf ..) hs
    case trap =>
      obtain ⟨y, hy, hst⟩ := raiseTrap_find (s.putWick w') w' cx { cause := 0x03, val := tgt cx o } (x := w') (by rw [hi]; exact hf)
        (by rw [hi]; exact r.live)
      rw [hi] at hy
      exact wickStep_stay r _ (loopBody_traps rfl hn ht) hy (by rcases hst with e | e <;> rw [e] <;> simp)

/-! ### The return from single-lane mode (16 R341) -/

/-- Where nothing of the save area is needed no page of it stops an ERET (17 R423). -/
theorem eretStop_none {s : State} {w : Wick} (hr : w.info.restoring = false) (ha : w.access = none ∨ w.trap.ppend = false) :
    eretStop s w = none := by
  rcases ha with ha | ha <;> simp [eretStop, saveAccess, hr, ha]

/-- While a page of the save area has stopped it, an ERET waits (17 R423). -/
theorem eretBody_waits {s : State} {w : Wick} {pc : Word} (hs : s.isStopped w.info.ctx (saveWork w) = true) : eretBody s w pc = .wait 10 := by
  simp only [eretBody, hs, if_true]

theorem eretBody_returns {s : State} {w : Wick} {pc : Word} (hs : s.isStopped w.info.ctx (saveWork w) = false) :
    eretBody s w pc = .stay (eretTo s w pc) := by
  simp only [eretBody, hs, Bool.false_eq_true, if_false]

/-- The wick with the debug controls that an ERET has read, before its fragments issue again (21 R413, R414). -/
def rearmed (w : Wick) (dbg : Nat) : Wick :=
  { w with books := { w.books with debug := dbg, fresh := (List.range 8).filter (fun f => (w.frag f).state == .running) } }

/-- An ERET that no restore is due at: the controls are read, the wick returns, and what waits is tried. -/
theorem eretTo_eq {s : State} {w : Wick} {pc : Word} (hr : w.info.restoring = false) (ha : w.access = none ∨ w.trap.ppend = false) :
    eretTo s w pc = afterReturn (returnFromTrap ((readDebug s w.info.ctx).2.putWick (rearmed w (readDebug s w.info.ctx).1))
      (rearmed w (readDebug s w.info.ctx).1) pc) w.info.uid false := by
  have hi : ({ w.info with restoring := false } : WickInfo) = w.info := by rw [← hr]
  have hsave : (if w.trap.ppend = true then saveAccess s w else .ok s) = .ok s := by
    rcases ha with ha | ha <;> simp [saveAccess, ha]
  simp only [eretTo, eretStop_none hr ha, hr, Bool.false_eq_true, if_false, hsave, hi]
  rfl

/-- The wick as single-lane mode is left at pc: the marks of the entries that the handler has retired are cleared (17 R359). -/
def resumed (w : Wick) (pc : Word) : Wick :=
  ({ w with books := { w.books with log := w.books.log.map (fun (e : LogEntry) => if e.valid then e else { e with pending := [] }) } } :
    Wick).leaveSl pc

/-- The same with every SLEEP and UIWAIT ended, as the pre-emption that waits finds it. -/
def preempted (w : Wick) (pc : Word) : Wick :=
  { (resumed w pc).endWaits with trap := { (resumed w pc).trap with ppend := false } }

/-- With no pre-emption pending the wick goes on. -/
theorem returnFromTrap_resumes {s : State} {w : Wick} {pc : Word} (hp : w.trap.ppend = false) :
    returnFromTrap s w pc = s.putWick (resumed w pc) := by
  simp only [returnFromTrap, hp]; rfl

/-- The pre-emption that waits is entered once the access slice is saved. -/
theorem returnFromTrap_enters {s s1 : State} {w : Wick} {pc : Word} (hp : w.trap.ppend = true) (hs : saveAccess s (preempted w pc) = .ok s1) :
    returnFromTrap s w pc = takeTrap s1 (preempted w pc) w.trap.tfrag pc { cause := 0x30 } := by
  simp only [returnFromTrap, hp, if_true]
  split
  · rename_i s2 h2
    obtain rfl : s2 = s1 := Except.ok.inj (h2.symm.trans hs)
    rfl
  · rename_i h2
    exact absurd (h2.symm.trans hs) (by simp)

/-- While the access slice cannot be saved the pre-emption stays due (17 R423). -/
theorem returnFromTrap_waits {s : State} {w : Wick} {pc : Word} {e : Nat × PFault} (hp : w.trap.ppend = true)
    (hs : saveAccess s (preempted w pc) = .error e) :
    returnFromTrap s w pc = s.putWick { preempted w pc with info := { (preempted w pc).info with preq := true } } := by
  simp only [returnFromTrap, hp, if_true]
  split
  · rename_i h2
    exact absurd (h2.symm.trans hs) (by simp)
  · rfl

/-- The wick with every fragment's next instruction tried anew. -/
def renewed (w : Wick) : Wick := { w with frags := w.frags.map Frag.anew }

theorem resumed_frag (w : Wick) (pc : Word) (n : Nat) :
    (resumed w pc).frag n = ((renewed w).modFrag w.trap.tfrag (fun g => { g with pc := pc })).frag n := rfl

/-- Fragment TFRAG goes on at the PC given. -/
theorem resumed_pc_self (w : Wick) (pc : Word) (h : w.trap.tfrag < 8) : ((resumed w pc).frag w.trap.tfrag).pc = pc := by
  rw [resumed_frag, Wick.frag_modFrag _ _ h]

/-- Every other goes on at its own. -/
theorem resumed_pc_other (w : Wick) (pc : Word) {n : Nat} (h : n ≠ w.trap.tfrag) : ((resumed w pc).frag n).pc = (w.frag n).pc := by
  rw [resumed_frag, Wick.frag_modFrag_other _ _ h]
  exact frag_map_field Frag.pc w Frag.anew (fun _ => rfl) n

/-- No fragment has lost a lane. -/
theorem resumed_mask (w : Wick) (pc : Word) (n : Nat) : ((resumed w pc).frag n).mask = (w.frag n).mask := by
  rw [resumed_frag, frag_modFrag_field Frag.mask (renewed w) w.trap.tfrag (fun g => { g with pc := pc }) (fun _ => rfl)]
  exact frag_map_field Frag.mask w Frag.anew (fun _ => rfl) n

/-- What the end of a fragment's waits leaves of it. -/
theorem endWaits_field {α : Type} (p : Frag → α) (w : Wick) (hp : ∀ x : Frag, p { x with sleep := none, uiWait := false } = p x) (n : Nat) :
    p (w.endWaits.frag n) = p (w.frag n) := frag_map_field p w _ hp n

/-- No fragment sleeps or stands in UIWAIT once the waits have ended. -/
theorem endWaits_ended (w : Wick) (n : Nat) : (w.endWaits.frag n).sleep = none ∧ (w.endWaits.frag n).uiWait = false := by
  by_cases hn : n < 8
  · rw [show w.endWaits.frag n = _ from frag_map w _ hn]
    exact ⟨rfl, rfl⟩
  · rw [frag_outside _ hn]
    exact ⟨rfl, rfl⟩

/-- The fragments of the wick that the pre-emption finds are those that its waits' end leaves. -/
theorem preempted_frag (w : Wick) (pc : Word) (n : Nat) : (preempted w pc).frag n = (resumed w pc).endWaits.frag n := rfl

/-- Settles O19: an ERET that needs nothing of the save area returns, and the return is the resumption, or the entry of the pre-emption
that waits. -/
theorem trapReturn : Obligations.TrapReturn := by
  unfold Obligations.TrapReturn
  refine ⟨?returns, ?preemption, ?resumption⟩
  case returns =>
    intro h o s w f
    refine ⟨fun r hr hs ha => ?eret, fun r hr hs ha => ?next⟩
    case eret =>
      rw [exec_eret]
      exact wickStep_swept r _ ((eretBody_returns hs).trans (congrArg Eff.stay (eretTo_eq hr ha)))
    case next =>
      rw [exec_eretNext]
      exact wickStep_swept r _ ((eretBody_returns hs).trans (congrArg Eff.stay (eretTo_eq hr ha)))
  case preemption =>
    intro s w pc hf hp
    refine ⟨preempted w pc, fun ha => ?_, fun s1 => returnFromTrap_enters hp, fun e => returnFromTrap_waits hp, rfl, ?self, ?others, ?waits,
      rfl, rfl, rfl, rfl, rfl⟩
    · refine returnFromTrap_enters hp ?_
      rw [saveAccess, show (preempted w pc).access = w.access from rfl, ha]
    case self => rw [preempted_frag, endWaits_field Frag.pc _ (fun _ => rfl), resumed_pc_self w pc hf]
    case others =>
      intro n hn
      rw [preempted_frag, endWaits_field Frag.pc _ (fun _ => rfl), resumed_pc_other w pc hn]
    case waits =>
      intro n
      refine ⟨?_, endWaits_ended (resumed w pc) n⟩
      rw [preempted_frag, endWaits_field Frag.mask _ (fun _ => rfl), resumed_mask]
  case resumption =>
    intro s w pc hf hp
    exact ⟨resumed w pc, returnFromTrap_resumes hp, rfl, resumed_pc_self w pc hf, fun n hn => resumed_pc_other w pc hn, resumed_mask w pc,
      rfl, rfl, rfl, rfl⟩

/-! ### MFPR and MTPR (16 R329, R344) -/

@[simp] theorem dropCall_info (w : Wick) : w.dropCall.info = w.info := by
  unfold Wick.dropCall; (repeat' split) <;> rfl

@[simp] theorem setSvcst_info (w : Wick) (hi : Bool) (x : Word) : (w.setSvcst hi x).info = w.info := by
  unfold Wick.setSvcst Wick.modWait; dsimp only; (repeat' split) <;> simp

/-- A privileged register written moves the wick nowhere. -/
theorem prvWrite_info {w w' : Wick} {n : Nat} {x : Word} (hw : prvWrite w n x = some w') : w'.info = w.info := by
  unfold prvWrite at hw
  by_cases context : n < 0x040
  · rw [if_pos context] at hw
    obtain rfl := Option.some.inj hw; rfl
  rw [if_neg context] at hw
  by_cases trapRegs : n < 0x100
  · rw [if_pos trapRegs] at hw
    obtain rfl := Option.some.inj hw
    split <;> rfl
  rw [if_neg trapRegs] at hw
  by_cases splitTable : n < 0x120
  · rw [if_pos splitTable] at hw
    cases hg : (w.frag ((n - 0x100) / 4)).setWord ((n - 0x100) % 4) x with
    | none => rw [hg] at hw; cases hw
    | some g =>
      rw [hg] at hw
      obtain ⟨-, e⟩ := Option.ite_none_right_eq_some.mp hw
      obtain rfl := Option.some.inj e; rfl
  rw [if_neg splitTable] at hw
  by_cases ownScalars : n < 0x1A0
  · rw [if_pos ownScalars] at hw
    obtain rfl := Option.some.inj hw; rfl
  rw [if_neg ownScalars] at hw
  by_cases serialHeads : n < 0x1E0
  · rw [if_pos serialHeads] at hw
    obtain ⟨y, -, rfl⟩ := Option.map_eq_some_iff.mp hw; rfl
  rw [if_neg serialHeads] at hw
  by_cases generators : n ≤ 0x200
  · rw [if_pos generators] at hw
    obtain rfl := Option.some.inj hw; rfl
  rw [if_neg generators] at hw
  by_cases arrivals : n < 0x250
  · rw [if_pos arrivals] at hw
    obtain rfl := Option.some.inj hw; rfl
  rw [if_neg arrivals] at hw
  by_cases counters : n < 0x300
  · rw [if_pos counters] at hw
    obtain rfl := Option.some.inj hw
    split
    case h_5 => exact setSvcst_info ..
    case h_6 => exact setSvcst_info ..
    case h_7 => split <;> rfl
    all_goals rfl
  · rw [if_neg counters] at hw
    obtain rfl := Option.some.inj hw; rfl

/-- What was written to a trap register reads back. -/
theorem prvRead_prvWrite (s : State) {w w' : Wick} {n : Nat} {x : Word} (hn : n ∈ [0x040, 0x041, 0x042, 0x043, 0x044, 0x045])
    (hw : prvWrite w n x = some w') : prvRead s w' n = x := by
  simp only [List.mem_cons, List.not_mem_nil, or_false] at hn
  rcases hn with rfl | rfl | rfl | rfl | rfl | rfl
  all_goals obtain rfl := Option.some.inj hw; rfl

/-- MTPR of HWM is the context's. -/
theorem mtprBody_hwm {s : State} {w : Wick} {cx : Cx} {o : OpY} (hn : o.imm.toNat % 2 ^ 12 = 6) :
    mtprBody s w cx o = .next (setHwm s w.info.ctx (w.rdS cx.f o.a.toNat)) := by
  simp only [mtprBody, hn, if_true]

/-- MTPR of a register of the wick. -/
theorem mtprBody_wick {s : State} {w w' : Wick} {cx : Cx} {o : OpY} (hn : o.imm.toNat % 2 ^ 12 ≠ 6)
    (hw : prvWrite w (o.imm.toNat % 2 ^ 12) (w.rdS cx.f o.a.toNat) = some w') : mtprBody s w cx o = .next (s.putWick w') := by
  simp only [mtprBody, hn, if_false, hw]

/-- MTPR that would make a table malformed. -/
theorem mtprBody_malformed {s : State} {w : Wick} {cx : Cx} {o : OpY} (hn : o.imm.toNat % 2 ^ 12 ≠ 6)
    (hw : prvWrite w (o.imm.toNat % 2 ^ 12) (w.rdS cx.f o.a.toNat) = none) : mtprBody s w cx o = .trap { cause := 0x13 } := by
  simp only [mtprBody, hn, if_false, hw]

/-- TLBINV over its range: that of its operands, or everything. -/
theorem tlbinvBody_eq (s : State) (w : Wick) (cx : Cx) (h : Hdr) (o : OpY) :
    tlbinvBody s w cx h o = .next (invalidate s (tlbScope w o.imm) w.info.ctx (if h.sub = 0 then (w.rdS cx.f o.a.toNat).toNat else 0)
      (if h.sub = 0 then (w.rdS cx.f o.a.toNat).toNat + (w.rdS cx.f o.b.toNat).toNat else 2 ^ 64)) := by
  unfold tlbinvBody
  split <;> simp_all

/-! ### WICKCTL (16 R339) -/

/-- RELEASE after any entry but a pre-emption's is illegal. -/
theorem releaseBody_illegal {s : State} {w : Wick} (hc : w.trap.entered ≠ 0x30) : releaseBody s w = .trap { cause := 0x01 } := by
  simp only [releaseBody, if_pos hc]

/-- RELEASE after a pre-emption's. -/
theorem releaseBody_releases {s : State} {w : Wick} (hc : w.trap.entered = 0x30) :
    releaseBody s w = .stay (checkReleased ((mailReply s w).putWick { w.setShown none with
      info := { (w.setShown none).info with stage := .descheduled, released := true }
      trap := { (w.setShown none).trap with sl := false } }) w.info.group) := by
  simp only [releaseBody, hc, ne_eq, not_true_eq_false, if_false]

/-- A record of an own access changes no wick. -/
theorem ownStop_wicks (s : State) (c work acc va : Nat) (p : PFault) : (ownStop s c work acc va p).wicks = s.wicks := by
  unfold ownStop onStop
  split
  · rfl
  · unfold ownFault
    dsimp only
    split
    · rfl
    · exact (kept_postFaults _ _ _).wicks

theorem runPost_wicks {s t : State} {p : Post} (hp : runPost s p = .ok t) : t.wicks = s.wicks := by
  unfold runPost at hp
  split at hp
  · cases hp
  · rename_i s1 h1
    cases hp
    split <;> exact (kept_ctxWrite h1).wicks

/-- Writes of the device's own change no wick. -/
theorem runPosts_wicks : ∀ (ps : List Post) (blocked : List Nat) (s : State) (kept : List Post), (runPosts ps blocked s kept).wicks = s.wicks
  | [], _, _, _ => rfl
  | p :: ps, blocked, s, kept => by
    unfold runPosts
    split
    · exact runPosts_wicks ps ..
    · split
      · rename_i s1 h1
        exact (runPosts_wicks ps ..).trans (runPost_wicks h1)
      · exact (runPosts_wicks ps ..).trans (ownStop_wicks ..)

/-- The count of bands done changes no wick. -/
theorem updateBands_wicks (s : State) (pkt : Nat) : (updateBands s pkt).wicks = s.wicks := by
  unfold updateBands
  dsimp only
  split
  · rfl
  · split
    · rfl
    · split
      · exact runPosts_wicks ..
      · rfl

/-- A wick that leaves its slot is gone. -/
theorem leaveSlot_find (s : State) (w : Wick) : (leaveSlot s w).findWick w.info.uid = none := by
  have gone : (s.wicks.filter (fun x => x.info.uid != w.info.uid)).find? (fun x => x.info.uid == w.info.uid) = none :=
    List.find?_eq_none.mpr (fun x hx => by simpa using (List.mem_filter.mp hx).2)
  unfold leaveSlot State.findWick
  rw [updateBands_wicks]
  split <;> exact gone

/-- A wick that a command ends is gone. -/
theorem endWick_find (s : State) (w : Wick) : (endWick s w).findWick w.info.uid = none := by
  have h : (killWick s w).findWick w.info.uid = none := by
    unfold killWick exitWick
    exact leaveSlot_find _ { w with info := { w.info with killed := true } }
  unfold endWick checkReleased
  exact h

/-- The parked wick that UNPARK names. -/
def unparked (s : State) (w : Wick) (id : Nat) : Option Wick :=
  s.wicks.find? (fun x => x.info.ctx == w.info.ctx && x.info.stage == .resident && x.trap.parked && x.info.wickId == id)

theorem unparked_resident {s : State} {w x : Wick} {id : Nat} (hx : unparked s w id = some x) : x.info.stage = .resident := by
  have hp := List.find?_some hx
  simp only [Bool.and_eq_true, beq_iff_eq] at hp
  obtain ⟨⟨⟨-, resident⟩, -⟩, -⟩ := hp
  exact resident

theorem unparkBody_named {s : State} {w x : Wick} {cx : Cx} {o : OpY} (hx : unparked s w (w.rdS cx.f o.a.toNat).toNat = some x) :
    unparkBody s w cx o = .next (s.putWick x.unpark) := by
  unfold unparked at hx
  simp only [unparkBody, hx]

theorem unparkBody_none {s : State} {w : Wick} {cx : Cx} {o : OpY} (hx : unparked s w (w.rdS cx.f o.a.toNat).toNat = none) :
    unparkBody s w cx o = .next s := by
  unfold unparked at hx
  simp only [unparkBody, hx]

/-- Where a resident wick is put, one that has not left is still found: that wick, or the one that stood there. -/
theorem findWick_put_any {s : State} {w x : Wick} (hw : s.findWick w.info.uid = some w) (hs : w.info.stage = .resident)
    (hx : x.info.stage = .resident) : ∃ y, (s.putWick x).findWick w.info.uid = some y ∧ y.info.stage = .resident := by
  by_cases hu : w.info.uid = x.info.uid
  · refine ⟨x, ?_, hx⟩
    rw [hu]
    exact State.findWick_putWick s x (x := w) (by rw [← hu]; exact hw)
  · exact ⟨w, by rw [State.findWick_putWick_other s x hu]; exact hw, hs⟩

/-! ### ERET.REFLECT (16 R342) -/

theorem reflectBody_waits {s : State} {w : Wick} {cx : Cx} {o : OpY} (hs : s.isStopped w.info.ctx (saveWork w) = true) :
    reflectBody s w cx o = .wait 10 := by
  simp only [reflectBody, hs, if_true]

/-- A check that fails is reported in s61 of the handler. -/
theorem reflectBody_reports {s : State} {w : Wick} {cx : Cx} {o : OpY} {c : Nat} (hs : s.isStopped w.info.ctx (saveWork w) = false)
    (hr : reflectFault s w (w.rdS cx.f o.a.toNat) = some c) :
    reflectBody s w cx o = .next (s.putWick { w with trap := { w.trap with s := w.trap.s.setIfInBounds 1 (BitVec.ofNat 64 c) } }) := by
  simp only [reflectBody, hs, hr, Bool.false_eq_true, if_false]

section
variable {s t : State} {w w1 : Wick} {cx : Cx} {o : OpY} {a pc : Word}
  (hs : s.isStopped w.info.ctx (saveWork w) = false) (ha : w.rdS cx.f o.a.toNat = a) (hr : reflectFault s w a = none)
  (hpc : pc = (s.handleEntry w.info.ctx a).pc) (ht : checkTarget s w.info.coreId w.info.ctx false pc = (.ok, t))
  (hw : w1 = w.applyFrame w.trap.tfrag o.d.toNat (if o.imm.getLsbD 0 then w.trap.tnpc else w.trap.tpc) a)
include hs ha hr hpc ht hw

/-- A closure that can be entered is, by the return to its entry in a new frame. -/
theorem reflectBody_enters (he : eretStop ((t.addRef w.info.ctx a 1).putWick w1) w1 = none) :
    reflectBody s w cx o = .stay ((eretTo ((t.addRef w.info.ctx a 1).putWick w1) w1 pc).holdTarget w.info.uid w.trap.tfrag pc) := by
  subst ha hpc hw
  simp only [reflectBody, hs, hr, ht, Bool.false_eq_true, if_false]
  split
  · rename_i h2
    exact absurd (h2.symm.trans he) (by simp)
  · rfl

/-- A page of the save area that fails stops the return before anything of the call has happened. -/
theorem reflectBody_stops {acc va : Nat} {p : PFault} (he : eretStop ((t.addRef w.info.ctx a 1).putWick w1) w1 = some (acc, va, p)) :
    reflectBody s w cx o = .stay (ownStop s w.info.ctx (saveWork w) acc va p) := by
  subst ha hpc hw
  simp only [reflectBody, hs, hr, ht, Bool.false_eq_true, if_false]
  split
  · rename_i h2
    cases h2.symm.trans he
    rfl
  · rename_i h2
    exact absurd (h2.symm.trans he) (by simp)

end

/-! ### REPLAY (16 R343) -/

/-- An entry that is not valid gives 0. -/
theorem replayBody_invalid {s : State} {w : Wick} {cx : Cx} {o : OpY} (he : (w.books.log[o.imm.toNat % 4]?.getD {}).valid = false) :
    replayBody s w cx o = .next (s.putWick (w.wrS cx.f o.d.toNat 0)) := by
  simp only [replayBody, he, Bool.false_eq_true, if_false]

/-- An entry whose instruction completes is freed, and the wick takes what the instruction left. -/
theorem replayBody_completes {s s' : State} {w res : Wick} {cx : Cx} {o : OpY} {e : LogEntry} {i : Instr} {body : State → Wick → Cx → Eff}
    (he : e = w.books.log[o.imm.toNat % 4]?.getD {}) (hv : e.valid = true) (hi : decode e.instr = .ok i) (hb : loggedBody i = some body)
    (hn : body (s.putWick (w.atLog e)) (w.atLog e) (w.logCx e) = .next s') (hf : s'.findWick w.info.uid = some res) {w2 : Wick}
    (hw : w2 = ((w.replayed res e i.writes (w.logCx e).act).modLog (o.imm.toNat % 4) (fun x => { x with valid := false, pending := [] })).wrS
      cx.f o.d.toNat 0) :
    replayBody s w cx o = .next ((resnap s' w2).putWick w2) := by
  subst hw
  simp only [replayBody, ← he, hv, if_true, replayEntry, hi, hb, hn, replayDone, hf]

/-! ### BKPT (06 R151; 21 R412 to R416) -/

/-- The stop that a BKPT makes, at its own PC. -/
def bkptStop (cx : Cx) : StopInfo := ⟨0, 0, 0, cx.f, cx.pc, cx.act, 0⟩

/-- The wick with a stop that is due. -/
def noting (w : Wick) (x : StopInfo) : Wick := { w with books := { w.books with stop := some x } }

/-- A stop set when no service call speculates is noted in the wick. -/
theorem setStop_plain {w : Wick} {x : StopInfo} (hv : w.books.svc = none) : w.setStop x = noting w x := by
  simp [Wick.setStop, hv, noting]

@[simp] theorem setStop_info (w : Wick) (x : StopInfo) : (w.setStop x).info = w.info := by
  unfold Wick.setStop; dsimp only; split <;> rfl

theorem setStop_svc (w : Wick) (x : StopInfo) : (w.setStop x).books.svc = w.books.svc := by
  unfold Wick.setStop; dsimp only; split <;> rfl

/-- A stop is due, and the wick stands where it can be taken. -/
structure StopDue (s : State) (w : Wick) (x : StopInfo) : Prop where
  found : s.findWick w.info.uid = some w
  due : w.books.stop.map (fun x => x.at w) = some x
  live : w.info.stage = .resident
  running : w.trap.sl = false
  alone : w.books.pair = none

/-- The wick that the stop enters single-lane mode with: its waits ended, and the stop taken. -/
def stopping (w : Wick) : Wick := { w.endWaits with books := { w.books with stop := none } }

/-- While a service call speculates or a page has stopped its record, a stop waits (13 R277, 17 R423). -/
theorem debugStop_waits {s : State} {w : Wick} (hf : s.findWick w.info.uid = some w)
    (h : w.books.svc.isSome = true ∨ s.isStopped w.info.ctx (stopWork w) = true) : debugStop s w.info.uid = s := by
  unfold debugStop
  simp only [hf]
  split
  · rfl
  · rcases h with h | h <;> simp [h]

section
variable {s : State} {w : Wick} {x : StopInfo} (d : StopDue s w x) (hv : w.books.svc = none)
  (hs : s.isStopped w.info.ctx (stopWork w) = false)
include d hv hs

/-- With no debugger a BKPT's stop is taken at once. -/
theorem debugStop_unrecorded (hd : s.dbgen w.info.ctx = false) (hk : x.kind = 0) :
    debugStop s w.info.uid = takeTrap s (stopping w) x.frag x.pc { cause := 0x0C } := by
  simp [debugStop, d.found, d.due, d.live, d.running, d.alone, hv, hs, hd, hk, stopping]

/-- With room in the ring the record is written, and the stop taken. -/
theorem debugStop_recorded {t : State} (hd : s.dbgen w.info.ctx = true)
    (ht : writeTrace s w.info.ctx (stopRec s w x) false = .ok (some t)) :
    debugStop s w.info.uid = takeTrap t { stopping w with books := { (stopping w).books with traceSeq := w.books.traceSeq + 1 } }
      x.frag x.pc { cause := 0x0C } := by
  simp [debugStop, d.found, d.due, d.live, d.running, d.alone, hv, hs, hd, ht, stopping]

/-- While the ring is full the stop waits. -/
theorem debugStop_full (hd : s.dbgen w.info.ctx = true) (ht : writeTrace s w.info.ctx (stopRec s w x) false = .ok none) :
    debugStop s w.info.uid = s := by
  simp [debugStop, d.found, d.due, d.live, d.running, d.alone, hv, hs, hd, ht]

/-- A page of the ring that fails stops the record. -/
theorem debugStop_fails {acc va : Nat} {p : PFault} (hd : s.dbgen w.info.ctx = true)
    (ht : writeTrace s w.info.ctx (stopRec s w x) false = .error (acc, va, p)) :
    debugStop s w.info.uid = ownStop s w.info.ctx (stopWork w) acc va p := by
  simp [debugStop, d.found, d.due, d.live, d.running, d.alone, hv, hs, hd, ht]

end

/-- The step of a BKPT: the stop is set, and made at once when it can be. -/
theorem bkpt_step {h : Hdr} {o : OpC} {s : State} {w : Wick} {f : Nat} (r : Ready (.bkpt h o) s w f) :
    exec (.bkpt h o) s = .next (sweepExit (debugStop (s.putWick (w.setStop (bkptStop (w.cx f (.bkpt h o))))) w.info.uid) w
      (w.cx f (.bkpt h o))) := by
  rw [exec_bkpt]
  exact wickStep_swept r _ rfl

/-- A BKPT outside single-lane mode stops where it stands. -/
theorem bkptStop_at {w : Wick} {f : Nat} {i : Instr} (hsl : w.trap.sl = false) (x : StopInfo) :
    (bkptStop (w.cx f i)).at (noting w x) = bkptStop (w.cx f i) := by
  have hpc : (w.cx f i).pc = (w.frag (w.actor f)).pc := by simp [Wick.cx, hsl]
  unfold StopInfo.at
  split
  · unfold bkptStop
    rw [hpc]; rfl
  · rfl

/-- While a service call speculates the stop is held (13 R277). -/
theorem bkpt_speculating {h : Hdr} {o : OpC} {s : State} {w : Wick} {f : Nat} (r : Ready (.bkpt h o) s w f) (hv : w.books.svc.isSome = true) :
    exec (.bkpt h o) s = .next (s.putWick (w.setStop (bkptStop (w.cx f (.bkpt h o))))) := by
  have held : ∀ w' : Wick, w'.info = w.info → w'.books.svc = w.books.svc → debugStop (s.putWick w') w.info.uid = s.putWick w' := by
    intro w' hi hb
    have hd := debugStop_waits (s := s.putWick w') (w := w') (by rw [hi]; exact findWick_put r.found hi) (.inl (by rw [hb]; exact hv))
    rwa [hi] at hd
  rw [bkpt_step r, held _ (setStop_info ..) (setStop_svc ..), sweepExit_put r (setStop_info ..)]

/-- A ready BKPT outside single-lane mode, at the first instruction of no pair: its context, its stop, the wick with the stop noted, and the
state with that wick. -/
structure AtBkpt (h : Hdr) (o : OpC) (s : State) (w : Wick) (f : Nat) (cx : Cx) (x : StopInfo) (w1 : Wick) (s1 : State) : Prop where
  ready : Ready (.bkpt h o) s w f
  context : cx = w.cx f (.bkpt h o)
  stop : x = bkptStop cx
  noted : w1 = noting w x
  put : s1 = s.putWick w1
  running : w.trap.sl = false
  alone : w.books.pair = none

section
variable {h : Hdr} {o : OpC} {s s1 : State} {w w1 : Wick} {f : Nat} {cx : Cx} {x : StopInfo} (b : AtBkpt h o s w f cx x w1 s1)
include b

theorem AtBkpt.info : w1.info = w.info := by rw [b.noted]; rfl

theorem AtBkpt.found : s1.findWick w.info.uid = some w1 := by rw [b.put]; exact findWick_put b.ready.found b.info

theorem AtBkpt.unswept : sweepExit s1 w cx = s1 := by rw [b.put]; exact sweepExit_put b.ready b.info

/-- The stop of a BKPT is due at once. -/
theorem AtBkpt.due : StopDue s1 w1 x := by
  obtain ⟨r, rfl, rfl, rfl, rfl, hsl, hpair⟩ := b
  exact ⟨findWick_put r.found rfl, congrArg some (bkptStop_at hsl _), r.live, hsl, hpair⟩

variable (hv : w.books.svc = none)
include hv

theorem AtBkpt.step : exec (.bkpt h o) s = .next (sweepExit (debugStop s1 w1.info.uid) w cx) := by
  rw [bkpt_step b.ready, b.info, b.put, b.noted, b.stop, b.context, setStop_plain hv]

/-- While a page has stopped its record it waits (17 R423). -/
theorem AtBkpt.stopped (hs : s1.isStopped w.info.ctx (stopWork w1) = true) : exec (.bkpt h o) s = .next s1 := by
  rw [b.step hv, debugStop_waits b.due.found (.inr (by rw [b.info]; exact hs)), b.unswept]

variable (hs : s1.isStopped w.info.ctx (stopWork w1) = false)
include hs

/-- With no debugger it is taken. -/
theorem AtBkpt.unrecorded (hd : s1.dbgen w.info.ctx = false) :
    exec (.bkpt h o) s = .next (takeTrap s1 (stopping w1) cx.f cx.pc { cause := 0x0C }) := by
  have found := b.found
  have due := b.due
  have step := b.step hv
  obtain ⟨r, rfl, rfl, rfl, rfl, -, -⟩ := b
  rw [step, debugStop_unrecorded due hv hs hd rfl]
  exact congrArg _ (sweepExit_takeTrap found rfl r.live)

variable (hd : s1.dbgen w.info.ctx = true)
include hd

/-- With room in the ring it is taken once its record is written. -/
theorem AtBkpt.recorded {t : State} (ht : writeTrace s1 w.info.ctx (stopRec s1 w1 x) false = .ok (some t)) :
    exec (.bkpt h o) s = .next (sweepExit (takeTrap t
      { stopping w1 with books := { (stopping w1).books with traceSeq := w.books.traceSeq + 1 } } cx.f cx.pc { cause := 0x0C }) w cx) := by
  have due := b.due
  have step := b.step hv
  obtain ⟨r, rfl, rfl, rfl, rfl, -, -⟩ := b
  rw [step, debugStop_recorded due hv hs hd ht]; rfl

/-- While the ring is full it waits. -/
theorem AtBkpt.full (ht : writeTrace s1 w.info.ctx (stopRec s1 w1 x) false = .ok none) : exec (.bkpt h o) s = .next s1 := by
  have due := b.due
  have step := b.step hv
  have unswept := b.unswept
  obtain ⟨r, rfl, rfl, rfl, rfl, -, -⟩ := b
  rw [step, debugStop_full due hv hs hd ht, unswept]

/-- A page of the ring that fails stops the record. -/
theorem AtBkpt.fails {acc va : Nat} {p : PFault} (ht : writeTrace s1 w.info.ctx (stopRec s1 w1 x) false = .error (acc, va, p)) :
    exec (.bkpt h o) s = .next (sweepExit (ownStop s1 w.info.ctx (stopWork w1) acc va p) w cx) := by
  have due := b.due
  have step := b.step hv
  obtain ⟨r, rfl, rfl, rfl, rfl, -, -⟩ := b
  rw [step, debugStop_fails due hv hs hd ht]; rfl

end

/-- Settles O49: each form's step is its body's outcome, and each body is given above by its cases. -/
theorem privilegedForms : Obligations.PrivilegedForms := by
  unfold Obligations.PrivilegedForms
  refine ⟨?forms, fun h o s w f r hsl hpair => ?bkpt⟩
  case bkpt =>
    intro cx x w1 w2 s1 free
    have b : AtBkpt h o s w f cx x w1 s1 := ⟨r, rfl, rfl, rfl, rfl, hsl, hpair⟩
    exact ⟨fun ⟨hv, hs⟩ => b.unrecorded hv hs, fun _ ⟨hv, hs⟩ hd => b.recorded hv hs hd, fun ⟨hv, hs⟩ => b.full hv hs,
      fun _ _ _ ⟨hv, hs⟩ hd => b.fails hv hs hd, fun hv => b.stopped hv, fun hv => bkpt_speculating r hv⟩
  intro h o s w f F a n c ends gives
  refine ⟨?mfpr, ?hwm, ?mtpr, ?malformed, ?readBack, ?context, ?tlbinv, ?halt, ?illegal, ?release, ?kill, ?park, ?unpark, ?eret, ?waits,
    ?reports, ?reflect, ?replay⟩
  case mfpr =>
    intro r
    rw [exec_mfpr]
    exact wickStep_done r _ rfl (Wick.wrS_info ..)
  case hwm =>
    intro hn r
    rw [exec_mtpr]
    exact wickStep_next_swept r _ (mtprBody_hwm hn)
  case mtpr =>
    intro w' hn hw r
    rw [exec_mtpr]
    exact wickStep_done r _ (mtprBody_wick hn hw) (prvWrite_info hw)
  case malformed =>
    intro hn hw r
    rw [exec_mtpr]
    exact wickStep_takes r _ (mtprBody_malformed hn hw)
  case readBack => exact fun x w' hn hw => prvRead_prvWrite s hn hw
  case context => exact fun x hn => if_pos hn
  case tlbinv =>
    intro r
    rw [exec_tlbinv]
    exact wickStep_next_swept r _ (tlbinvBody_eq ..)
  case halt =>
    intro r
    rw [exec_halt]
    exact wickStep_stay r _ rfl (haltWick_find s w _ _ r.found) (by simp)
  case illegal =>
    intro hc r
    rw [exec_wickctlRelease]
    exact wickStep_takes r _ (releaseBody_illegal hc)
  case release =>
    intro kept hc r
    rw [exec_wickctlRelease]
    exact wickStep_swept r _ (releaseBody_releases hc)
  case kill =>
    refine ⟨fun r => ?_, endWick_find s w⟩
    rw [exec_wickctlKill, wickStep_swept r _ rfl, sweepExit_gone (endWick_find s w)]
  case park =>
    intro r
    rw [exec_wickctlPark]
    exact wickStep_puts r _ rfl rfl (by rw [show w.park.info.stage = w.info.stage from rfl]; exact live_ne_exited r)
  case unpark =>
    refine ⟨fun x hx r => ?_, fun hx r => ?_⟩
    · have hl : x.info.stage = .resident := unparked_resident hx
      obtain ⟨y, hy, hs⟩ := findWick_put_any (x := x.unpark) r.found r.live hl
      rw [exec_wickctlUnpark]
      exact wickStep_next r _ (unparkBody_named hx) hy (by rw [hs]; simp)
    · rw [exec_wickctlUnpark]
      exact wickStep_next r _ (unparkBody_none hx) r.found (live_ne_exited r)
  case eret =>
    refine fun hs => ⟨fun r => ?_, fun r => ?_⟩
    · rw [exec_eret]; exact wickStep_swept r _ (eretBody_returns hs)
    · rw [exec_eretNext]; exact wickStep_swept r _ (eretBody_returns hs)
  case waits =>
    intro i hi hs r
    simp only [List.mem_cons, List.not_mem_nil, or_false] at hi
    rcases hi with rfl | rfl | rfl
    · rw [exec_eret]; exact wickStep_waits r _ (eretBody_waits hs)
    · rw [exec_eretNext]; exact wickStep_waits r _ (eretBody_waits hs)
    · rw [exec_eretReflect]; exact wickStep_waits r _ (reflectBody_waits hs)
  case reports =>
    intro y hs hr r
    rw [exec_eretReflect]
    exact wickStep_done r _ (reflectBody_reports hs hr) rfl
  case reflect =>
    intro t hs hr ht w1 s2 pc
    have enters := reflectBody_enters (cx := w.cx f (.eretReflect h o)) (o := o) (w1 := w1) hs rfl hr rfl ht rfl
    have stops {acc va : Nat} {p : PFault} :=
      reflectBody_stops (cx := w.cx f (.eretReflect h o)) (o := o) (w1 := w1) (acc := acc) (va := va) (p := p) hs rfl hr rfl ht rfl
    exact ⟨fun he r => (exec_eretReflect h o s).trans (wickStep_swept r _ (enters he)),
      fun acc va p he r => (exec_eretReflect h o s).trans (wickStep_swept r _ (stops he))⟩
  case replay =>
    intro e
    refine ⟨fun hv r => ?_, fun i body s' res hv hi hb hn hf r => ?_⟩
    · rw [exec_replay]
      exact wickStep_done r _ (replayBody_invalid hv) (Wick.wrS_info ..)
    · intro w2
      rw [exec_replay]
      exact wickStep_next_swept r _ (replayBody_completes (e := e) (w2 := w2) rfl hv hi hb hn hf rfl)

end Sys2Proof.Proofs.Control

/-! PROOFS. Batches, write pointers and quantisation commands, the phases of a barrier, and an LDQ behind a logged access (07 R181, R193 to R203;
17 R356). -/

namespace Sys2Proof.Proofs.Copies

open Sys2Proof.Machine Sys2Proof.Proofs.Control

/-! ### Each form's body -/

section
variable (h : Hdr) (s : State)

theorem exec_ldq (o : OpM) : exec (.ldq h o) s = wickStep (.ldq h o) s (fun s w cx => ldqBody s w cx (.ldq h o) o) := rfl

variable (o : OpX)

theorem exec_cpyst : exec (.cpyst h o) s = wickStep (.cpyst h o) s (fun s w cx =>
    once cx s (.next (s.putWick (w.wrS cx.f o.d.toNat (BitVec.ofNat 64 (cpystVal s w h.sub.toNat (w.rdS cx.f o.a.toNat))))))) := rfl
theorem exec_seal : exec (.seal h o) s = wickStep (.seal h o) s (fun s w cx => sealBody s w cx o) := rfl
theorem exec_waitb : exec (.waitb h o) s = wickStep (.waitb h o) s (fun s w cx => waitbBody s w cx h o) := rfl
theorem exec_waitwp : exec (.waitwp h o) s = wickStep (.waitwp h o) s (fun s w cx => waitwpBody s w cx h o) := rfl
theorem exec_chrst : exec (.chrst h o) s = wickStep (.chrst h o) s (fun s w cx => chrstBody s w cx o) := rfl
theorem exec_qsub : exec (.qsub h o) s = wickStep (.qsub h o) s (fun s w cx => qsubBody s w cx o) := rfl
theorem exec_qwait : exec (.qwait h o) s = wickStep (.qwait h o) s (fun s w cx => qwaitBody s w cx o) := rfl

end

/-- A ready form whose body leaves the state as it is counts as one that leaves its wick. -/
theorem wickStep_leaves {i : Instr} {s : State} {w : Wick} {f : Nat} (r : Ready i s w f) (body : State → Wick → Cx → Eff)
    (hb : body s w (w.cx f i) = .next s) : wickStep i s body = .next (s.done i w (w.cx f i)) :=
  wickStep_done r body (by rw [hb, putWick_self r.found]) rfl

/-! ### The phases of a barrier (07 R196) -/

/-- The next phase has the other companion word. -/
theorem parity_succ (p : BitVec 32) : (p + 1).getLsbD 0 = !p.getLsbD 0 := by
  simp [BitVec.getLsbD_eq_getElem, BitVec.getElem_add, BitVec.carry, Nat.mod_one]

/-- The companion word just written. -/
theorem comp_setComp_self (b : Barrier) (p x : BitVec 32) : (b.setComp p x).comp p = x := by
  unfold Barrier.setComp Barrier.comp
  split <;> rfl

/-- The companion word of the phase before is another. -/
theorem comp_setComp_succ (b : Barrier) (p x : BitVec 32) : (b.setComp (p + 1) x).comp p = b.comp p := by
  unfold Barrier.setComp Barrier.comp
  rw [parity_succ]
  cases p.getLsbD 0 <;> rfl

/-- Writing a companion word changes nothing else. -/
theorem setComp_eq (b : Barrier) (p x : BitVec 32) :
    b.setComp p x = { b with comp0 := (b.setComp p x).comp0, comp1 := (b.setComp p x).comp1 } := by
  unfold Barrier.setComp
  split <;> rfl

/-- Where the arrivals are in, the next phase opens with its counts at zero and its companion word cleared. -/
theorem tryPhase_complete {b : Barrier} (hin : b.arrw = b.expw ∧ b.arrt = b.expt) :
    b.tryPhase = { b with phase := b.phase + 1, arrw := 0, arrt := 0, isst := 0 }.setComp (b.phase + 1) 0 := if_pos hin

/-- Settles O36: a phase that completes is a new phase with one companion word written, and any other is as it was. -/
theorem barrierPhase : Obligations.BarrierPhase := by
  unfold Obligations.BarrierPhase
  refine fun b => ⟨fun hin => ?completes, fun hout => if_neg hout⟩
  rw [tryPhase_complete hin]
  refine ⟨?_, ?_, ?_, ?_, comp_setComp_self .., comp_setComp_succ .., ?_, ?_⟩
  all_goals rw [setComp_eq]

/-! ### Batches and write pointers (07 R193 to R195, R200) -/

/-- A form that acts once does so where a lane is active. -/
theorem once_active {cx : Cx} {s : State} {e : Eff} (ha : cx.act ≠ 0) : once cx s e = e := if_neg ha

section
variable {s : State} {w : Wick} {cx : Cx} {h : Hdr} {o : OpX} (ha : cx.act ≠ 0)
include ha

/-- With fewer than 16 batches open SEAL closes the open one. -/
theorem sealBody_closes (hn : openBatches s w < 16) :
    sealBody s w cx o = .next (s.putWick
      (let w' := w.wrS cx.f o.d.toNat (w.books.batch.setWidth 64)
       { w' with books := { w'.books with batch := w.books.batch + 1, lastSeal := w.books.batch } })) := by
  simp only [sealBody, if_neg ha, if_neg (Nat.not_le.mpr hn)]

/-- With 16 open it waits. -/
theorem sealBody_waits (hn : 16 ≤ openBatches s w) : sealBody s w cx o = .wait 5 := by
  simp only [sealBody, if_neg ha, if_pos hn]

/-- WAITB is its condition: the batches that it names among the sealed ones are done. -/
theorem waitbBody_eq : waitbBody s w cx h o =
    if batchesDone s w.info.uid (min (if h.sub = 0 then (w.rdS cx.f o.a.toNat).toNat else o.imm.toNat) w.books.lastSeal.toNat)
    then .next s else .wait 5 := by
  simp only [waitbBody, ha, false_or]

/-- WAITWP is its condition: the write pointer of the channel has come to the count. -/
theorem waitwpBody_eq : waitwpBody s w cx h o =
    if (if h.sub = 0 then (w.rdS cx.f o.a.toNat).toNat else o.imm.toNat) ≤ (s.chan (chanOf w o)).wp then .next s else .wait 6 := by
  simp only [waitwpBody, ha, false_or, ge_iff_le]

/-- CHRST of an idle channel by a wick with the rights of a copy. -/
theorem chrstBody_idle {b : Band} (hr : copyRights s w o = .inr b) (hi : s.openCopies (chanOf w o) = []) :
    chrstBody s w cx o = .next (s.putChan { s.chan (chanOf w o) with wp := 0 }) := by
  simp only [chrstBody, if_neg ha, hr, hi, List.isEmpty_nil, if_true]

end

/-! ### Quantisation commands (07 R202, R203) -/

/-- Ranges resolved without a translation register change no wick. -/
theorem kept_resolveRanges (w : Wick) (cx : Cx) (k : AccKind) :
    ∀ (l : List (Nat × Nat)) (s : State), Kept s (resolveRanges s w cx k none l).2.2
  | [], s => Kept.refl s
  | (va, n) :: rest, s => by
    have first := kept_xlatePieces w.info.ctx cx.sl k [(va, n)] s
    unfold resolveRanges
    dsimp only
    split <;> rename_i hx <;> rw [hx] at first <;> exact first.trans (kept_resolveRanges w cx k rest _)

section
variable {s s1 : State} {w : Wick} {cx : Cx} {va len r : Nat} (hr : s.record w cx va len = some (s1, r))
include hr

/-- A record that reads is one whose bytes are below 2^57 and translate. -/
theorem record_resolves : va + len ≤ 2 ^ 57 ∧ ∃ ps, resolveRanges s w cx ⟨0, 0, 0⟩ none (pages va len) = ([], ps, s1)
    ∧ r = s1.wildVal w.info.pkt va len (leVal (readPieces s1.mem ps)) := by
  unfold State.record at hr
  split at hr
  · cases hr
  · rename_i hv
    split at hr
    · rename_i ps s' hres
      cases hr
      exact ⟨Nat.not_lt.mp hv, ps, hres, rfl⟩
    · cases hr

/-- Reading a record changes no wick. -/
theorem kept_record : Kept s s1 := by
  obtain ⟨-, ps, hres, -⟩ := record_resolves hr
  have k := kept_resolveRanges w cx ⟨0, 0, 0⟩ (pages va len) s
  rwa [hres] at k

/-- A form goes on with the record it reads. -/
theorem withRecord_reads (go : State → Nat → Eff) (more : List (Nat × Nat)) : withRecord s w cx va len go more = go s1 r := by
  obtain ⟨hv, ps, hres, rfl⟩ := record_resolves hr
  simp only [withRecord, if_neg (Nat.not_lt.mpr hv), hres, List.isEmpty_nil, if_true]

end

/-- The command that a QSUB of the wick queues in the state its record was read in. -/
def submitted (s : State) (w : Wick) (r : Nat) : Quant :=
  let cl := w.info.cluster
  let n := s.quantSeq[cl]?.getD 0 + 1
  { cluster := cl, seq := n, pkt := w.info.pkt, rank := w.info.rank, uid := w.info.uid, ctx := w.info.ctx, record := r,
    token := quantToken cl n, core := w.info.coreId, after := s.matrixSeq (coreKey cl (fld r 325 6)) }

/-- The state with that command queued. -/
def submit (s : State) (w : Wick) (r : Nat) : State :=
  { s with quantSeq := s.quantSeq.setIfInBounds w.info.cluster (submitted s w r).seq, quants := s.quants ++ [submitted s w r] }

/-- The token is the sequence number with the cluster above it. -/
theorem quantToken_eq (cl n : Nat) : quantToken cl n = n % 2 ^ 48 + cl % 8 * 2 ^ 48 := by
  rw [quantToken, at_, Nat.shiftLeft_eq]

section
variable {s s1 : State} {w : Wick} {cx : Cx} {o : OpX} {va r : Nat} (ha : cx.act ≠ 0) (hva : va = (w.rdS cx.f o.a.toNat).toNat)
  (hroom : (s.quants.filter (fun q => q.cluster == w.info.cluster && !q.done && !q.rest)).length < 64) (hal : va % 8 = 0)
  (hr : s.record w cx va 64 = some (s1, r))
include ha hva hroom hal hr

/-- QSUB with room in its engine checks the record it reads. -/
theorem qsubBody_reads : qsubBody s w cx o =
    if quantOk r then .next ((submit s1 w r).putWick (w.wrS cx.f o.d.toNat (BitVec.ofNat 64 (submitted s1 w r).token)))
    else .trap { cause := 0x13, val := BitVec.ofNat 64 va } := by
  subst hva
  simp only [qsubBody, if_neg ha, if_neg (Nat.not_le.mpr hroom), hal, ne_eq, not_true_eq_false, if_false, withRecord_reads hr]
  cases quantOk r <;> rfl

end

/-- The value names a command that the engine of the cluster has taken. -/
def namesCommand (s : State) (cl va : Nat) : Prop :=
  va / 2 ^ 48 % 8 = cl ∧ va / 2 ^ 51 % 2 ^ 13 = 0 ∧ 0 < va % 2 ^ 48 ∧ va % 2 ^ 48 ≤ s.quantSeq[cl]?.getD 0

/-- What QWAIT holds against a token, read as its fields. -/
theorem not_namesCommand_iff (s : State) (cl va : Nat) :
    ¬ namesCommand s cl va ↔ fld va 48 3 ≠ cl ∨ fld va 51 13 ≠ 0 ∨ fld va 0 48 = 0 ∨ fld va 0 48 > s.quantSeq[cl]?.getD 0 := by
  simp only [namesCommand, fld, Nat.shiftRight_eq_div_pow, Nat.pow_zero, Nat.div_one]
  omega

section
variable {s : State} {w : Wick} {cx : Cx} {o : OpX} {va : Nat} (ha : cx.act ≠ 0) (hva : va = (w.rdS cx.f o.a.toNat).toNat)
include ha hva

/-- A token of none answers 2. -/
theorem qwaitBody_none (hn : ¬ namesCommand s w.info.cluster va) : qwaitBody s w cx o = .next (s.putWick (w.wrS cx.f o.d.toNat 2)) := by
  subst hva
  simp only [qwaitBody, if_neg ha, if_pos ((not_namesCommand_iff ..).mp hn)]
  rfl

/-- A command that is done answers whether it met a special value, and one that runs is waited for. -/
theorem qwaitBody_command {q : Quant} (hn : namesCommand s w.info.cluster va)
    (hq : s.quants.find? (fun q => q.cluster == w.info.cluster && q.seq == va % 2 ^ 48) = some q) :
    qwaitBody s w cx o =
      if q.done then .next (s.putWick (w.wrS cx.f o.d.toNat (if q.special then 1 else 0))) else .wait 5 := by
  subst hva
  have hq' : s.quants.find? (fun q => q.cluster == w.info.cluster && q.seq == fld (w.rdS cx.f o.a.toNat).toNat 0 48) = some q := hq
  simp only [qwaitBody, if_neg ha, if_neg (mt (not_namesCommand_iff ..).mpr (not_not_intro hn)), hq']
  cases q.special <;> rfl

end

/-- Settles O34: each form's step is its body's outcome, and each body is given above by its conditions. -/
theorem batchAndQuantForms : Obligations.BatchAndQuantForms := by
  unfold Obligations.BatchAndQuantForms
  refine ⟨fun h o s w f => ?batches, fun h o s w f => ⟨?qsub, ?qwait⟩⟩
  case batches =>
    intro F m done waits
    refine ⟨?cpyst, ?sealed, ?sealWaits, ?waitb, ?waitbWaits, ?waitwp, ?waitwpWaits, ?chrst⟩
    case cpyst =>
      intro r ha
      rw [exec_cpyst]
      exact wickStep_done r _ (once_active ha) (Wick.wrS_info ..)
    case sealed =>
      intro hn r ha
      rw [exec_seal]
      exact wickStep_done r _ (sealBody_closes ha hn) (Wick.wrS_info ..)
    case sealWaits =>
      intro hn r ha
      rw [exec_seal]
      exact wickStep_waits r _ (sealBody_waits ha hn)
    case waitb =>
      intro hd r ha
      rw [exec_waitb]
      exact wickStep_leaves r _ ((waitbBody_eq ha).trans (if_pos hd))
    case waitbWaits =>
      intro hd r ha
      rw [exec_waitb]
      exact wickStep_waits r _ ((waitbBody_eq ha).trans (if_neg (ne_true_of_eq_false hd)))
    case waitwp =>
      intro hm r ha
      rw [exec_waitwp]
      exact wickStep_leaves r _ ((waitwpBody_eq ha).trans (if_pos hm))
    case waitwpWaits =>
      intro hm r ha
      rw [exec_waitwp]
      exact wickStep_waits r _ ((waitwpBody_eq ha).trans (if_neg (Nat.not_le.mpr hm)))
    case chrst =>
      intro b hr hi r ha
      rw [exec_chrst]
      exact wickStep_next r _ (chrstBody_idle ha hr hi) r.found (live_ne_exited r)
  case qsub =>
    intro r cx s1 x ha hroom hal hr
    have body := qsubBody_reads (o := o) ha rfl hroom hal hr
    rw [exec_qsub]
    refine ⟨fun hbad => ?traps, fun hgood => ?queues⟩
    case traps =>
      exact wickStep_takes r _ (body.trans (if_neg (ne_true_of_eq_false hbad)))
    case queues =>
      intro n q
      have found : (submit s1 w x).findWick w.info.uid = some w := ((kept_record hr).findWick _).trans r.found
      rw [← quantToken_eq]
      exact wickStep_next r _ (body.trans (if_pos hgood)) (findWick_put found (Wick.wrS_info ..))
        (by rw [Wick.wrS_info]; exact live_ne_exited r)
  case qwait =>
    intro r cx n ours gives ha
    refine ⟨fun hn => ?none, fun q hn hq => ⟨fun hd => ?done, fun hd => ?runs⟩⟩
    case none =>
      exact (exec_qwait h s o).trans (wickStep_done r _ (qwaitBody_none ha rfl hn) (Wick.wrS_info ..))
    case done =>
      exact (exec_qwait h s o).trans (wickStep_done r _ ((qwaitBody_command ha rfl hn hq).trans (if_pos hd)) (Wick.wrS_info ..))
    case runs =>
      exact (exec_qwait h s o).trans (wickStep_waits r _ ((qwaitBody_command ha rfl hn hq).trans (if_neg (ne_true_of_eq_false hd))))

/-! ### An LDQ behind a logged access (07 R181; 17 R356) -/

/-- An access outside single-lane mode that passes its checks waits behind a logged one that touches a byte of it. -/
theorem guardAccess_logged {s : State} {w : Wick} {cx : Cx} {o : OpM} {atomic : Bool} {n : Nat} {ls : List (Nat × Nat)}
    (hc : checkLanes s w o atomic n ls = none) (hsl : cx.sl = false)
    (ht : w.touchesLog (ls.flatMap (fun x => laneRanges w o n x.1 x.2)) = true) (go : Eff) :
    guardAccess s w cx o atomic n ls go = .wait 12 := by
  simp only [guardAccess, hc, hsl, Bool.not_false, Bool.true_and]
  exact if_pos ht

/-- An LDQ of the access slice with room in its queue waits there too. -/
theorem ldq_logged {h : Hdr} {o : OpM} {s : State} {w : Wick} {f : Nat} (r : Ready (.ldq h o) s w f) (hs : w.inAccess = true)
    (hq : (w.books.qp[o.d.toNat % 4]?.getD []).length < 8) (hsl : w.trap.sl = false) {ls : List (Nat × Nat)}
    (hls : ls = laneList w (w.cx f (.ldq h o)) o (fun _ => 0)) (hc : checkLanes s w o false o.sz.bytes ls = none)
    (ht : w.touchesLog (ls.flatMap (fun x => laneRanges w o o.sz.bytes x.1 x.2)) = true) :
    exec (.ldq h o) s = .next (s.putWick (w.waits (w.actor f) 12)) := by
  subst hls
  have body : ldqBody s w (w.cx f (.ldq h o)) (.ldq h o) o = .wait 12 := by
    simp only [ldqBody, hs, Bool.not_true, Bool.false_eq_true, if_false, if_neg (Nat.not_le.mpr hq)]
    exact guardAccess_logged hc hsl ht _
  rw [exec_ldq]
  exact wickStep_waits r _ body

/-- The operand queues of a wick of the state. -/
def queuesOf (s : State) (u : Nat) : Option (Vector (List QEntry) 4) := (s.findWick u).map (fun w => w.books.qp)

@[simp] theorem waits_qp (w : Wick) (f why : Nat) : (w.waits f why).books.qp = w.books.qp := by
  unfold Wick.waits Wick.parkCheck Wick.stalled
  dsimp only
  (repeat' split) <;> rfl

/-- A wick put in the state has its own queues. -/
theorem queuesOf_putWick (s : State) (w : Wick) : queuesOf (s.putWick w) w.info.uid = (s.findWick w.info.uid).map (fun _ => w.books.qp) := by
  unfold queuesOf State.findWick State.putWick
  dsimp only
  rw [find_modFirst_self w.info.uid (fun _ => w) (fun _ _ => rfl), Option.map_map]
  rfl

/-- A change of a wick that keeps its number and its queues. -/
theorem queuesOf_modWick (s : State) {u : Nat} {g : Wick → Wick} (hi : ∀ x, (g x).info = x.info) (hq : ∀ x, (g x).books.qp = x.books.qp) :
    queuesOf (s.modWick u g) u = queuesOf s u := by
  unfold queuesOf
  rw [State.findWick_modWick _ _ _ (fun x hx => by rw [hi]; exact hx), Option.map_map]
  exact congrArg (fun p => (s.findWick u).map p) (funext hq)

/-- Fault records change no queue. -/
theorem queuesOf_wickFaults (s : State) (u c : Nat) (recs : List Nat) : queuesOf (wickFaults s u c recs) u = queuesOf s u := by
  unfold wickFaults
  rw [queuesOf, (kept_postFaults _ _ _).findWick]
  exact queuesOf_modWick s (fun _ => rfl) (fun _ => rfl)

/-- The step of a form that pops no queue changes none. -/
theorem queuesOf_stepped (s : State) {i : Instr} (cx : Cx) (hp : i.ports = []) : queuesOf (s.stepped i cx) cx.uid = queuesOf s cx.uid :=
  queuesOf_modWick s (fun _ => Wick.moved_info ..) (fun x => by rw [Wick.moved_books, Wick.popPorts_nil x i hp])

/-- What a load into a queue leaves of the queues: those of the wick it puts. -/
theorem queuesOf_loaded (t : State) (w : Wick) (cx : Cx) {i : Instr} (c : Nat) (recs : List Nat) (hu : w.info.uid = cx.uid) (hp : i.ports = []) :
    queuesOf ((wickFaults (t.putWick w) cx.uid c recs).stepped i cx) cx.uid = (t.findWick cx.uid).map (fun _ => w.books.qp) := by
  rw [queuesOf_stepped _ cx hp, queuesOf_wickFaults, ← hu, queuesOf_putWick]

/-- LDQ of 4 bytes at s0 into QP0. -/
def queueLoadOps : OpM := ⟨0, 0xFF, 0, 7, .glob, .b4, .plain, .relaxed, false, false, false, 0, 0⟩
def queueLoad : Instr := .ldq ⟨0, false, 15⟩ queueLoadOps

/-- The access slice of a wick whose s0 is 0, with a logged access of the execute slice to bytes 0 to 3. -/
def loggedWick : Wick :=
  let w := placedWick 1 false
  { w with
    info := { w.info with sliced := true }
    inAccess := true
    access := some { live := true }
    books := { w.books with log := w.books.log.setIfInBounds 0 { valid := true, foot := [(0, 0, 4)] } } }

/-- That wick issues from fragment 0, the page of address 0 being mapped. -/
def loggedState : State :=
  { placeCtx State.reset with mem := placeImage [] (oneSlotLine 0), wicks := [loggedWick], cur := .wick 1 0 }

/-- Its active lanes with their addresses. -/
def queueLoadLanes : List (Nat × Nat) := laneList loggedWick (loggedWick.cx 0 queueLoad) queueLoadOps (fun _ => 0)

theorem queueLoad_ready : Ready queueLoad loggedState loggedWick 0 where
  cur := rfl
  found := rfl
  live := rfl
  legal := by decide
  slice := fun _ => rfl
  privileged := by decide
  barred := fun _ => by decide
  guard := by decide
  service := by decide
  result := rfl
  regs := by decide +kernel
  log := by decide +kernel
  ports := by decide

theorem queueLoad_checked : checkLanes loggedState loggedWick queueLoadOps false 4 queueLoadLanes = none := by decide +kernel

theorem queueLoad_reaches :
    ∃ l t, loggedState.reach loggedWick (loggedWick.cx 0 queueLoad) queueLoadOps (accOf queueLoadOps 0 0) 4 queueLoadLanes = some (l, t) := by
  have h : (loggedState.reach loggedWick (loggedWick.cx 0 queueLoad) queueLoadOps (accOf queueLoadOps 0 0) 4 queueLoadLanes).isSome = true := by
    decide +kernel
  obtain ⟨⟨l, t⟩, e⟩ := Option.isSome_iff_exists.mp h
  exact ⟨l, t, e⟩

theorem queueLoad_touches :
    loggedWick.touchesLog (queueLoadLanes.flatMap (fun x => laneRanges loggedWick queueLoadOps 4 x.1 x.2)) = true := by decide +kernel

/-- The LDQ waits. -/
theorem queueLoad_waits : exec queueLoad loggedState = .next (loggedState.putWick (loggedWick.waits 0 12)) :=
  ldq_logged queueLoad_ready rfl (by decide) rfl rfl queueLoad_checked queueLoad_touches

/-- Its queue stays empty. -/
theorem queueLoad_queues : queuesOf (loggedState.putWick (loggedWick.waits 0 12)) 1 = some loggedWick.books.qp := by
  rw [← waits_qp loggedWick 0 12]
  exact queuesOf_putWick loggedState (loggedWick.waits 0 12)

/-- Refutes O32: LDQ's third clause asks that the checks pass and the lanes translate, but not that no logged access touches their bytes
(17 R356); behind one the LDQ waits, and appends nothing. -/
theorem not_waitAndQueueLoad : ¬ Obligations.WaitAndQueueLoad := by
  unfold Obligations.WaitAndQueueLoad
  rintro ⟨-, hldq⟩
  obtain ⟨l, t, hreach⟩ := queueLoad_reaches
  obtain ⟨-, -, appends⟩ := hldq _ _ _ _ _ queueLoad_ready
  obtain ⟨e, w', hexec, hw, -, -⟩ := appends l t rfl (by decide) queueLoad_checked hreach
  have same := congrArg (fun s => queuesOf s 1) (Host.Outcome.next.inj (hexec.symm.trans queueLoad_waits))
  have loads := queuesOf_loaded t w' (loggedWick.cx 0 queueLoad) (i := queueLoad) 0 [] (by rw [hw]; rfl) (by decide)
  obtain ⟨_, -, kept⟩ := Option.map_eq_some_iff.mp (loads.symm.trans (same.trans queueLoad_queues))
  have longer : 1 = 0 := by
    rw [hw] at kept
    exact congrArg (fun q => (q[0]?.getD []).length) kept
  exact Nat.one_ne_zero longer

end Sys2Proof.Proofs.Copies

/-! PROOFS. The engine that a matrix instruction enters, and the token it carries there (09 R208, R214, R225). -/

namespace Sys2Proof.Proofs.MatrixEngine

open Sys2Proof.Machine Sys2Proof.Proofs.Control

/-! ### The engine of a core -/

@[simp] theorem matrix_putMatrix (s : State) (m : Matrix) : (s.putMatrix m).matrix m.core = m := by
  simp [State.matrix, State.putMatrix]

/-- The engine found for a core is that core's. -/
@[simp] theorem matrix_core (s : State) (core : Nat) : (s.matrix core).core = core := by
  unfold State.matrix
  cases hm : s.matrices.find? (fun m => m.core == core) with
  | none => rfl
  | some m => exact beq_iff_eq.mp (List.find?_some (p := fun m : Matrix => m.core == core) hm)

/-- Putting a wick changes no engine. -/
@[simp] theorem putWick_matrix (s : State) (w : Wick) (core : Nat) : (s.putWick w).matrix core = s.matrix core := rfl

/-- Neither does the move of a PC. -/
@[simp] theorem stepped_matrix (s : State) (i : Instr) (cx : Cx) (core : Nat) : (s.stepped i cx).matrix core = s.matrix core := rfl

/-- The token of the last instruction of a queue. -/
def lastToken (queue : List MInstr) : Option Nat := queue.getLast?.map MInstr.token

theorem lastToken_concat (older : List MInstr) (x : MInstr) : lastToken (older ++ [x]) = some x.token := by
  rw [lastToken, List.getLast?_concat]
  rfl

/-- An engine put is the one that its core has, whatever wick is put and stepped after it. -/
theorem matrix_entered {m : Matrix} {core : Nat} (hm : m.core = core) (s : State) (w : Wick) (i : Instr) (cx : Cx) :
    (((s.putMatrix m).putWick w).stepped i cx).matrix core = m := by
  subst hm
  rw [stepped_matrix, putWick_matrix, matrix_putMatrix]

/-! ### Entering the engine -/

/-- An instruction as the engine m holds it: with its place and its token, and whose it is. -/
def issued (m : Matrix) (w : Wick) (x : MInstr) : MInstr :=
  { x with seq := m.seq + 1, token := matrixToken w.info.cluster w.info.core (m.seq + 1), uid := w.info.uid, pkt := w.info.pkt,
           rank := w.info.rank, ctx := w.info.ctx }

/-- The engine m, its descriptors set by desc, with x entered last. -/
def entered (m : Matrix) (w : Wick) (x : MInstr) (desc : Matrix → Matrix) : Matrix :=
  { desc { m with seq := m.seq + 1 } with queue := purge (desc { m with seq := m.seq + 1 }) ++ [issued m w x] }

/-- The state with x entered in the engine of the wick's core, and its token in D. -/
def enterState (s : State) (w : Wick) (cx : Cx) (o : OpX) (x : MInstr) (desc : Matrix → Matrix) : State :=
  (s.putMatrix (entered (s.matrix w.info.coreId) w x desc)).putWick
    (w.wrS cx.f o.d.toNat (BitVec.ofNat 64 (issued (s.matrix w.info.coreId) w x).token))

theorem enterMatrix_room {s : State} {w : Wick} (hroom : engineFull (s.matrix w.info.coreId) = false) (cx : Cx) (o : OpX) (x : MInstr)
    (desc : Matrix → Matrix) : enterMatrix s w cx o x desc = .next (enterState s w cx o x desc) :=
  if_neg (ne_true_of_eq_false hroom)

theorem exec_mzero (h : Hdr) (o : OpX) (s : State) :
    exec (.mzero h o) s = wickStep (.mzero h o) s (fun s w cx => mzeroBody s w cx h o false) := rfl

/-- MZERO of a converged wick has no check but the room in the engine (09 R223). -/
theorem mzeroBody_enters {s : State} {w : Wick} {cx : Cx} (hw : wickWide w cx = true) (h : Hdr) (o : OpX) :
    mzeroBody s w cx h o false = enterMatrix s w cx o (baseInstr .mzero h o 0) id := by
  simp only [mzeroBody, hw, Bool.not_true, Bool.false_eq_true, if_false]
  rfl

section
variable {h : Hdr} {o : OpX} {s : State} {w : Wick} {f : Nat} (r : Ready (.mzero h o) s w f)
  (hw : wickWide w (w.cx f (.mzero h o)) = true) (hroom : engineFull (s.matrix w.info.coreId) = false)
include r hw hroom

/-- With room an MZERO enters the engine, and the PC goes on. -/
theorem mzero_enters :
    exec (.mzero h o) s = .next ((enterState s w (w.cx f (.mzero h o)) o (baseInstr .mzero h o 0) id).stepped (.mzero h o)
      (w.cx f (.mzero h o))) := by
  rw [exec_mzero]
  exact wickStep_next r _ ((mzeroBody_enters hw h o).trans (enterMatrix_room hroom ..))
    (findWick_put (s := s.putMatrix _) r.found (Wick.wrS_info ..)) (by rw [Wick.wrS_info]; exact live_ne_exited r)

/-- The instruction that an MZERO leaves last in the engine carries the token that D takes (09 R214). -/
theorem mzero_lastToken {t : State} (ht : exec (.mzero h o) s = .next t) :
    lastToken (t.matrix w.info.coreId).queue = some (matrixToken w.info.cluster w.info.core ((s.matrix w.info.coreId).seq + 1)) := by
  obtain rfl := Host.Outcome.next.inj ((mzero_enters r hw hroom).symm.trans ht)
  rw [enterState, matrix_entered]
  · exact lastToken_concat ..
  · exact matrix_core ..

end

/-! ### An MZERO in an engine at reset -/

/-- MZERO of tile 0, its token to s1. -/
def zeroHdr : Hdr := ⟨0, false, 15⟩
def zeroOps : OpX := ⟨1, 0, 0, 0, 0, 0⟩
def zeroTile : Instr := .mzero zeroHdr zeroOps

/-- A converged wick about to issue from fragment 0, the device at reset. -/
def zeroWick : Wick := placedWick 1 false
def zeroState : State := { State.reset with wicks := [zeroWick], cur := .wick 1 0 }

theorem zeroTile_ready : Ready zeroTile zeroState zeroWick 0 where
  cur := rfl
  found := rfl
  live := rfl
  legal := by decide
  slice := by decide
  privileged := by decide
  barred := by decide
  guard := by decide
  service := by decide
  result := rfl
  regs := by decide +kernel
  log := by decide +kernel
  ports := by decide

theorem zeroTile_wide : wickWide zeroWick (zeroWick.cx 0 zeroTile) = true := by decide +kernel

theorem zeroState_room : engineFull (zeroState.matrix zeroWick.info.coreId) = false := by decide

/-- The first instruction of core 0 has the token 1. -/
theorem zeroTile_token : matrixToken zeroWick.info.cluster zeroWick.info.core ((zeroState.matrix zeroWick.info.coreId).seq + 1) = 1 := by decide

/-- Refutes O45: its record of the instruction that has entered leaves out the token, which the engine keeps beside the place in the order
(09 R214). The first MZERO after reset stands in the queue with token 1, where the statement has 0. -/
theorem not_matrixForms : ¬ Obligations.MatrixForms := by
  unfold Obligations.MatrixForms
  intro forms
  have tokenless : ∀ {h : Hdr} {o : OpX} {s : State} {w : Wick} {f : Nat}, Ready (.mzero h o) s w f →
      wickWide w (w.cx f (.mzero h o)) = true → engineFull (s.matrix w.info.coreId) = false →
      matrixToken w.info.cluster w.info.core ((s.matrix w.info.coreId).seq + 1) = 0 := by
    intro h o s w f r hw hroom
    obtain ⟨-, -, -, mzero, -⟩ := forms h o s w f
    have kept := mzero_lastToken r hw hroom (mzero r hw hroom)
    rw [matrix_entered, lastToken_concat] at kept
    · exact (Option.some.inj kept).symm
    · exact matrix_core ..
  have zero := tokenless zeroTile_ready zeroTile_wide zeroState_room
  exact Nat.one_ne_zero (zeroTile_token.symm.trans zero)

end Sys2Proof.Proofs.MatrixEngine

/-! PROOFS. The entity instructions: what reading the launch's world answers, what a form that acts once or lane by lane leaves, and each form
as one of the two (11 R236 to R244). -/

namespace Sys2Proof.Proofs.EntityStore

open Sys2Proof.Machine Sys2Proof.Proofs.Control

/-! ### Masks and their lanes -/

/-- The number of which bit i is f i, below n. -/
theorem testBit_foldl_bits (f : Nat → Bool) (n i : Nat) :
    ((List.range n).foldl (fun acc i => if f i then acc + 2 ^ i else acc) 0).testBit i = (decide (i < n) && f i)
      ∧ (List.range n).foldl (fun acc i => if f i then acc + 2 ^ i else acc) 0 < 2 ^ n := by
  induction n with
  | zero => simp
  | succ n ih =>
    obtain ⟨bits, bound⟩ := ih
    rw [List.range_succ, List.foldl_append, List.foldl_cons, List.foldl_nil]
    generalize (List.range n).foldl (fun acc i => if f i then acc + 2 ^ i else acc) 0 = low at bits bound
    by_cases hn : f n = true
    · rw [if_pos hn, Nat.add_comm low]
      refine ⟨?_, by omega⟩
      rcases Nat.lt_trichotomy i n with lt | rfl | gt
      · rw [Nat.testBit_two_pow_add_gt lt, bits]
        simp [lt, Nat.lt_succ_of_lt lt]
      · rw [Nat.testBit_two_pow_add_eq, Nat.testBit_lt_two_pow bound]
        simp [hn]
      · rw [Nat.testBit_lt_two_pow (Nat.lt_of_lt_of_le (by omega) (Nat.pow_le_pow_right Nat.two_pos gt))]
        simp [Nat.not_lt.mpr gt]
    · rw [if_neg hn, bits]
      refine ⟨?_, by omega⟩
      by_cases e : i = n
      · simp [e, hn]
      · rw [decide_eq_decide.mpr (show i < n ↔ i < n + 1 by omega)]

/-- A lane is in the mask of a predicate where the predicate holds of it. -/
theorem getLsbD_maskOf (f : Nat → Bool) {i : Nat} (hi : i < 32) : (maskOf f).getLsbD i = f i := by
  rw [maskOf, BitVec.getLsbD_ofNat, (testBit_foldl_bits f 32 i).1]
  simp [hi]

theorem mem_lanesOf {m : Mask} {i : Nat} : i ∈ lanesOf m ↔ i < 32 ∧ m.getLsbD i = true := by
  simp [lanesOf]

theorem lanesOf_nodup (m : Mask) : (lanesOf m).Nodup := List.nodup_range.filter _

/-! ### The lanes of a per-lane form (11 R237) -/

/-- Among pairs with distinct keys each is found by its key. -/
theorem find_key {α : Type} {y : Nat × α} : ∀ {vs : List (Nat × α)}, (vs.map Prod.fst).Nodup → y ∈ vs →
    vs.find? (fun x => x.1 == y.1) = some y
  | x :: xs, hn, hy => by
    obtain ⟨fresh, hn⟩ := List.nodup_cons.mp hn
    rcases List.mem_cons.mp hy with rfl | hy
    · exact List.find?_cons_of_pos (beq_self_eq_true _)
    · have other : ¬ (x.1 == y.1) = true := fun e => fresh (beq_iff_eq.mp e ▸ List.mem_map_of_mem hy)
      exact (List.find?_cons_of_neg (p := fun x : Nat × α => x.1 == y.1) other).trans (find_key hn hy)

section
variable {α : Type} {lane : Nat → EM α}

/-- Where no lane failed, each lane asked has its answer, in order. -/
theorem eLanes_lanes : ∀ {ls : List Nat} {s u : State} {before vs : List (Nat × α)} {bad : List (Nat × Nat × Nat × PFault)},
    eLanes lane ls s before bad = .ok (u, vs, []) → vs.map Prod.fst = before.map Prod.fst ++ ls ∧ bad = []
  | [], s, u, before, vs, bad, h => by
    cases h
    simp
  | i :: is, s, u, before, vs, bad, h => by
    unfold eLanes at h
    split at h
    · have later := eLanes_lanes h
      simpa using later
    · have later := (eLanes_lanes h).2
      simp at later
    · cases h

variable {ls : List Nat} {s u : State} {vs : List (Nat × α)} (h : eLanes lane ls s [] [] = .ok (u, vs, []))
include h

/-- The lanes that have an answer are those asked. -/
theorem any_answer (i : Nat) : vs.any (fun y => y.1 == i) = decide (i ∈ ls) := by
  have lanes : vs.map Prod.fst = ls := by simpa using (eLanes_lanes h).1
  rw [← lanes, Bool.eq_iff_iff]
  simp

/-- Among distinct lanes the answer of a lane is found by it. -/
theorem find_answer (hn : ls.Nodup) {y : Nat × α} (hy : y ∈ vs) : vs.find? (fun x => x.1 == y.1) = some y := by
  have lanes : vs.map Prod.fst = ls := by simpa using (eLanes_lanes h).1
  exact find_key (lanes ▸ hn) hy

end

/-- The mask of the lanes that have an answer is the one that was asked. -/
theorem maskOf_answered {α : Type} {lane : Nat → EM α} {m : Mask} {s u : State} {vs : List (Nat × α)}
    (h : eLanes lane (lanesOf m) s [] [] = .ok (u, vs, [])) : maskOf (fun i => vs.any (fun y => y.1 == i)) = m := by
  apply BitVec.eq_of_getLsbD_eq
  intro i hi
  rw [getLsbD_maskOf _ hi, any_answer h, Bool.eq_iff_iff, decide_eq_true_iff, mem_lanesOf]
  exact and_iff_right hi

/-! ### A run of result registers -/

/-- n results written to the registers from d on. -/
def wrRun (cx : Cx) (d : Nat) (r : Nat → VReg) (n : Nat) (w : Wick) : Wick := w.wrRes cx ((List.range n).map (fun k => (d + k, r k)))

theorem wrRun_succ (cx : Cx) (d : Nat) (r : Nat → VReg) (n : Nat) (w : Wick) :
    wrRun cx d r (n + 1) w = (wrRun cx d r n w).wrV cx.live cx.act (d + n) (r n) := by
  simp [wrRun, Wick.wrRes, List.range_succ]

section
variable (cx : Cx) {d : Nat} (r : Nat → VReg) (w : Wick)

theorem wrRun_vecOnly {n : Nat} (hd : ∀ k, k < n → writable (d + k)) : VecOnly w (wrRun cx d r n w) :=
  Wick.wrRes_vecOnly cx _ w (by simpa using hd)

/-- Registers outside the run are as they were. -/
theorem rdV_wrRun_outside {m : Nat} : ∀ {n : Nat}, m < d ∨ d + n ≤ m → (wrRun cx d r n w).rdV m = w.rdV m
  | 0, _ => rfl
  | n + 1, hm => by
    rw [wrRun_succ, Wick.rdV_wrV_other _ _ _ _ (by omega), rdV_wrRun_outside (by omega)]

/-- Each register of the run holds its own result. -/
theorem rdV_wrRun {k : Nat} : ∀ {n : Nat}, k < n → writable (d + k) →
    (wrRun cx d r n w).rdV (d + k) = VReg.merge cx.live cx.act (w.rdV (d + k)) (r k)
  | n + 1, hk, hw => by
    rw [wrRun_succ]
    by_cases e : k = n
    · subst e
      rw [Wick.rdV_wrV _ _ _ _ hw, rdV_wrRun_outside cx r w (by omega)]
    · rw [Wick.rdV_wrV_other _ _ _ _ (by omega), rdV_wrRun (by omega) hw]

end

/-! ### The registers an entity form may name (11 R236; 02 R49) -/

/-- A register that a form writes and that passes the check of registers is no port. -/
theorem regCheck_writes {w : Wick} {i : Instr} (hr : regCheck w i = none) {fo : BitVec 8 × Opnd} (hf : fo ∈ i.opnds) (hw : fo.2.wr = true)
    {m : Nat} (hm : RegName.v m ∈ fo.2.names fo.1) : m < 248 ∨ 252 ≤ m := by
  have fault : regFault w (!fo.2.wr && !i.noPort && (fo.2.names fo.1).length == 1) (.v m) = none :=
    List.findSome?_eq_none_iff.mp (List.findSome?_eq_none_iff.mp hr fo hf) _ hm
  refine Decidable.byContradiction fun port => ?_
  have h252 : ¬ 252 ≤ m := by omega
  have h128 : ¬ m < 128 := by omega
  have h248 : 248 ≤ m := by omega
  simp [regFault, hw, h252, h128, h248] at fault

/-- The registers from D on, where they are the form's results, are no ports. -/
theorem run_writable {i : Instr} {o : OpX} {c : Opnd} {w : Wick} {n : Nat} (hr : regCheck w i = none) (hx : (o.d, c) ∈ i.opnds)
    (hw : c.wr = true) (hn : ∀ k, k < n → RegName.v (o.d.toNat + k) ∈ c.names o.d) (hb : o.d.toNat + n ≤ 256) :
    ∀ k, k < n → writable (o.d.toNat + k) := fun k hk =>
  (regCheck_writes hr hx hw (hn k hk)).imp id (fun h => ⟨h, by omega⟩)

/-- The D field of a legal form of format X fits its class. -/
theorem fits_d {h : Hdr} {o : OpX} {x : XSpec} (hl : legalX h o x = true) : x.d.fits o.d = true := by
  simp only [legalX, Bool.and_eq_true] at hl
  obtain ⟨⟨⟨⟨-, hd⟩, -⟩, -⟩, -⟩ := hl
  exact hd

/-- ECRT's D, three results from a multiple of four (11 R236). -/
def v3W : Opnd := ⟨.v3, false, true⟩

theorem v3W_room {d : BitVec 8} (h : v3W.fits d = true) : d.toNat + 3 ≤ 256 := by
  have : d.toNat % 4 = 0 := by simpa [Opnd.fits, v3W] using h
  omega

theorem vW2_room {d : BitVec 8} (h : (vW 2).fits d = true) : d.toNat + 2 ≤ 256 := by
  have : d.toNat % 2 = 0 := by simpa [Opnd.fits, vW] using h
  omega

theorem mem_names_v3W {k : Nat} (hk : k < 3) (d : BitVec 8) : RegName.v (d.toNat + k) ∈ v3W.names d := by
  have : k = 0 ∨ k = 1 ∨ k = 2 := by omega
  simpa [Opnd.names, v3W] using this

theorem mem_names_vW {n k : Nat} (hk : k < n) (d : BitVec 8) : RegName.v (d.toNat + k) ∈ (vW n).names d := by
  simp only [Opnd.names, vW, List.mem_map, List.mem_range]
  exact ⟨k, hk, rfl⟩

/-- One result is written where D passes the check of registers. -/
theorem vW1_writable {i : Instr} {o : OpX} {w : Wick} (hr : regCheck w i = none) (hx : (o.d, vW 1) ∈ i.opnds) :
    ∀ k, k < 1 → writable (o.d.toNat + k) :=
  run_writable hr hx rfl (fun _ hk => mem_names_vW hk _) (by omega)

/-! ### The world of the launch (11 R229, R237) -/

section
variable {s t : State} {w : Wick} {cx : Cx} (ha : cx.act ≠ 0)
include ha

/-- A launch without a world traps. -/
theorem withWorld_absent (hw : worldAddr s w = 0) (lanes : Mask) (go : State → World → Eff) :
    withWorld s w cx lanes go = .trap { cause := 0x1B, mask := lanes } := by
  simp only [withWorld, if_neg ha, if_pos hw]

/-- With a well-formed world record the form goes on. -/
theorem withWorld_reads {x : World} (hw : worldAddr s w ≠ 0)
    (hx : readWorld ⟨w.info.ctx, cx.sl, w.info.pkt⟩ (worldAddr s w) s = .ok (x, t)) (lanes : Mask) (go : State → World → Eff) :
    withWorld s w cx lanes go = go t x := by
  simp only [withWorld, if_neg ha, if_neg hw, hx]

end

/-- The form waits for nothing logged: it is in single-lane mode, or the wick touches no logged byte (17 R356). -/
def Clear (w : Wick) (cx : Cx) : Prop := cx.sl = true ∨ ∀ rs, w.touchesLog rs = false

theorem Clear.goes {w : Wick} {cx : Cx} (h : Clear w cx) (rs : List (Nat × Nat)) : ¬ (!cx.sl && w.touchesLog rs) = true := by
  rcases h with sl | log
  · simp [sl]
  · simp [log]

/-! ### What a form leaves -/

/-- A form that acts once writes its scalar result. -/
theorem entityOnce_ok {w : Wick} {cx : Cx} (hc : Clear w cx) {s u : State} {value : EM Nat} {v : Nat} (hv : value s = .ok (v, u)) (o : OpX)
    (x : World) (spans : List (Nat × Nat)) :
    entityOnce w cx o s x spans value = .next (u.putWick (w.wrS cx.f o.d.toNat (BitVec.ofNat 64 v))) := by
  simp only [entityOnce, if_neg (hc.goes _), hv]

/-- The result of lane i for the k-th register, as the form's lanes answered. -/
def laneResult (vs : List (Nat × List Nat)) (k i : Nat) : Lane :=
  BitVec.ofNat 32 (((vs.find? (fun y => y.1 == i)).bind (fun y => y.2[k]?)).getD 0)

section
variable {w : Wick} {cx : Cx} {s u : State} {lane : Nat → EM (List Nat)} {vs : List (Nat × List Nat)}
  (hv : eLanes lane (lanesOf cx.act) s [] [] = .ok (u, vs, []))
include hv

/-- A per-lane form none of whose lanes fails writes its run of results. -/
theorem entityLanes_ok (hc : Clear w cx) (o : OpX) (n : Nat) (x : World) (spans : Nat → Nat → State → List (Nat × Nat))
    (more : Wick → Mask → List (Nat × List Nat) → Wick) :
    entityLanes w cx o n s x spans lane more
      = .next (u.putWick (more (wrRun cx o.d.toNat (fun k => VReg.ofLanes (laneResult vs k)) n w) cx.act vs)) := by
  simp only [entityLanes, if_neg (hc.goes _), hv, List.isEmpty_nil, if_true, wrRun, Wick.wrRes, List.foldl_map]
  rw [maskOf_answered hv]
  rfl

/-- Each lane that has answered holds its result in each register. -/
theorem lane_wrRun {d n k : Nat} (hk : k < n) (hd : writable (d + k)) {y : Nat × List Nat} (hy : y ∈ vs) :
    ((wrRun cx d (fun k => VReg.ofLanes (laneResult vs k)) n w).rdV (d + k)).lane y.1 = BitVec.ofNat 32 (y.2[k]?.getD 0) := by
  obtain ⟨hi, hact⟩ : y.1 < 32 ∧ cx.act.getLsbD y.1 = true := by
    have asked := any_answer hv y.1
    rw [List.any_eq_true.mpr ⟨y, hy, beq_self_eq_true y.1⟩] at asked
    exact mem_lanesOf.mp (of_decide_eq_true asked.symm)
  rw [rdV_wrRun cx _ w hk hd, VReg.lane_merge _ _ _ _ hi hact, VReg.lane_ofLanes _ hi, laneResult, find_answer hv (lanesOf_nodup _) hy]
  rfl

end

/-! ### The two shapes of form -/

section
variable {i : Instr} {s : State} {w : Wick} {f : Nat} (r : Ready i s w f) {body : State → Wick → Cx → Eff} (hx : exec i s = wickStep i s body)
  (ha : (w.cx f i).act ≠ 0) {o : OpX}
include r hx ha

/-- A form that acts once traps without a world, and with one writes the value it asks for. -/
theorem once_form {bad : World → Prop} {go : State → World → Eff} {spans : State → World → List (Nat × Nat)} {value : World → EM Nat}
    (hb : body s w (w.cx f i) = withWorld s w (w.cx f i) 0 go)
    (hgo : ∀ t x, ¬ bad x → go t x = entityOnce w (w.cx f i) o t x (spans t x) (value x)) :
    (worldAddr s w = 0 → exec i s = .next (raiseTrap s w (w.cx f i) { cause := 0x1B }))
    ∧ (∀ x t u v, worldAddr s w ≠ 0 → Clear w (w.cx f i) →
        readWorld ⟨w.info.ctx, (w.cx f i).sl, w.info.pkt⟩ (worldAddr s w) s = .ok (x, t) → ¬ bad x → value x t = .ok (v, u) →
        u.findWick w.info.uid = some w →
        exec i s = .next ((u.putWick (w.wrS (w.actor f) o.d.toNat (BitVec.ofNat 64 v))).stepped i (w.cx f i))) := by
  refine ⟨fun hw => ?absent, fun x t u v hw hc hread hbad hv hu => ?present⟩
  case absent =>
    rw [hx]
    exact wickStep_takes r body (hb.trans (withWorld_absent ha hw ..))
  case present =>
    have answer : body s w (w.cx f i) = .next (u.putWick (w.wrS (w.actor f) o.d.toNat (BitVec.ofNat 64 v))) := by
      rw [hb, withWorld_reads ha hw hread, hgo t x hbad, entityOnce_ok hc hv, Wick.cx_f]
    rw [hx]
    exact wickStep_next r body answer (findWick_put hu (Wick.wrS_info ..)) (by rw [Wick.wrS_info]; exact live_ne_exited r)

/-- A per-lane form traps without a world, and with one writes the results of its lanes. -/
theorem lanes_form {n : Nat} {bad : World → Mask} {go : State → World → Eff} {spans : World → Nat → Nat → State → List (Nat × Nat)}
    {lane : World → Nat → EM (List Nat)} {more : Wick → Mask → List (Nat × List Nat) → Wick}
    (hb : body s w (w.cx f i) = if narrowDest (w.cx f i) o.d.toNat n then .trap { cause := 0x07 } else withWorld s w (w.cx f i) (w.cx f i).act go)
    (hgo : ∀ t x, bad x = 0 → go t x = entityLanes w (w.cx f i) o n t x (spans x) (lane x) more)
    (hmore : ∀ w' m vs, (more w' m vs).info = w'.info) (hd : ∀ k, k < n → writable (o.d.toNat + k))
    (hn : ∀ k, k < n → narrow (o.d.toNat + k) = false) :
    (worldAddr s w = 0 → exec i s = .next (raiseTrap s w (w.cx f i) { cause := 0x1B, mask := (w.cx f i).act }))
    ∧ (∀ x t u vs, worldAddr s w ≠ 0 → Clear w (w.cx f i) →
        readWorld ⟨w.info.ctx, (w.cx f i).sl, w.info.pkt⟩ (worldAddr s w) s = .ok (x, t) → bad x = 0 →
        eLanes (lane x) (lanesOf (w.cx f i).act) t [] [] = .ok (u, vs, []) → u.findWick w.info.uid = some w →
        ∃ w', exec i s = .next ((u.putWick (more w' (w.cx f i).act vs)).stepped i (w.cx f i)) ∧ VecOnly w w'
          ∧ (∀ y ∈ vs, ∀ k, k < n → (w'.rdV (o.d.toNat + k)).lane y.1 = BitVec.ofNat 32 (y.2[k]?.getD 0))
          ∧ (∀ m, m < o.d.toNat ∨ o.d.toNat + n ≤ m → w'.rdV m = w.rdV m)) := by
  have wide : ¬ narrowDest (w.cx f i) o.d.toNat n = true := by
    simpa [narrowDest] using fun _ k hk => hn k hk
  rw [if_neg wide] at hb
  refine ⟨fun hw => ?absent, fun x t u vs hw hc hread hbad hv hu => ?present⟩
  case absent =>
    rw [hx]
    exact wickStep_takes r body (hb.trans (withWorld_absent ha hw ..))
  case present =>
    rw [withWorld_reads ha hw hread, hgo t x hbad, entityLanes_ok hv hc] at hb
    have vec := wrRun_vecOnly (w.cx f i) (fun k => VReg.ofLanes (laneResult vs k)) w hd
    have info := hmore (wrRun (w.cx f i) o.d.toNat (fun k => VReg.ofLanes (laneResult vs k)) n w) (w.cx f i).act vs
    have kept : (wrRun (w.cx f i) o.d.toNat (fun k => VReg.ofLanes (laneResult vs k)) n w).info = w.info := by
      obtain ⟨v, tv, e⟩ := vec
      rw [e]
    rw [kept] at info
    refine ⟨_, ?_, vec, fun y hy k hk => lane_wrRun hv hk (hd k hk) hy, fun m hm => rdV_wrRun_outside _ _ _ hm⟩
    rw [hx]
    exact wickStep_next r body hb (findWick_put hu info) (by rw [info]; exact live_ne_exited r)

end

/-! ### The forms -/

section
variable (h : Hdr) (o : OpX) (s : State)

theorem exec_ecrt : exec (.ecrt h o) s = wickStep (.ecrt h o) s (fun s w cx => ecrtBody s w cx o) := rfl
theorem exec_edel : exec (.edel h o) s = wickStep (.edel h o) s (fun s w cx => changeBody s w cx o 1) := rfl
theorem exec_eadd : exec (.eadd h o) s = wickStep (.eadd h o) s (fun s w cx => changeBody s w cx o 2) := rfl
theorem exec_erem : exec (.erem h o) s = wickStep (.erem h o) s (fun s w cx => changeBody s w cx o 3) := rfl
theorem exec_hres : exec (.hres h o) s = wickStep (.hres h o) s (fun s w cx => hresBody s w cx h o) := rfl
theorem exec_estat : exec (.estat h o) s = wickStep (.estat h o) s (fun s w cx => estatBody s w cx o) := rfl
theorem exec_ecol : exec (.ecol h o) s = wickStep (.ecol h o) s (fun s w cx => ecolBody s w cx h o) := rfl
theorem exec_eqry : exec (.eqry h o) s = wickStep (.eqry h o) s (fun s w cx => eqryBody s w cx o) := rfl
theorem exec_ecnt : exec (.ecnt h o) s = wickStep (.ecnt h o) s (fun s w cx => ecntBody s w cx h o) := rfl

end

/-- SUB, read as a number. -/
theorem sub_eq_iff (h : Hdr) (k : Nat) (hk : k < 16) : h.sub = BitVec.ofNat 4 k ↔ h.sub.toNat = k := by
  rw [← BitVec.toNat_inj, BitVec.toNat_ofNat, Nat.mod_eq_of_lt hk]

/-- A choice by the numbers 0, 1 and the rest. -/
theorem match_eq_ite {α : Type} (n : Nat) (a b c : α) :
    (match n with | 0 => a | 1 => b | _ => c) = if n = 0 then a else if n = 1 then b else c := by
  rcases n with _ | _ | n <;> rfl

/-- Settles O44: each form acts once or lane by lane, on what it asks of the world. -/
theorem entityForms : Obligations.EntityForms := by
  unfold Obligations.EntityForms
  intro h o s w f F a sub clear lanes once low ended counts change
  have sub0 : h.sub = 0 ↔ sub = 0 := sub_eq_iff h 0 (by decide)
  have sub1 : h.sub = 1 ↔ sub = 1 := sub_eq_iff h 1 (by decide)
  have sub3 : h.sub = 3 ↔ sub = 3 := sub_eq_iff h 3 (by decide)
  refine ⟨?ecrt, ?edel, ?eadd, ?erem, ?hres, ?estat, ?ecol, ?eqry, ?ecnt⟩
  case ecrt =>
    intro r cx ha hn
    have hd := run_writable r.regs (List.mem_cons_self (a := (o.d, v3W))) rfl (fun _ hk => mem_names_v3W hk _)
      (v3W_room (fits_d (x := xspec (.ecrt h o)) r.legal))
    exact lanes_form r (exec_ecrt h o s) ha rfl (fun t x hb => if_neg (not_not_intro hb)) (fun _ _ _ => rfl) hd hn
  case edel =>
    intro r cx ha hn
    exact lanes_form r (exec_edel h o s) ha rfl (fun t x hb => if_neg (not_not_intro rfl)) (fun _ _ _ => rfl)
      (vW1_writable r.regs List.mem_cons_self) hn
  case eadd =>
    intro r cx ha hn
    exact lanes_form r (exec_eadd h o s) ha rfl (fun t x hb => if_neg (not_not_intro hb)) (fun _ _ _ => rfl)
      (vW1_writable r.regs List.mem_cons_self) hn
  case erem =>
    intro r cx ha hn
    exact lanes_form r (exec_erem h o s) ha rfl (fun t x hb => if_neg (not_not_intro hb)) (fun _ _ _ => rfl)
      (vW1_writable r.regs List.mem_cons_self) hn
  case hres =>
    intro r cx ha hn
    have hd := run_writable r.regs (List.mem_cons_self (a := (o.d, vW 2))) rfl (fun _ hk => mem_names_vW hk _)
      (vW2_room (fits_d (x := xspec (.hres h o)) r.legal))
    have limit {x y : Mask} : (if (h.sub == 1) = true then x else y) = if sub = 1 then x else y :=
      ite_congr (propext (beq_iff_eq.trans sub1)) (fun _ => rfl) (fun _ => rfl)
    exact lanes_form r (exec_hres h o s) ha rfl (fun t x hb => if_neg (not_not_intro (limit.trans hb)))
      (fun _ _ _ => Wick.wrP_info ..) hd hn
  case estat =>
    intro r cx ha hn
    exact lanes_form r (exec_estat h o s) ha rfl (fun t x _ => rfl) (fun _ _ _ => rfl) (vW1_writable r.regs List.mem_cons_self) hn
  case ecol =>
    intro r cx ha
    refine once_form r (exec_ecol h o s) ha rfl (fun t x hb => (if_neg (mt (Or.imp_right (And.imp_left sub0.mp)) hb)).trans
      (congrArg (entityOnce w cx o t x _) ?_))
    simp only [sub0, sub1]
    rfl
  case eqry =>
    intro r cx ha
    exact once_form r (exec_eqry h o s) ha rfl (fun t x hb => (if_neg (hb ∘ Or.inl)).trans (if_neg (hb ∘ Or.inr)))
  case ecnt =>
    intro r cx ha
    refine once_form r (exec_ecnt h o s) ha rfl (fun t x hb => (if_neg (mt (And.imp_left (mt sub3.mpr)) hb)).trans
      (congrArg (entityOnce w cx o t x _) ?_))
    exact ite_congr (propext sub3) (fun _ => rfl) (fun _ => bind_congr fun tb => match_eq_ite ..)

end Sys2Proof.Proofs.EntityStore

/-! PROOFS. What starts, wakes, saves and ends wicks: each event by the condition it acts under (06 R150; 11 R245 to R251; 13 R274, R282;
14 R284 to R286, R300; 16 R338 to R340; 17 R358, R362; 19 R387; 21 R414). -/

namespace Sys2Proof.Proofs.Wicks

open Sys2Proof.Machine Sys2Proof.Proofs.Control

/-- An event answers the state that its function gives. -/
theorem next_eq {t u : State} (h : u = t) : (.next u : Host.Outcome State Fault Refusal) = .next t := congrArg _ h

/-! ### Gathering (13 R282, 14 R300) -/

/-- Records of continuations are gathered when 32 wait, or by the timer. -/
theorem gatherConts_eq {s : State} {n : Nat} {r first : ContRec} {l : List ContRec} (hr : s.conts.find? (fun x => x.uid == n) = some r)
    (hf : r.final.isSome = true) (ht : s.together r = first :: l) (byTimer : Bool) :
    gatherConts s n byTimer =
      if (if byTimer then first.final.getD 0 + 2 * Config.usCycles ≤ s.now else 32 ≤ (first :: l).length)
      then startCont s first ((first :: l).take 32) else s := by
  simp only [gatherConts, hr, ht, hf, Bool.true_and, List.head?_cons, Option.getD_some]
  cases byTimer <;> simp only [ge_iff_le, decide_eq_true_eq, if_true, Bool.false_eq_true, if_false]

section
variable {s : State} {n m : Nat} {g : Graph} {p : Packet} (hg : s.findGraph n = some g) (hroot : g.rootLeft = 0) (hm : m < g.count)
  (hstop : s.isStopped g.ctx (packetWork g.pkt 2) = false) (hp : s.findPacket g.pkt = some p) (hc : p.cancelled = false)
  (hb : s.heldBack p = false)
include hg hroot hm hstop hp hc hb

/-- A node's records are gathered when 32 wait, or by the timer. -/
theorem gatherNode_eq {d : NodeDesc} {t : State} {first : GraphRec} {l : List GraphRec} (hd : readNode g m s = .ok (d, t))
    (hw : g.waiting.filter (fun r => r.node == m) = first :: l) (byTimer : Bool) :
    gatherNode s n m byTimer =
      if (if byTimer then first.arrived + d.timer ≤ t.now else 32 ≤ (first :: l).length)
      then startNode t g m d ((first :: l).take 32) else s := by
  have filled : fillRoots s g = s := by simp [fillRoots, hroot]
  simp only [gatherNode, hg, filled, hp]
  rw [if_neg (by simp [Nat.not_le.mpr hm, hstop, hc, hb]), hd]
  cases byTimer <;> simp only [hw, List.head?_cons, ge_iff_le, decide_eq_true_eq, if_true, Bool.false_eq_true, if_false]

end

/-! ### Passes (14 R284, R286) -/

/-- The tile phase of a pass that runs starts when its graph is done. -/
theorem tilePhaseStart_eq {s : State} {n : Nat} {p : Packet} {l : Launch} {g : Graph} (hp : s.findPacket n = some p) (hl : p.launch = some l)
    (hg : l.graph.bind s.findGraph = some g) (hpass : l.fld 0 3 = 3) (hs : p.started = true) (ht : l.tilePhase = false)
    (hc : p.cancelled = false) :
    tilePhaseStart s n = if s.graphDone g then
      { s with graphs := s.graphs.filter (fun x => x.id != g.id) }.modLaunch n (fun l => { l with tilePhase := true, graph := none }) else s := by
  simp only [tilePhaseStart, hp, hl]
  rw [if_neg (by simp [hpass, hs, ht, hc]), hg]

section
variable {s : State} {n m : Nat} {p : Packet} {l : Launch} {b : Band} {r : TileRun} (hp : s.findPacket n = some p) (hl : p.launch = some l)
  (hb : s.tileBand n m = some b) (hr : l.tiles.find? (fun t => t.tile == m) = some r)
include hp hl hb hr

/-- A tile of which something runs does not complete. -/
theorem tileCompletion_busy (hi : tileIdle s n b m = false) : tileCompletion s n m = s := by
  simp [tileCompletion, hp, hl, hb, hr, hi]

/-- An idle tile with no automatic flush to come frees its window. -/
theorem tileCompletion_idle (hi : tileIdle s n b m = true) (hf : l.pass.testBit 199 = false ∨ r.flushed = true) :
    tileCompletion s n m =
      { s with bands := s.bands.filter (fun x => x.uid != b.uid) }.modLaunch n (fun l => { l with tiles := l.tiles.filter (fun x => x.tile != m) }) := by
  have flushed : (l.pass.testBit 199 && !r.flushed) = false := by
    rcases hf with h | h <;> simp [h]
  simp [tileCompletion, hp, hl, hb, hr, hi, flushed]

end

/-! ### Worlds (11 R245 to R251) -/

/-- The next block of a query launch that runs is dispatched, unless its packet is held back. -/
theorem queryDispatch_eq {s : State} {n : Nat} {p : Packet} {l : Launch} {q : QueryTable} (hp : s.findPacket n = some p)
    (hl : p.launch = some l) (hq : l.dueTable = some q) (hs : p.started = true) (hc : p.cancelled = false)
    (hstop : s.isStopped p.ctx (packetWork p.id 1) = false) :
    queryDispatch s n = if s.heldBack p then s else dispatchBlock s p l q := by
  cases hb : s.heldBack p <;> simp [queryDispatch, hp, hl, hq, hs, hc, hstop, hb]

/-- The records a sync works on: the world's, and the queue in application order. -/
def readSync (p : Packet) (y : Sync) : EM (World × List Change) := do
  let x ← readWorld ⟨p.ctx, true, p.id⟩ y.world
  let q ← readQueue x
  pure (x, q)

/-- The sync of a packet that has not ended, may go on and is in no reset. -/
structure Syncing (s : State) (n : Nat) (p : Packet) (y : Sync) : Prop where
  found : s.findPacket n = some p
  sync : p.sync = some y
  unended : p.ended = false
  unstuck : y.stuck = false
  unstopped : s.isStopped p.ctx (packetWork p.id 0) = false
  running : s.partStopped p.part = false

section
variable {s s1 s2 : State} {n : Nat} {p : Packet} {y : Sync} {x : World} {q : List Change} (h : Syncing s n p y) (hy : y.phase < 2)
  (hready : syncReady s p y = true) (hcheck : (if y.phase = 0 then syncCheck ⟨p.ctx, true, p.id⟩ y.world s else .ok ((), s)) = .ok ((), s1))
  (hread : readSync p y s1 = .ok ((x, q), s2))
include h hy hready hcheck hread

/-- A change applied counts. -/
theorem applicationPhase_applies {c : Change} {l : List Change} {made dead : List Nat} {s3 : State} (hq : q.drop y.applied = c :: l)
    (ha : applyChange x c y.made y.dead s2 = .ok ((made, dead), s3)) :
    applicationPhase s n = s3.putSync n { y with phase := 1, applied := y.applied + 1, made := made, dead := dead } := by
  obtain ⟨hp, hs, he, hk, hstop, hpart⟩ := h
  unfold readSync at hread
  simp only [applicationPhase, hp, hs]
  rw [if_neg (by simp [he, hk, hstop, hpart, hready, hy]), hcheck]
  simp only [hread, hq, ha]

/-- After the last change compaction begins. -/
theorem applicationPhase_ends {s3 : State} (hq : q.drop y.applied = []) (ha : endApplication x s2 = .ok ((), s3)) :
    applicationPhase s n = s3.putSync n { y with phase := 2, table := 0 } := by
  obtain ⟨hp, hs, he, hk, hstop, hpart⟩ := h
  unfold readSync at hread
  simp only [applicationPhase, hp, hs]
  rw [if_neg (by simp [he, hk, hstop, hpart, hready, hy]), hcheck]
  simp only [hread, hq, ha]

end

/-- The world of a sync and its next move, if there is one. -/
def findSyncMove (p : Packet) (y : Sync) : EM (World × Option (Table × Nat × Nat)) := do
  let x ← readWorld ⟨p.ctx, true, p.id⟩ y.world
  let m ← findMove x ((List.range (x.ntab - y.table)).map (· + y.table))
  pure (x, m)

section
variable {s s1 : State} {n : Nat} {p : Packet} {y : Sync} {x : World} (h : Syncing s n p y) (hy : y.phase = 2)
include h hy

/-- With no move left the compaction ends. -/
theorem compactionMove_ends {t : State} (hf : findSyncMove p y s = .ok ((x, none), s1)) (hx : x.set oCompact 0 s1 = .ok ((), t)) :
    compactionMove s n = t.modPacket n (fun p => { p with sync := some { y with phase := 3 }, ended := true }) := by
  obtain ⟨hp, hs, he, hk, hstop, hpart⟩ := h
  unfold findSyncMove at hf
  simp only [compactionMove, hp, hs]
  rw [if_neg (by simp [he, hk, hstop, hpart, hy]), hf]
  simp only [hx]

section
variable {tb : Table} {lo hi : Nat} (hf : findSyncMove p y s = .ok ((x, some (tb, lo, hi)), s1))
include hf

/-- A move that some lease does not allow waits. -/
theorem compactionMove_leased (ha : moveAllowed (s1.putSync n { y with table := tb.num }) p.ctx y.world tb.num lo hi = false) :
    compactionMove s n = s1.putSync n { y with table := tb.num } := by
  obtain ⟨hp, hs, he, hk, hstop, hpart⟩ := h
  unfold findSyncMove at hf
  simp only [compactionMove, hp, hs]
  rw [if_neg (by simp [he, hk, hstop, hpart, hy]), hf]
  simp only [ha, Bool.not_false, if_true]

/-- A move that every lease allows is made. -/
theorem compactionMove_moves {t : State} (ha : moveAllowed (s1.putSync n { y with table := tb.num }) p.ctx y.world tb.num lo hi = true)
    (hmv : moveRow x tb lo hi (s1.putSync n { y with table := tb.num }) = .ok ((), t)) : compactionMove s n = t := by
  obtain ⟨hp, hs, he, hk, hstop, hpart⟩ := h
  unfold findSyncMove at hf
  simp only [compactionMove, hp, hs]
  rw [if_neg (by simp [he, hk, hstop, hpart, hy]), hf]
  simp only [ha, hmv, Bool.not_true, Bool.false_eq_true, if_false]

end

end

/-! ### A wick that sleeps, ages, is pre-empted or resumes (06 R150; 16 R338; 17 R358; 19 R387) -/

/-- The PC of a fragment does not change when the waits end. -/
theorem endWaits_pc (w : Wick) (f : Nat) : (w.endWaits.frag f).pc = (w.frag f).pc :=
  frag_map_field Frag.pc w (fun g => { g with sleep := none, uiWait := false }) (fun _ => rfl) f

section
variable {s : State} {n : Nat} {w : Wick} (hw : s.findWick n = some w)
include hw

/-- SLEEP ends when its cycles have passed, and not before. -/
theorem sleepExpiry_eq {m t : Nat} (ht : (w.frag m).sleep = some t) :
    sleepExpiry s n m = if t ≤ s.clock w.info.cluster then s.putWick (w.modFrag m (fun g => { g with sleep := none })) else s := by
  simp only [sleepExpiry, hw, ht]

theorem ageGuard_eq :
    ageGuard s n = if w.canRun && s.aged w then s.putWick { w with info := { w.info with guarded := true } } else s := by
  simp only [ageGuard, hw]

/-- A wick that could run and has not for 256 cycles is guarded. -/
theorem ageGuard_aged (hr : w.canRun = true) (ha : w.info.ready + 256 ≤ s.clock w.info.cluster) :
    ageGuard s n = s.putWick { w with info := { w.info with guarded := true } } := by
  rw [ageGuard_eq hw, if_pos (by simp [hr, State.aged, ha])]

theorem ageGuard_young (h : w.canRun = false ∨ (w.info.guarded = false ∧ s.clock w.info.cluster < w.info.ready + 256)) :
    ageGuard s n = s := by
  rw [ageGuard_eq hw, if_neg]
  rcases h with hr | ⟨hg, ha⟩
  · simp [hr]
  · simp [State.aged, hg, ha]

theorem preemptionEntry_idle (hp : w.info.preq = false) : preemptionEntry s n = s := by
  simp only [preemptionEntry, hw, hp]
  rfl

section
variable (hs : w.info.stage = .resident) (hp : w.info.preq = true) (hpair : w.books.pair = none) (hstop : w.books.stop = none)
  (hpage : s.isStopped w.info.ctx (saveWork w) = false)
include hs hp hpair hstop hpage

/-- In single-lane mode a pre-emption waits for the return. -/
theorem preemptionEntry_waits (hsl : w.trap.sl = true) :
    preemptionEntry s n = s.putWick { w with info := { w.info with preq := false }, trap := { w.trap with ppend := true } } := by
  simp only [preemptionEntry, hw]
  rw [if_neg (by simp [hs, hp, hpair, hstop, hpage]), if_pos hsl]

/-- Outside it the wick enters, its access slice saved. -/
theorem preemptionEntry_enters {t : State} (hsl : w.trap.sl = false) (hsvc : w.books.svc = none) (ht : saveAccess s w.endWaits = .ok t) :
    preemptionEntry s n = takeTrap t { w.endWaits with info := { w.info with preq := false } } (w.endWaits.deliverFrag.getD 0)
      (w.frag (w.endWaits.deliverFrag.getD 0)).pc { cause := 0x30 } := by
  have entry : preemptionEntry s n = enterPreempt s w := by
    simp only [preemptionEntry, hw]
    rw [if_neg (by simp [hs, hp, hpair, hstop, hpage]), if_neg (by simp [hsl]), if_neg (by simp [hsvc])]
    simp only [hw]
  rw [entry, ← endWaits_pc w]
  simp only [enterPreempt, ht]
  rfl

end

theorem resumeEntry_idle (hr : w.info.resume = none) : resumeEntry s n = s := by
  simp only [resumeEntry, hw, hr]

/-- A resumption that is due enters at an issue boundary. -/
theorem resumeEntry_enters {x : BitVec 4} (hr : w.info.resume = some x) (hs : w.info.stage = .resident) (hsl : w.trap.sl = false)
    (hpair : w.books.pair = none) (hstop : w.books.stop = none) (hrest : w.info.restoring = false) (hsvc : w.books.svc = none) :
    resumeEntry s n = takeTrap s { w with info := { w.info with resume := none } } (w.deliverFrag.getD 0) (w.frag (w.deliverFrag.getD 0)).pc
      { cause := 0x32, mask := BitVec.ofNat 32 x.toNat } := by
  simp only [resumeEntry, hw, hr]
  rw [if_neg (by simp [hs, hsl, hpair, hstop, hrest]), if_neg (by simp [hsvc])]
  simp only [hw]

/-! ### Debug stops (21 R414) -/

theorem debugStop_idle (hx : w.books.stop = none) : debugStop s n = s := by
  simp only [debugStop, hw, hx]
  rfl

section
variable {x : StopInfo} (hx : w.books.stop = some x) (hs : w.info.stage = .resident) (hsl : w.trap.sl = false) (hsvc : w.books.svc = none)
  (hpair : w.books.pair = none) (hpage : s.isStopped w.info.ctx (stopWork w) = false) (hdbg : s.dbgen w.info.ctx = true)
include hx hs hsl hsvc hpair hpage hdbg

/-- A stop whose record has been written is taken. -/
theorem debugStop_recorded {t : State} (hr : writeTrace s w.info.ctx (stopRec s w (x.at w)) false = .ok (some t)) :
    debugStop s n = takeTrap t { w.endWaits with books := { w.books with stop := none, traceSeq := w.books.traceSeq + 1 } } (x.at w).frag
      (x.at w).pc { cause := 0x0C } := by
  simp only [debugStop, hw, hx, Option.map_some]
  rw [if_neg (by simp [hs, hsl, hsvc, hpair, hpage]), if_pos hdbg, hr]

/-- While the trace ring is full it waits. -/
theorem debugStop_full (hr : writeTrace s w.info.ctx (stopRec s w (x.at w)) false = .ok none) : debugStop s n = s := by
  simp only [debugStop, hw, hx, Option.map_some]
  rw [if_neg (by simp [hs, hsl, hsvc, hpair, hpage]), if_pos hdbg, hr]

/-- While the ring's page fails it waits as an access of the device's own. -/
theorem debugStop_fails {acc va : Nat} {p : PFault} (hr : writeTrace s w.info.ctx (stopRec s w (x.at w)) false = .error (acc, va, p)) :
    debugStop s n = ownStop s w.info.ctx (stopWork w) acc va p := by
  simp only [debugStop, hw, hx, Option.map_some]
  rw [if_neg (by simp [hs, hsl, hsvc, hpair, hpage]), if_pos hdbg, hr]

end

/-! ### The end of a wick (16 R339) -/

theorem killCommand_eq : killCommand s n = endWick s w := by
  simp only [killCommand, hw]

theorem endWick_gone : (endWick s w).findWick n = none := by
  rw [← State.uid_of_findWick s hw]
  exact endWick_find s w

end

/-! ### Groups that save and restore (16 R338, R340) -/

/-- 20 µs after the delivery, with no image, the wicks still resident halt. -/
theorem preemptionWatchdog_late {s : State} {n t : Nat} {g : Group} (hg : s.findGroup n = some g) (hs : g.stage = .saving t)
    (ht : t + 20 * Config.usCycles ≤ s.now) (hi : g.captures.any (fun c => c.imagew) = false) :
    preemptionWatchdog s n = ((s.groupWicks n).filter (fun w => w.info.stage == .resident)).foldl (fun s w => haltWick s w 0x3E 0) s := by
  simp only [preemptionWatchdog, hg, hs, hi, decide_eq_false (Nat.not_lt.mpr ht)]
  rfl

theorem preemptionWatchdog_early {s : State} {n t : Nat} {g : Group} (hg : s.findGroup n = some g) (hs : g.stage = .saving t)
    (ht : s.now < t + 20 * Config.usCycles) : preemptionWatchdog s n = s := by
  simp only [preemptionWatchdog, hg, hs, decide_eq_true ht]
  rfl

section
variable {s t : State} {n : Nat} {g : Group} (hg : s.findGroup n = some g) (hm : mayRestore s g = true)
  (hstop : s.isStopped g.ctx (2 ^ 51 + n) = false)
include hg hm hstop

/-- A restore whose save areas cannot be read waits. -/
theorem restoreEntry_unread {va : Nat} {p : PFault} (hr : readAllSaved s (s.groupWicks n) = (.error (va, p), t)) :
    restoreEntry s n = ownStop t g.ctx (2 ^ 51 + n) 0 va p := by
  simp only [restoreEntry, hg]
  rw [if_neg (by rw [hm, hstop]; decide), hr]

section
variable {u : State} {l : List (Nat × Nat × Nat)} (hr : readAllSaved s (s.groupWicks n) = (.ok l, t))
include hr

/-- With the save areas read, the records that they name are reloaded, each once, and every wick enters. -/
theorem restoreEntry_enters {rs : List (Nat × List Item)}
    (hu : readRecords t g.ctx ((l.map (fun y => y.2.1)).filter (fun r => r != 0)).eraseDups = (.ok rs, u)) :
    restoreEntry s n = l.foldl enterRestore (rs.foldl (reloadRecord g) u) := by
  simp only [restoreEntry, hg]
  rw [if_neg (by rw [hm, hstop]; decide), hr]
  simp only [hu]

/-- While a record cannot be read the restore waits. -/
theorem restoreEntry_unrecorded {va : Nat} {p : PFault}
    (hu : readRecords t g.ctx ((l.map (fun y => y.2.1)).filter (fun r => r != 0)).eraseDups = (.error (va, p), u)) :
    restoreEntry s n = ownStop u g.ctx (2 ^ 51 + n) 0 va p := by
  simp only [restoreEntry, hg]
  rw [if_neg (by rw [hm, hstop]; decide), hr]
  simp only [hu]

end

end

/-! ### Records and deliveries of a context (13 R274; 17 R362) -/

/-- Without a block, or while its page fails, nothing is delivered. -/
theorem userDelivery_barred {s : State} {n : Nat} (h : s.uiBlock n = 0 ∨ s.isStopped n 1 = true) : userDelivery s n = s := by
  rcases h with h | h <;> simp [userDelivery, h]

section
variable {s : State} {n : Nat} {x : Ctx} (hx : s.findCtx n = some x)
include hx

theorem faultRecord_eq : faultRecord s n = flushTraces (flushFaults s n x.faults.length) n x.traces.length := by
  simp only [faultRecord, hx]

section
variable (hb : s.uiBlock n ≠ 0) (hs : s.isStopped n 1 = false)
include hb hs

/-- With a block and nothing due nothing is delivered. -/
theorem userDelivery_none {t : State} (hd : dueDelivery s n s = .ok (none, t)) : userDelivery s n = s := by
  rw [userDelivery, if_neg (by simp [hx, hb, hs]), hd]

/-- What is due is delivered to the lamplighter. -/
theorem userDelivery_due {w : Wick} {f : Nat} {handler : Word} {t : State} (hd : dueDelivery s n s = .ok (some (w, f, handler), t)) :
    userDelivery s n = t.putWick (w.deliver f handler) := by
  rw [userDelivery, if_neg (by simp [hx, hb, hs]), hd]

end

end

/-! ### The wick that issues (19 R387) -/

/-- No least element: the list is empty. -/
theorem leastBy_eq_none {α : Type} {key : α → Nat} : ∀ {l : List α}, leastBy key l = none ↔ l = []
  | [] => by simp [leastBy]
  | x :: xs => by
    unfold leastBy
    split
    · simp
    · split <;> simp

/-- The least element is one of the list, and none has a lesser key. -/
theorem leastBy_least {α : Type} {key : α → Nat} : ∀ {l : List α} {x : α}, leastBy key l = some x → x ∈ l ∧ ∀ y ∈ l, key x ≤ key y
  | z :: zs, x, h => by
    unfold leastBy at h
    split at h
    · rename_i none
      cases h
      simp [leastBy_eq_none.mp none]
    · rename_i b least
      obtain ⟨hb, hmin⟩ := leastBy_least least
      split at h
      · rename_i lt
        cases h
        exact ⟨List.mem_cons_of_mem _ hb, fun y hy => by
          rcases List.mem_cons.mp hy with rfl | hy
          · exact Nat.le_of_lt lt
          · exact hmin y hy⟩
      · rename_i nlt
        cases h
        exact ⟨List.mem_cons_self, fun y hy => by
          rcases List.mem_cons.mp hy with rfl | hy
          · exact Nat.le_refl _
          · exact Nat.le_trans (Nat.not_lt.mp nlt) (hmin y hy)⟩

/-- How long a wick has been ready, and its slot: the order of the aged. -/
def readySlot (w : Wick) : Nat := w.info.ready * 16 + w.info.slot

/-- No wick is chosen: there is none. -/
theorem eq_nil_of_chooseWick {s : State} {ws : List Wick} (h : chooseWick s ws = none) : ws = [] := by
  unfold chooseWick at h
  split at h
  · cases h
  · split at h
    · rename_i none
      exact leastBy_eq_none.mp none
    · rename_i b least
      have emptied := leastBy_eq_none.mp h
      have hb : b ∈ ws.filter (fun w => s.classOf w.info.pkt == s.classOf b.info.pkt) := by simp [(leastBy_least least).1]
      rw [emptied] at hb
      cases hb

/-- The wick chosen is the aged one that has been ready longest, or where none is aged the one of the best class that issued longest ago. -/
theorem chooseWick_cases {s : State} {ws : List Wick} {w : Wick} (h : chooseWick s ws = some w) : w ∈ ws ∧
    ((s.aged w = true ∧ ∀ x ∈ ws, s.aged x = true → readySlot w ≤ readySlot x)
      ∨ ((∀ x ∈ ws, s.aged x = false) ∧ ∀ x ∈ ws, s.classOf w.info.pkt ≤ s.classOf x.info.pkt
        ∧ (s.classOf x.info.pkt = s.classOf w.info.pkt → w.info.last ≤ x.info.last))) := by
  unfold chooseWick at h
  split at h
  · rename_i y least
    cases h
    obtain ⟨mem, min⟩ := leastBy_least least
    obtain ⟨hw, aged⟩ := List.mem_filter.mp mem
    exact ⟨hw, .inl ⟨aged, fun x hx ha => min x (List.mem_filter.mpr ⟨hx, ha⟩)⟩⟩
  · rename_i unaged
    split at h
    · cases h
    · rename_i b best
      obtain ⟨mem, min⟩ := leastBy_least h
      obtain ⟨hw, same⟩ := List.mem_filter.mp mem
      have sameClass : s.classOf w.info.pkt = s.classOf b.info.pkt := beq_iff_eq.mp same
      have none : ∀ x ∈ ws, s.aged x = false := by simpa using leastBy_eq_none.mp unaged
      refine ⟨hw, .inr ⟨none, fun x hx => ⟨sameClass ▸ (leastBy_least best).2 x hx, fun e => ?_⟩⟩⟩
      exact min x (List.mem_filter.mpr ⟨hx, beq_iff_eq.mpr (e.trans sameClass)⟩)

/-! ### A partition's turn (19 R387; 21 R418) -/

/-- The first in order is the wick chosen. -/
theorem orderWicks_some {s : State} {ws : List Wick} {w : Wick} (h : chooseWick s ws = some w) :
    ∃ us, orderWicks s ws.length ws = w.info.uid :: us := by
  cases ws with
  | nil => cases h
  | cons x xs =>
    refine ⟨orderWicks s xs.length ((x :: xs).filter (fun y => y.info.uid != w.info.uid)), ?_⟩
    rw [List.length_cons, orderWicks, h]

/-- Once a wick has issued the rest are passed over. -/
theorem runWicks_passed (port : Nat) : ∀ (us : List Nat) (s : State), runWicks port us s true = .next (us.foldl passOver s)
  | [], _ => rfl
  | u :: us, s => runWicks_passed port us (passOver s u)

/-- The wick that issues first is counted, and the rest are passed over. -/
theorem runWicks_issues {port u : Nat} {us : List Nat} {s t : State} (ht : wickTurn s u = .next (t, true)) :
    runWicks port (u :: us) s false =
      .next (us.foldl passOver ((t.modWick u (fun x => x.issuedAt (t.clock (port / 256)))).noteIssue port)) := by
  rw [runWicks, ht]
  exact runWicks_passed port us _

/-- The state in which a partition's turn is taken: every other wick has counted the cycle. -/
def portState (s : State) (n : Nat) : State := s.bystand (fun w => w.port == n)

/-- The resident wicks of the partition. -/
def portWicks (s : State) (n : Nat) : List Wick :=
  ((portState s n).inPart (n / 4) (n % 4)).filter (fun w => w.info.stage == .resident)

/-- Their numbers in the order in which they may issue. -/
def portOrder (s : State) (n : Nat) : List Nat := orderWicks (portState s n) (portWicks s n).length (portWicks s n)

theorem portTurn_eq (s : State) (n : Nat) :
    portTurn s n = runWicks n (portOrder s n) (portState s n) ((portState s n).limited n) := rfl

/-- With no resident wick the turn is idle. -/
theorem portTurn_idle {s : State} {n : Nat} (h : chooseWick (portState s n) (portWicks s n) = none) : portTurn s n = .next (portState s n) := by
  rw [portTurn_eq, portOrder, eq_nil_of_chooseWick h]
  rfl

/-- The wick chosen issues, and the others are passed over. -/
theorem portTurn_issues {s t : State} {n : Nat} {w : Wick} (hl : (portState s n).limited n = false)
    (h : chooseWick (portState s n) (portWicks s n) = some w) (ht : wickTurn (portState s n) w.info.uid = .next (t, true)) :
    portTurn s n = .next (((portOrder s n).drop 1).foldl passOver
      ((t.modWick w.info.uid (fun x => x.issuedAt (t.clock (n / 256)))).noteIssue n)) := by
  obtain ⟨us, order⟩ := orderWicks_some h
  have order : portOrder s n = w.info.uid :: us := order
  rw [portTurn_eq, hl, order, runWicks_issues ht]
  rfl

/-- Under the issue limit all are passed over. -/
theorem portTurn_limited {s : State} {n : Nat} (hl : (portState s n).limited n = true) :
    portTurn s n = .next ((portOrder s n).foldl passOver (portState s n)) := by
  rw [portTurn_eq, hl, runWicks_passed]

/-- Settles O52: what each event does is given above by its condition. -/
theorem wickEvents : Obligations.WickEvents := by
  unfold Obligations.WickEvents
  intro s n m ev
  refine ⟨?conts, ?nodes, ?tilePhase, ?tiles, ?blocks, ?application, ?compaction, ?wicks, ?watchdog, ?restore, ?context, rfl, ?turn⟩
  case conts =>
    rintro r rs hr hf ht first l rfl
    have gathers (byTimer) := gatherConts_eq hr hf ht byTimer
    exact ⟨fun due => next_eq ((gathers false).trans (if_pos due)), fun few => next_eq ((gathers false).trans (if_neg (Nat.not_le.mpr few))),
      fun due => next_eq ((gathers true).trans (if_pos due)), fun early => next_eq ((gathers true).trans (if_neg (Nat.not_le.mpr early)))⟩
  case nodes =>
    intro g p d t first l hg hroot hm hstop hp hc hb hd hw rs
    have gathers (byTimer) := gatherNode_eq hg hroot hm hstop hp hc hb hd hw byTimer
    exact ⟨fun due => next_eq ((gathers false).trans (if_pos due)), fun few => next_eq ((gathers false).trans (if_neg (Nat.not_le.mpr few))),
      fun due => next_eq ((gathers true).trans (if_pos due)), fun early => next_eq ((gathers true).trans (if_neg (Nat.not_le.mpr early)))⟩
  case tilePhase =>
    intro p l g hp hl hg hpass hs ht hc
    have starts := tilePhaseStart_eq hp hl hg hpass hs ht hc
    exact ⟨fun busy => next_eq (starts.trans (if_neg (ne_true_of_eq_false busy))), fun done => next_eq (starts.trans (if_pos done))⟩
  case tiles =>
    intro p l b r hp hl hb hr
    exact ⟨fun busy => next_eq (tileCompletion_busy hp hl hb hr busy), fun idle hf => next_eq (tileCompletion_idle hp hl hb hr idle hf)⟩
  case blocks =>
    intro p l q hp hl hq hs hc hstop
    have dispatches := queryDispatch_eq hp hl hq hs hc hstop
    exact ⟨fun held => next_eq (dispatches.trans (if_pos held)), fun free => next_eq (dispatches.trans (if_neg (ne_true_of_eq_false free)))⟩
  case application =>
    intro p y x q s1 s2 hp hs he hk hy hstop hready hpart hcheck hread
    have syncing : Syncing s n p y := ⟨hp, hs, he, hk, hstop, hpart⟩
    exact ⟨fun c l made dead s3 hq ha => next_eq (applicationPhase_applies syncing hy hready hcheck hread hq ha),
      fun s3 hq ha => next_eq (applicationPhase_ends syncing hy hready hcheck hread hq ha)⟩
  case compaction =>
    intro p y x s1 hp hs he hk hy hpart hstop found
    have syncing : Syncing s n p y := ⟨hp, hs, he, hk, hstop, hpart⟩
    exact ⟨fun t hf hx => next_eq (compactionMove_ends syncing hy hf hx), fun tb lo hi hf =>
      ⟨fun leased => next_eq (compactionMove_leased syncing hy hf leased), fun s3 ha hm => next_eq (compactionMove_moves syncing hy hf ha hm)⟩⟩
  case wicks =>
    intro w hw clock
    refine ⟨?wakes, ?sleeps, ?aged, ?young, ?preempts, ?unasked, ?resumes, ?unresumed, ?stops, ?unstopped, ?kill, endWick_gone hw⟩
    case wakes => exact fun t ht due => next_eq ((sleepExpiry_eq hw ht).trans (if_pos due))
    case sleeps => exact fun t ht early => next_eq ((sleepExpiry_eq hw ht).trans (if_neg (Nat.not_le.mpr early)))
    case aged => exact fun hr ha => next_eq (ageGuard_aged hw hr ha)
    case young => exact fun h => next_eq (ageGuard_young hw h)
    case preempts =>
      intro hs hp hpair hstop hpage
      exact ⟨fun hsl => next_eq (preemptionEntry_waits hw hs hp hpair hstop hpage hsl),
        fun t hsl hsvc ht => next_eq (preemptionEntry_enters hw hs hp hpair hstop hpage hsl hsvc ht)⟩
    case unasked => exact fun hp => next_eq (preemptionEntry_idle hw hp)
    case resumes => exact fun x hr hs hsl hpair hstop hrest hsvc => next_eq (resumeEntry_enters hw hr hs hsl hpair hstop hrest hsvc)
    case unresumed => exact fun hr => next_eq (resumeEntry_idle hw hr)
    case stops =>
      intro x0 t hx hs hsl hsvc hpair hpage hdbg x
      exact ⟨fun hr => next_eq (debugStop_recorded hw hx hs hsl hsvc hpair hpage hdbg hr),
        fun hr => next_eq (debugStop_full hw hx hs hsl hsvc hpair hpage hdbg hr),
        fun acc va p hr => next_eq (debugStop_fails hw hx hs hsl hsvc hpair hpage hdbg hr)⟩
    case unstopped => exact fun hx => next_eq (debugStop_idle hw hx)
    case kill => exact next_eq (killCommand_eq hw)
  case watchdog =>
    intro g t hg hs
    exact ⟨fun late hi => next_eq (preemptionWatchdog_late hg hs late hi), fun early => next_eq (preemptionWatchdog_early hg hs early)⟩
  case restore =>
    intro g hg hm hstop
    refine ⟨fun va p t hr => next_eq (restoreEntry_unread hg hm hstop hr), ?_⟩
    intro l t hr named
    exact ⟨fun rs u hu => next_eq (restoreEntry_enters hg hm hstop hr hu), fun va p u hu => next_eq (restoreEntry_unrecorded hg hm hstop hr hu)⟩
  case context =>
    intro x hx
    exact ⟨next_eq (faultRecord_eq hx), fun barred => next_eq (userDelivery_barred barred),
      fun t hb hs hd => next_eq (userDelivery_none hx hb hs hd), fun w f h t hb hs hd => next_eq (userDelivery_due hx hb hs hd)⟩
  case turn =>
    intro s1 ws age
    refine ⟨fun w hc => ?_, portTurn_idle, fun w t hl hc ht => portTurn_issues hl hc ht, portTurn_limited⟩
    obtain ⟨hw, ⟨aged, longest⟩ | ⟨unaged, best⟩⟩ := chooseWick_cases hc
    · refine ⟨hw, fun x hx ha => ⟨aged, longest x hx ha⟩, fun none => ?_⟩
      cases aged.symm.trans (none w hw)
    · refine ⟨hw, fun x hx ha => ?_, fun _ => best⟩
      cases ha.symm.trans (unaged x hx)

end Sys2Proof.Proofs.Wicks
